-- ==== Sys2Proof/Word.lean ====
section
/-!
DEFINITION. The machine's word types. Multi-byte values are little-endian (R5).
-/

namespace Sys2Proof

/-- One byte of storage. -/
abbrev Byte := BitVec 8

/-- A 64-bit scalar, address or register value (R253). -/
abbrev Word := BitVec 64

/-- A tile row, quarter accumulator row or V, X or M latch (R43, R47, R208). -/
abbrev Row := BitVec 1024

end Sys2Proof
end

