-- ==== Sys2Proof/Config.lean ====
section
/-!
DEFINITION. The free values: constants without a body, which stand for what the manual leaves to the
device, to its fuses or to a named outside standard. Nothing can be proved of the value of any of them.
-/

namespace Sys2Proof.Config

/-- Nanoseconds of the package time counter that pass with the machine's n-th step (R7, R407: the manual
fixes no relation between a core's cycles and nanoseconds). Log entry 3. -/
opaque nsPerStep : Nat → BitVec 64

/-- The number, taken modulo 31, of 5 mV steps above 300 mV fused as the minimum supply of quadrant q (0 to 7, die B's from 4) at a
master clock in MHz (R192). Log entry 4. -/
opaque fusedStep : Nat → Nat → Nat

/-- That supply in millivolts: 300 to 450 in steps of 5 (R3, R192). -/
def fusedMinMv (q mhz : Nat) : Nat := 300 + 5 * (fusedStep q mhz % 31)

/-- The syndrome logged for a word with the given inverted code-word positions (R80, R83: the check-bit
matrix is not given). Log entry 5. -/
opaque syndrome : List Nat → BitVec 8

/-- Whether the signature of a firmware image verifies under the fused key (R386), by the image's bytes. Log entry 6. -/
opaque mldsaVerifies : List Byte → Bool

/-- The 4,627-byte ML-DSA-87 signature by the device identity key (R388): byte i of the signature over a
digest, for the n-th package reset. Log entry 6. -/
opaque mldsaSignByte : Nat → BitVec 512 → Nat → Byte

/-- Byte i of the device identity public key and of its certificate chain (R388), for the n-th package reset. Log entry 6. -/
opaque identityByte : Nat → Nat → Byte

/-- The length of the certificate chain in bytes (R388). Log entry 6. -/
opaque chainLen : Nat

/-- Byte i of firmware bank b as it stands at the first package reset (R386, R394). Log entry 7. -/
opaque firmwareByte : Nat → Nat → Byte

/-- Length in bytes of the image in firmware bank b at the first package reset. Log entry 7. -/
opaque firmwareLen : Nat → Nat

/-- The secure version number fused in the package before any COMMIT (R386). Log entry 7. -/
opaque fusedSvn : BitVec 12

/-- The firmware bank that was last active before the first package reset (R394). Log entry 7. -/
opaque lastBank : Bool

/-- The version of the state block that the firmware of a given VERSION writes (R387). Log entry 7. -/
opaque stateBlockVersion : BitVec 32 → BitVec 16

/-- Byte o of the configuration space of logical root port i (port × 4 + logical port) before software writes it (R378). Log entry 63. -/
opaque pciConfigByte : Nat → Nat → Byte

/-- The 4 KiB page, among those of the root ports' windows, at which the IOMMU before inbound PCIe has its registers (R379). Log entry 59. -/
opaque iommuPage : Nat

/-- The n-th of the values that the manual leaves open one at a time: a counter of the state says which comes next. Log entries 7, 16, 17,
22, 27, 32, 34, 36, 37, 43 and 63. -/
opaque openValue : Nat → BitVec 64

end Sys2Proof.Config
end

