-- ==== Sys2Proof/Syntax.lean ====
section
/-!
DEFINITION. The operand types and the one inductive of the operations and events of the opcode table.
The constructors before the section of events are the slot instructions of R220 to R226; the events are the
steps that the table lists beside them.
-/

namespace Sys2Proof

/-- The slots whose latches a scalar source can name (R205). -/
inductive SUnit | c | i | l | e
  deriving DecidableEq, Repr

/-- The slots whose latches a vector source can name (R206). -/
inductive VUnit | v0 | v1 | x | m
  deriving DecidableEq, Repr

/-- Tile directions: row, column, diagonal, wrapped anti-diagonal (R43). -/
inductive Dir | h | v | d | w
  deriving DecidableEq, Repr

/-- Element types of R214. -/
inductive Ty | f32 | bf16 | f16 | e4m3 | e5m2 | lns6 | i32 | i16 | i8 | n32 | n16 | n8 | b64
  deriving DecidableEq, Repr

/-- Operand widths of R214. -/
inductive Width | w256 | w512 | w1024
  deriving DecidableEq, Repr

/-- The rounding modes of the RND field (R214). -/
inductive Rnd | ne | rz | rd
  deriving DecidableEq, Repr

/-- Scopes of R85, narrowest first. -/
inductive Scope | core | pair | quad | cluster | die | pkg | fabric
  deriving DecidableEq, Repr

/-- CMP conditions (R266). -/
inductive Cc | eq | ne | lt | ge | ltu | geu
  deriving DecidableEq, Repr

/-- WAITA conditions (R283). -/
inductive Wc | eq | ne | ge | lt | geu | ltu
  deriving DecidableEq, Repr

/-- VCMP conditions (R291). -/
inductive Vc | eq | ne | lt | le | gt | ge | uno
  deriving DecidableEq, Repr

/-- Result queues (R213). -/
inductive RQ | qld | qas | qrm
  deriving DecidableEq, Repr

/-- Scalar load sizes with their extension (R222). -/
inductive LdSz | b | h | w | d | bs | hs | ws
  deriving DecidableEq, Repr

/-- Scalar sizes of 1, 2, 4 and 8 bytes. -/
inductive Sz | b | h | w | d
  deriving DecidableEq, Repr

/-- Sizes of RLD and RST (R364). -/
inductive RSz | b | h | w | d | row
  deriving DecidableEq, Repr

/-- ATOM and RATOM operations (R213). -/
inductive AOp | add | and | or | xor | min | max | minu | maxu | swap | cas | fadd | fmax
  deriving DecidableEq, Repr

/-- VSCAN kinds (R301). -/
inductive ScanK | incl | excl | max | min
  deriving DecidableEq, Repr

/-- XCVT modes (R311). -/
inductive CvtMode | ne | rz | rd | sr
  deriving DecidableEq, Repr

/-- Element types of XPKS and XUPK (R312). -/
inductive PkTy | e4m3 | e5m2 | lns6 | i8
  deriving DecidableEq, Repr

/-- A predicate operand or prefix: negate bit and register number (R204). -/
structure Pr where
  neg : Bool
  n : BitVec 3
  deriving DecidableEq, Repr

/-- The extension that surrendered slots give an instruction: its width in bits and its value (R203). -/
structure Ext where
  w : Nat
  v : Nat
  deriving DecidableEq, Repr

/-- No extension. -/
def Ext.none : Ext := ⟨0, 0⟩

/-- Scalar source (R205). -/
inductive SSrc
  | reg (n : BitVec 5)
  | latch (u : SUnit) (n : BitVec 2)
  deriving DecidableEq, Repr

/-- Scalar destination; off is the suppressed write-back, written _ (R205). -/
inductive SDst
  | reg (n : BitVec 5)
  | off
  deriving DecidableEq, Repr

/-- Second operand of the IR and IC formats: a scalar source or a 6-bit immediate (R212). -/
inductive SOp
  | src (a : SSrc)
  | imm (k : BitVec 6)
  deriving DecidableEq, Repr

/-- Vector source: a tile vector, rotated or not, or a latch (R206). -/
inductive VSrc
  | tile (rot : Bool) (dir : Dir) (t : BitVec 4) (k : BitVec 5)
  | latch (u : VUnit) (n : BitVec 2)
  deriving DecidableEq, Repr

/-- Vector destination (R206). -/
inductive VDst
  | tile (rot : Bool) (dir : Dir) (t : BitVec 4) (k : BitVec 5)
  | off
  deriving DecidableEq, Repr

/-- An accumulator quarter row (R207). -/
structure AccRef where
  a : BitVec 2
  row : BitVec 7
  q : BitVec 2
  deriving DecidableEq, Repr

/-- What every V-slot instruction names: its slot (V1 when u1), predicate, width and type (R214). -/
structure VH where
  u1 : Bool
  p : Pr
  w : Width
  ty : Ty
  deriving DecidableEq, Repr

/-- VPERM's kinds with the operand each takes (R295). -/
inductive Perm
  | idx (b : VSrc)
  | rev
  | ziplo (b : VSrc)
  | ziphi (b : VSrc)
  | even (b : VSrc)
  | odd (b : VSrc)
  | down (k : SSrc)
  | up (k : SSrc)
  deriving DecidableEq, Repr

/-- VBCST's two forms (R296). -/
inductive BSrc
  | scalar (b : SSrc)
  | imm (k : BitVec 13) (ext : Ext)
  deriving DecidableEq, Repr

/-- MSETP's two forms (R325). -/
inductive MpSrc
  | scalar (a : SSrc)
  | imm (k : BitVec 26) (ext : Ext)
  deriving DecidableEq, Repr

/-- The registers that CSRR and CSRW reach (R269). -/
inductive Csr
  | fflags | tick | prio | crew
  | lvl (n : BitVec 3)
  | core (n : BitVec 3)
  | hold (n : BitVec 2)
  deriving DecidableEq, Repr

/-- What an outside agent's access does: the kinds of an application core, of inbound PCIe and of a remote package. -/
inductive AccKind
  | load
  | store (v : Word)
  | atom (op : AOp) (b c : Word)
  | loadRow
  | storeRow (v : Row)
  deriving DecidableEq, Repr

/-- What a hart's instructions do to the hart alone (R371; PRESUMED from the RISC-V architecture, log entry 50): write an integer,
floating-point or vector register; set vl and vtype; write a CSR by its number; write a register of its M-level or S-level interrupt file by
its select number; claim the file's top identity; jump; return from a trap; raise an exception by cause with its trap value. -/
inductive HartOp
  | int (rd : BitVec 5) (v : Word)
  | float (rd : BitVec 5) (v : Word)
  | vec (rd : BitVec 5) (v : BitVec 128)
  | vset (vl vtype : Word)
  | csr (n : BitVec 12) (v : Word)
  | file (sup : Bool) (sel : BitVec 8) (v : Word)
  | claim (sup : Bool)
  | jump (pc : Word)
  | mret
  | sret
  | raise (cause : BitVec 6) (tval : Word)
  deriving DecidableEq, Repr

/-- An access that an agent outside the compute dies makes (R22, R109, R371, R379): the agent's number (the hart, or for inbound PCIe the
segment × 65,536 + the requester id), its kind, the address that it gives, which is a virtual one while a hart translates and an I/O address
before the IOMMU, and the size in bytes; 0 bytes are a legacy INTx message (R376). An access of a hart names its destination register, whether
a load extends its sign, the length of the instruction in bytes, and what the hart has run on its own registers before it. -/
structure OutAcc where
  agent : Nat
  kind : AccKind
  addr : BitVec 64
  size : Nat
  rd : BitVec 5 := 0
  sgn : Bool := false
  len : BitVec 3 := 4
  own : List HartOp := []
  deriving DecidableEq, Repr

/-- A trestle request from another package (R41, R391): source package, source agent number, kind, physical address
and size in bytes. -/
structure RemReq where
  pkg : BitVec 12
  agent : Nat
  kind : AccKind
  pa : BitVec 52
  size : Nat
  deriving DecidableEq, Repr

/-- A trestle flit (R390) with its payload as bytes, and the EtherType of the frame that carries it (R389). -/
structure Flit where
  seq : BitVec 16
  ackseq : BitVec 16
  vc : BitVec 8
  flags : BitVec 8
  used : BitVec 16
  payload : List Byte
  crc : BitVec 32
  etype : BitVec 16 := 0x88B5
  deriving DecidableEq, Repr

/-- The instructions of the eight slots, and the events of the opcode table. In the events, k is a physical core
(R138: die × 128 + cluster × 16 + core in cluster), r a resident slot, d a die, c a cluster and q a queue; a value
named by an event comes from the agent or sensor that causes it. -/
inductive Instr
  -- C slot (R220)
  | br (p : Pr) (off : BitVec 20)
  | call (p : Pr) (off : BitVec 20)
  | ret (p : Pr) (a : SSrc)
  | jmpi (p : Pr) (a : SSrc)
  | loopImm (p : Pr) (l : BitVec 8) (n : BitVec 11) (ext : Ext)
  | loopReg (p : Pr) (l : BitVec 8) (a : SSrc) (ext : Ext)
  | lbrk (p : Pr)
  | yield (p : Pr)
  | susp (p : Pr)
  | suspAny (p : Pr)
  | halt (p : Pr)
  | trap (p : Pr) (imm : BitVec 20)
  | fusePair (p : Pr)
  | fuseQuad (p : Pr)
  | decpl (p : Pr)
  | rejoin (p : Pr)
  -- I slot (R221)
  | add (p : Pr) (d : SDst) (a : SSrc) (b : SOp)
  | sub (p : Pr) (d : SDst) (a : SSrc) (b : SOp)
  | addi (p : Pr) (d : SDst) (a : SSrc) (imm : BitVec 8) (ext : Ext)
  | li (p : Pr) (d : SDst) (imm : BitVec 14) (ext : Ext)
  | mul (p : Pr) (d : SDst) (a : SSrc) (b : SOp)
  | mulh (p : Pr) (d : SDst) (a : SSrc) (b : SOp)
  | mulhu (p : Pr) (d : SDst) (a : SSrc) (b : SOp)
  | div (p : Pr) (d : SDst) (a : SSrc) (b : SOp)
  | divu (p : Pr) (d : SDst) (a : SSrc) (b : SOp)
  | rem (p : Pr) (d : SDst) (a : SSrc) (b : SOp)
  | remu (p : Pr) (d : SDst) (a : SSrc) (b : SOp)
  | min (p : Pr) (d : SDst) (a : SSrc) (b : SOp)
  | max (p : Pr) (d : SDst) (a : SSrc) (b : SOp)
  | minu (p : Pr) (d : SDst) (a : SSrc) (b : SOp)
  | maxu (p : Pr) (d : SDst) (a : SSrc) (b : SOp)
  | and (p : Pr) (d : SDst) (a : SSrc) (b : SOp)
  | or (p : Pr) (d : SDst) (a : SSrc) (b : SOp)
  | xor (p : Pr) (d : SDst) (a : SSrc) (b : SOp)
  | andn (p : Pr) (d : SDst) (a : SSrc) (b : SOp)
  | shl (p : Pr) (d : SDst) (a : SSrc) (b : SOp)
  | shr (p : Pr) (d : SDst) (a : SSrc) (b : SOp)
  | sra (p : Pr) (d : SDst) (a : SSrc) (b : SOp)
  | rotl (p : Pr) (d : SDst) (a : SSrc) (b : SOp)
  | clz (p : Pr) (d : SDst) (a : SSrc)
  | ctz (p : Pr) (d : SDst) (a : SSrc)
  | popc (p : Pr) (d : SDst) (a : SSrc)
  | clmul (p : Pr) (d : SDst) (a : SSrc) (b : SOp)
  | clmulh (p : Pr) (d : SDst) (a : SSrc) (b : SOp)
  | extr (p : Pr) (d : SDst) (a b : SSrc)
  | ins (p : Pr) (d : SDst) (a b : SSrc)
  | cmp (p : Pr) (pd : BitVec 3) (cc : Cc) (a : SSrc) (b : SOp)
  | pand (p : Pr) (pd : BitVec 3) (pa pb : Pr)
  | por (p : Pr) (pd : BitVec 3) (pa pb : Pr)
  | pxor (p : Pr) (pd : BitVec 3) (pa pb : Pr)
  | sel (p : Pr) (d : SDst) (n : BitVec 3) (a : SSrc) (b : SOp)
  | csrr (p : Pr) (d : SDst) (r : Csr)
  | csrw (p : Pr) (r : Csr) (a : SSrc)
  | sqr (p : Pr) (d : SDst) (n : BitVec 4)
  | gettime (p : Pr) (d : SDst)
  -- L slot (R222)
  | ld (p : Pr) (sz : LdSz) (d : SDst) (base : SSrc) (disp : BitVec 24) (ext : Ext)
  | st (p : Pr) (sz : Sz) (a : SSrc) (base : SSrc) (disp : BitVec 24) (ext : Ext)
  | vld (p : Pr) (d : VDst) (base : SSrc) (disp : BitVec 17) (ext : Ext)
  | vst (p : Pr) (a : VSrc) (base : SSrc) (disp : BitVec 17) (ext : Ext)
  | vldg (p : Pr) (sz : Sz) (d : VDst) (base : SSrc) (ix : VSrc)
  | vsts (p : Pr) (sz : Sz) (a : VSrc) (base : SSrc) (ix : VSrc)
  | ldq (p : Pr) (sz : LdSz) (base : SSrc) (disp : BitVec 24) (ext : Ext)
  | vldq (p : Pr) (base : SSrc) (disp : BitVec 17) (ext : Ext)
  | stf (p : Pr) (sz : Sz) (a : SSrc) (base : SSrc) (disp : BitVec 24) (ext : Ext)
  | vstf (p : Pr) (a : VSrc) (base : SSrc) (disp : BitVec 17) (ext : Ext)
  | pop (p : Pr) (q : RQ) (d : SDst ⊕ VDst)
  | pfh (p : Pr) (base : SSrc) (disp : BitVec 24) (ext : Ext)
  | atom (p : Pr) (op : AOp) (dw : Bool) (d : SDst) (a b c : SSrc)
  | pub (p : Pr) (s : Scope)
  | ref (p : Pr) (s : Scope)
  | phase (p : Pr) (s : Scope)
  | pbar (p : Pr) (s : Scope)
  | waita (p : Pr) (s : Scope) (cc : Wc) (a v : SSrc)
  -- V slots (R223)
  | vadd (h : VH) (sat : Bool) (rnd : Rnd) (d : VDst) (a b : VSrc)
  | vsub (h : VH) (sat : Bool) (rnd : Rnd) (d : VDst) (a b : VSrc)
  | vmul (h : VH) (sat : Bool) (rnd : Rnd) (d : VDst) (a b : VSrc)
  | vfma (h : VH) (sat : Bool) (rnd : Rnd) (d : VDst) (a b : VSrc)
  | vfms (h : VH) (sat : Bool) (rnd : Rnd) (d : VDst) (a b : VSrc)
  | vabs (h : VH) (sat : Bool) (d : VDst) (a : VSrc)
  | vmin (h : VH) (d : VDst) (a b : VSrc)
  | vmax (h : VH) (d : VDst) (a b : VSrc)
  | vclamp (h : VH) (d : VDst) (a : VSrc) (b : SSrc)
  | vrnd (h : VH) (rnd : Rnd) (d : VDst) (a : VSrc)
  | vcmp (h : VH) (cc : Vc) (d : VDst) (a b : VSrc)
  | vsel (h : VH) (d : VDst) (a b : VSrc)
  | vand (h : VH) (d : VDst) (a b : VSrc)
  | vor (h : VH) (d : VDst) (a b : VSrc)
  | vxor (h : VH) (d : VDst) (a b : VSrc)
  | vshl (h : VH) (d : VDst) (a b : VSrc)
  | vshr (h : VH) (d : VDst) (a b : VSrc)
  | vsra (h : VH) (d : VDst) (a b : VSrc)
  | vclmul (h : VH) (d : VDst) (a b : VSrc)
  | vclmulh (h : VH) (d : VDst) (a b : VSrc)
  | vperm (h : VH) (k : Perm) (d : VDst) (a : VSrc)
  | vbcst (h : VH) (d : VDst) (b : BSrc)
  | vmov (h : VH) (d : VDst) (a : VSrc)
  | vexts (h : VH) (d : SDst) (a : VSrc) (b : SSrc)
  | vinss (h : VH) (d : VDst) (a b : SSrc)
  | vxch (h : VH) (k : BitVec 2) (d : VDst) (a : VSrc)
  | vredsum (h : VH) (sat : Bool) (rnd : Rnd) (d : VDst) (a : VSrc)
  | vredmax (h : VH) (d : VDst) (a : VSrc)
  | vredmin (h : VH) (d : VDst) (a : VSrc)
  | vscan (h : VH) (sat : Bool) (rnd : Rnd) (k : ScanK) (d : VDst) (a : VSrc)
  | vexp2 (h : VH) (d : VDst) (a : VSrc)
  | vlog2 (h : VH) (d : VDst) (a : VSrc)
  | vrcp (h : VH) (rnd : Rnd) (d : VDst) (a : VSrc)
  | vrsq (h : VH) (d : VDst) (a : VSrc)
  | vsqrt (h : VH) (rnd : Rnd) (d : VDst) (a : VSrc)
  | vsin (h : VH) (d : VDst) (a : VSrc)
  | vcos (h : VH) (d : VDst) (a : VSrc)
  | vtanh (h : VH) (d : VDst) (a : VSrc)
  | vsigm (h : VH) (d : VDst) (a : VSrc)
  | accrd (h : VH) (sat : Bool) (rnd : Rnd) (d : VDst) (a : AccRef)
  | accwr (h : VH) (d : AccRef) (a : VSrc)
  -- X slot (R224)
  | xexp (p : Pr) (d : VDst)
  | xtrn8 (p : Pr) (inv : Bool) (d : VDst) (a : VSrc)
  | xtrn16 (p : Pr) (inv : Bool) (d : VDst) (a : VSrc)
  | xcvt (p : Pr) (st dt : Ty) (m : CvtMode) (d : VDst) (a : VSrc)
  | xcvtSat (p : Pr) (st dt : Ty) (m : CvtMode) (d : VDst) (a : VSrc)
  | xpks (p : Pr) (ty : PkTy) (n : BitVec 3) (j : BitVec 5) (d : VDst) (a : VSrc)
  | xupk (p : Pr) (ty : PkTy) (n : BitVec 3) (j : BitVec 5) (d : VDst) (a : VSrc)
  | xrng (p : Pr) (d : VDst)
  -- M slot (R225)
  | mcall (p : Pr) (rt : BitVec 8) (acc : BitVec 2) (a : SSrc) (rot : Bool) (t : BitVec 4)
  | msetp (p : Pr) (n : BitVec 3) (v : MpSrc)
  | mcfg (p : Pr) (ta tb : Ty)
  | mstw (p : Pr) (tab : Bool) (a b : SSrc)
  | acctk (p : Pr) (acc : BitVec 2)
  | accgv (p : Pr) (acc : BitVec 2)
  | accz (p : Pr) (acc : BitVec 2)
  | ascfg (p : Pr) (a : SSrc)
  | asdrn (p : Pr) (acc : BitVec 2) (a b : SSrc) (ncol1 : BitVec 7)
  | acupd (p : Pr) (acc : BitVec 2) (a b : SSrc) (d1 : BitVec 7)
  | acfin (p : Pr) (s c : BitVec 2) (d1 : BitVec 7)
  -- E slot (R226)
  | cpy (p : Pr) (q : BitVec 2) (a : SSrc)
  | cpym (p : Pr) (q : BitVec 2) (a : SSrc)
  | sig (p : Pr) (q : BitVec 2) (a b : SSrc) (s : Scope) (add : Bool)
  | qfen (p : Pr) (mask : BitVec 4)
  | sld (p : Pr) (a b : SSrc) (ratio : BitVec 6)
  | scld (p : Pr) (n : BitVec 3) (a : SSrc)
  | nxt (p : Pr)
  | wswap (p : Pr)
  | rld (p : Pr) (sz : RSz) (a : SSrc)
  | rst (p : Pr) (sz : RSz) (a b : SSrc)
  | ratom (p : Pr) (op : AOp) (dw res : Bool) (a b c : SSrc)
  | xmeta (p : Pr) (q : BitVec 2) (a b c : SSrc)
  | rngs (p : Pr) (a b : SSrc) (loc : Bool)
  | tdone (p : Pr) (a : SSrc)
  | prbr (p : Pr) (a b : SSrc)
  -- events: contexts, crews and traps
  | waitReadReturn (k r : Nat)
  | mxEntryRun (k : Nat)
  | resultLanding (k r : Nat)
  | farLoadComplete (k id : Nat)
  | atomResultArrive (k id : Nat)
  | publishComplete (k r id : Nat)
  | refreshPerform (k r : Nat)
  | waitMonitorEval (crew rec : Nat)
  | suspendComplete (k r : Nat)
  | contextPickup (k r rec : Nat)
  | crewComplete (crew : Nat)
  | trapRecordWrite (crew : Nat)
  | yieldWatchdogExpire (k r : Nat)
  | stallWatchdogExpire (k r : Nat)
  | launchAdmit (crew : Nat)
  | crewRelease (crew : Nat)
  | preempt (crew : Nat)
  | crewResume (crew : Nat)
  -- events: translation, faults and the latent seam
  | pageWalkComplete (k id : Nat)
  | faultBatchClose (d : Bool)
  | faultBatchDeliver (d : Bool)
  | fltAck (d : Bool) (seq : BitVec 32)
  | sideLogReplay (k u : Nat)
  | tlbInvAll (msi : Bool)
  | tlbInvAsid (msi : Bool) (asid : BitVec 16)
  | tlbInvVpn (msi : Bool)
  | tlbInvAsidVpn (msi : Bool) (asid : BitVec 16)
  | tlbInvRange (msi : Bool) (asid : BitVec 16) (pages : BitVec 28)
  | slotPlacement (d : Bool) (slot : BitVec 14) (home : BitVec 7)
  | seamRel (d : Bool) (slot : BitVec 15)
  | slotReleaseEffect (d : Bool)
  | seamMig (d : Bool) (bank : BitVec 7) (slot : BitVec 15)
  | slotMigrationDone (d : Bool)
  -- events: the weight seam and storage errors
  | seamOwnerWrite (d : Bool) (c : BitVec 3) (owner : BitVec 16) (exp : BitVec 5)
  | seamClearDone (d : Bool) (c : BitVec 3)
  | weightRefreshCycle (d : Bool) (c : BitVec 3) (h : Bool)
  | sensorSample (d : Bool) (c : BitVec 3) (celsius : Nat)
  | errInj (d : Bool) (v : Word)
  | errInjPerform (d : Bool)
  | errLstatWrite (d : Bool) (a : BitVec 4) (v : Word)
  -- events: engines, streams and remote access
  | copyPiece (k q : Nat)
  | signalWrite (k q : Nat)
  | xmetaExport (k q : Nat)
  | streamFetch (k : Nat)
  | streamChunkDecode (k : Nat)
  | remoteRequestArrive (q : RemReq)
  | remoteResponse (k id status : Nat) (v : Row)
  | remoteTimeout (k id : Nat)
  | flitReceive (port : BitVec 3) (fs : List Flit)
  | nakReceive (port : BitVec 3) (ackseq : BitVec 16)
  | portDown (port : BitVec 3)
  | laneShed (port : BitVec 3) (lanes : BitVec 3)
  | retrain (port : BitVec 3)
  -- events: the sequencer, the governor and power gating
  | ssqArm (d : Bool) (v : Word)
  | ssqDisarm (d : Bool)
  | seqLoad (d : Bool)
  | tileDeliver (d : Bool)
  | reportPerform (k : Nat)
  | probeDecision (d : Bool) (node : Nat)
  | skipCopy (d : Bool)
  | reuseUpdate (d : Bool)
  | stepClose (d : Bool)
  | govEvaluate (watts : Nat)
  | quadrantRampDone (d : Bool) (q : BitVec 2)
  | gateHoldExpire (k : Nat)
  | gatingDone (k : Nat)
  | wakeRequest (k : Nat)
  | wakeComplete (k : Nat)
  | pwrGateDisable (d : Bool) (beh : BitVec 16)
  -- events: privileged register writes that have rows of their own
  | cxResume (k r : Nat)
  | cxStep (k r : Nat)
  | cxStop (k r : Nat)
  | cxKill (k r : Nat)
  | cxDdataWrite (k r : Nat) (v : Word)
  | cxHctlWrite (k r : Nat) (v : Word)
  | heapWindowRegWrite (k r : Nat) (which : BitVec 2) (v : Word)
  -- events: command processors
  | cpqDoorbell (q : BitVec 6) (v : BitVec 32)
  | cpqResume (q : BitVec 6)
  | cpqCapSeal (q : BitVec 6) (i : BitVec 3)
  | nop (q : BitVec 6)
  | launch (q : BitVec 6)
  | kill (q : BitVec 6)
  | write (q : BitVec 6)
  | wait (q : BitVec 6)
  | waitPacketComplete (q : BitVec 6)
  | attest (q : BitVec 6)
  | fwload (q : BitVec 6)
  | completionWrite (q : BitVec 6)
  -- events: bring-up, PCIe, application cores and the rest
  | baseTrainingDone (ok : Bool)
  | reducedWorkDone (faults : List (Nat × BitVec 64))
  | inboundPcieRequest (a : OutAcc)
  | appCoreAccess (a : OutAcc)
  | regWrite (priv : Bool) (off : BitVec 33) (v : Word)
  | farWritePerform (k id : Nat)
  | prefetchLineFill (k id : Nat)
  | portUp (port : BitVec 3) (lanes : BitVec 3)
  | retrainingDone (port : BitVec 3) (lanes : BitVec 3)
  -- the least used events stand last: code that is run (not proved) knows no constructor with fields beyond 244
  | droopPressureChange (d : Bool) (q : BitVec 2) (on : Bool)
  | pciCtlWrite (port : Bool) (v : Word)
  | linkReset (port : Bool)
  | rootPortEvent (port : Bool) (j : BitVec 2)
  | tlbInvComplete
  | patrolScrub
  | fwSwap
  | fwHandoverDone
  | fwCommit
  | packageReset
  | bootVerifyDone
  | switchDone
  deriving DecidableEq, Repr

end Sys2Proof
end

