-- ==== Sys2Proof/WellFormed.lean ====
section
/-!
DEFINITION. When an instruction is one that an encoding of the manual stands for: the types, modifiers and codes
that R209, R210, R218 and each instruction's own rule accept. An event is always well formed.
-/

namespace Sys2Proof

/-- The floating-point types, F in R287. -/
def Ty.isF : Ty → Bool
  | .f32 | .bf16 | .f16 | .e4m3 | .e5m2 => true
  | _ => false

/-- The integer types, N in R287. -/
def Ty.isN : Ty → Bool
  | .i32 | .i16 | .i8 | .n32 | .n16 | .n8 => true
  | _ => false

/-- The signed integer types (R236). -/
def Ty.isSigned : Ty → Bool
  | .i32 | .i16 | .i8 => true
  | _ => false

/-- Element size in bytes (R233, R236, R237). -/
def Ty.size : Ty → Nat
  | .f32 | .i32 | .n32 => 4
  | .bf16 | .f16 | .i16 | .n16 => 2
  | .e4m3 | .e5m2 | .lns6 | .i8 | .n8 => 1
  | .b64 => 8

/-- Operand width in bits (R214). -/
def Width.bits : Width → Nat
  | .w256 => 256
  | .w512 => 512
  | .w1024 => 1024

/-- The lane groups that a width asks for (R158). -/
def Width.groups : Width → Nat
  | .w256 => 1
  | .w512 => 2
  | .w1024 => 4

/-- The eight slots of a bundle in header order (R201). -/
inductive SlotId | c | i | l | v0 | v1 | x | m | e
  deriving DecidableEq, Repr

namespace SlotId

/-- Header bit of the slot (R201). -/
def num : SlotId → Nat
  | .c => 0 | .i => 1 | .l => 2 | .v0 => 3 | .v1 => 4 | .x => 5 | .m => 6 | .e => 7

/-- Width of the slot in bits (R201). -/
def width : SlotId → Nat
  | .c => 32 | .i => 32 | .l => 48 | .v0 => 64 | .v1 => 64 | .x => 48 | .m => 48 | .e => 64

/-- Current weight of the slot (R156). -/
def weight : SlotId → Nat
  | .c => 1 | .i => 2 | .l => 4 | .v0 => 6 | .v1 => 6 | .x => 3 | .m => 40 | .e => 2

/-- The slots in header order. -/
def all : List SlotId := [.c, .i, .l, .v0, .v1, .x, .m, .e]

/-- The slots above a slot, in ascending order. -/
def above (u : SlotId) : List SlotId := all.filter (fun t => decide (u.num < t.num))

end SlotId

/-- The combined immediate of R210 as an unsigned number. -/
def immRaw (low w : Nat) (x : Ext) : Nat := low + x.v * 2 ^ w

/-- The value of a combined immediate: sign-extended to 64 bits (R210). -/
def immVal (low w : Nat) (x : Ext) : Word :=
  if w + x.w ≤ 64 then
    (BitVec.ofNat (w + x.w) (immRaw low w x)).signExtend 64
  else BitVec.ofNat 64 (immRaw low w x)

/-- The widths that a chain of surrendered slots can add up to, with the slots that give them (R203). -/
def extChoices : List SlotId → List (List SlotId)
  | [] => [[]]
  | t :: ts => (extChoices ts).map (t :: ·) ++ extChoices ts

/-- The surrendered slots that give slot u an extension of w bits, the first choice there is. -/
def extSlots (u : SlotId) (w : Nat) : Option (List SlotId) :=
  (extChoices u.above).find? (fun l => (l.map SlotId.width).sum == w)

/-- An extension that surrendered slots above u can supply. -/
def Ext.fits (u : SlotId) (x : Ext) : Bool := (extSlots u x.w).isSome && decide (x.v < 2 ^ x.w)

/-- An immediate extension that does not break R210: bits above 63 repeat bit 63. -/
def extImmOk (u : SlotId) (low w : Nat) (x : Ext) : Bool :=
  x.fits u &&
    (decide (w + x.w ≤ 64) ||
      (let v := immRaw low w x
       let hi := v / 2 ^ 63
       decide (hi = 0) || decide (hi = 2 ^ (w + x.w - 63) - 1)))

/-- A ring of tiles declared by LOOP: first tile and length (R209). -/
structure Ring where
  first : Nat
  len : Nat
  deriving DecidableEq, Repr

/-- Ring descriptor i of a LOOP's extension, as its 12 bits (R209). -/
def ringField (x : Ext) (i : Nat) : Nat :=
  if 12 * (i + 1) ≤ x.w then x.v / 2 ^ (12 * i) % 4096 else 0

/-- The rings that a LOOP's extension declares, unused descriptors left out (R209). -/
def ringsOf (x : Ext) : List Ring :=
  ([0, 1, 2, 3].map (ringField x)).filterMap (fun d =>
    if d = 0 then none else some ⟨d / 256, d / 16 % 16 + 1⟩)

/-- Whether a ring covers tile t. -/
def Ring.covers (r : Ring) (t : Nat) : Bool := decide (r.first ≤ t) && decide (t < r.first + r.len)

/-- Two rings share no tile. -/
def Ring.disjoint (a b : Ring) : Bool :=
  decide (a.first + a.len ≤ b.first) || decide (b.first + b.len ≤ a.first)

/-- Every ring is disjoint from the later ones. -/
def ringsDisjoint : List Ring → Bool
  | [] => true
  | r :: rs => rs.all (r.disjoint ·) && ringsDisjoint rs

/-- A LOOP extension that does not break R209: reserved descriptor bits zero, rings inside the tile file and disjoint,
and nothing above the last whole descriptor. -/
def extLoopOk (x : Ext) : Bool :=
  x.fits .c &&
    ([0, 1, 2, 3].all (fun i => decide (ringField x i % 16 = 0))) &&
    (ringsOf x).all (fun r => decide (r.first + r.len ≤ 16)) &&
    ringsDisjoint (ringsOf x) &&
    decide (x.v / 2 ^ (12 * (Nat.min (x.w / 12) 4)) = 0)

/-- No rounding mode is named where the instruction uses none. -/
def rndOk (used : Bool) (r : Rnd) : Bool := used || decide (r = .ne)

/-- SAT is clear where the instruction uses none. -/
def satOk (used sat : Bool) : Bool := used || !sat

/-- The width that ACCRD and ACCWR need for a type (R304, R305). -/
def accWidthOk (h : VH) : Bool := decide (h.w.bits = 32 * 8 * h.ty.size)

/-- The element type pairs of MCFG (R317). -/
def mcfgOk : Ty → Ty → Bool
  | .e4m3, .e4m3 | .e4m3, .e5m2 | .e5m2, .e4m3 | .e5m2, .e5m2 => true
  | .i8, .i8 | .i8, .n8 | .n8, .i8 | .n8, .n8 => true
  | .bf16, .bf16 | .f16, .f16 | .lns6, .lns6 => true
  | _, _ => false

/-- ATOM and RATOM: the float operations need size 2, and only cas names a compare value (R213, R366). -/
def atomOk (op : AOp) (dw : Bool) (c : SSrc) : Bool :=
  (match op with
   | .fadd | .fmax => !dw
   | _ => true) &&
  (decide (op = .cas) || decide (c = .reg 0#5))

/-- Types that the special functions accept (R287). -/
def Ty.isSpecial : Ty → Bool
  | .f32 | .bf16 | .f16 => true
  | _ => false

/-- Some encoding of the manual stands for the instruction. -/
def Instr.wf : Instr → Bool
  | .loopImm _ _ _ x => extLoopOk x
  | .loopReg _ _ _ x => extLoopOk x
  | .addi _ _ _ k x => extImmOk .i k.toNat 8 x
  | .li _ _ k x => extImmOk .i k.toNat 14 x
  | .cmp _ pd _ _ _ | .pand _ pd _ _ | .por _ pd _ _ | .pxor _ pd _ _ => decide (pd ≠ 0#3)
  | .sel _ _ n _ _ => decide (n ≠ 0#3)
  | .ld _ _ _ _ k x | .st _ _ _ _ k x | .ldq _ _ _ k x | .stf _ _ _ _ k x | .pfh _ _ k x =>
    extImmOk .l k.toNat 24 x
  | .vld _ d _ k x =>
    extImmOk .l k.toNat 17 x && (match d with | .tile _ .h _ _ | .off => true | _ => false)
  | .vst _ a _ k x | .vstf _ a _ k x =>
    extImmOk .l k.toNat 17 x && (match a with | .tile _ .h _ _ | .latch _ _ => true | _ => false)
  | .vldq _ _ k x => extImmOk .l k.toNat 17 x
  | .vldg _ _ d _ _ => (match d with | .tile _ .h _ _ | .off => true | _ => false)
  | .vsts _ _ a _ _ => (match a with | .tile _ .h _ _ | .latch _ _ => true | _ => false)
  | .pop _ _ d => (match d with | .inr (.tile _ .h _ _) | .inr .off | .inl _ => true | _ => false)
  | .atom _ op dw _ _ _ c => atomOk op dw c
  | .vadd h _ r _ _ _ | .vsub h _ r _ _ _ | .vfma h _ r _ _ _ | .vfms h _ r _ _ _ =>
    (h.ty.isF || h.ty.isN) && rndOk h.ty.isF r
  | .vmul h _ r _ _ _ =>
    (h.ty.isF || h.ty.isN || decide (h.ty = .lns6)) && rndOk (h.ty.isF || decide (h.ty = .lns6)) r
  | .vabs h s _ _ => (h.ty.isF || h.ty.isN || decide (h.ty = .lns6)) && satOk h.ty.isN s
  | .vmin h _ _ _ | .vmax h _ _ _ | .vcmp h _ _ _ _ | .vredmax h _ _ | .vredmin h _ _ =>
    h.ty.isF || h.ty.isN || decide (h.ty = .lns6)
  | .vclamp h _ _ _ => h.ty.isF || h.ty.isN
  | .vrnd h _ _ _ => h.ty.isF
  | .vand h _ _ _ | .vor h _ _ _ | .vxor h _ _ _ | .vshl h _ _ _ | .vshr h _ _ _ | .vsra h _ _ _ =>
    h.ty.isN || decide (h.ty = .b64)
  | .vclmul h _ _ _ | .vclmulh h _ _ _ => decide (h.ty = .b64)
  | .vbcst h _ b =>
    (match b with
     | .imm k x => extImmOk (if h.u1 then .v1 else .v0) k.toNat 13 x
     | .scalar _ => true)
  | .vxch _ k _ _ => decide (k ≠ 0#2)
  | .vredsum h s r _ _ => (h.ty.isF || h.ty.isN) && satOk h.ty.isN s && rndOk h.ty.isF r
  | .vscan h s r _ _ _ =>
    (decide (h.ty = .f32) || h.ty.isN) && satOk h.ty.isN s && rndOk (decide (h.ty = .f32)) r
  | .vexp2 h _ _ | .vlog2 h _ _ | .vrsq h _ _ | .vsin h _ _ | .vcos h _ _ | .vtanh h _ _ | .vsigm h _ _ =>
    h.ty.isSpecial
  | .vrcp h _ _ _ | .vsqrt h _ _ _ => h.ty.isSpecial
  | .accrd h _ _ _ _ => h.ty.isF && accWidthOk h
  | .accwr h _ _ => h.ty.isF && accWidthOk h
  | .xcvt _ sty dty _ _ _ | .xcvtSat _ sty dty _ _ _ => decide (sty ≠ .b64) && decide (dty ≠ .b64)
  | .mcall _ rt acc _ rot t =>
    (decide (rt.toNat ≤ 5) || decide (16 ≤ rt.toNat)) &&
    (!(decide (rt = 4#8) || decide (rt = 5#8)) || (!rot && decide (t = 0#4))) &&
    (!decide (rt = 5#8) || decide (acc = 0#2))
  | .msetp _ _ (.imm k x) => extImmOk .m k.toNat 26 x
  | .mcfg _ ta tb => mcfgOk ta tb
  | .acupd _ _ _ _ d1 => decide (d1 ≠ 127#7)
  | .acfin _ s c d1 => decide (s ≠ c) && decide (d1 ≠ 127#7)
  | .qfen _ mask => decide (mask ≠ 0#4)
  | .sld _ _ _ q => decide (4 ≤ q.toNat) && decide (q.toNat ≤ 32)
  | .ratom _ op dw _ _ _ c => atomOk op dw c
  | _ => true

/-- The slot in which an instruction stands; none for an event. -/
def Instr.slot : Instr → Option SlotId
  | .br .. | .call .. | .ret .. | .jmpi .. | .loopImm .. | .loopReg .. | .lbrk .. | .yield .. | .susp ..
  | .suspAny .. | .halt .. | .trap .. | .fusePair .. | .fuseQuad .. | .decpl .. | .rejoin .. => some .c
  | .add .. | .sub .. | .addi .. | .li .. | .mul .. | .mulh .. | .mulhu .. | .div .. | .divu .. | .rem ..
  | .remu .. | .min .. | .max .. | .minu .. | .maxu .. | .and .. | .or .. | .xor .. | .andn .. | .shl ..
  | .shr .. | .sra .. | .rotl .. | .clz .. | .ctz .. | .popc .. | .clmul .. | .clmulh .. | .extr .. | .ins ..
  | .cmp .. | .pand .. | .por .. | .pxor .. | .sel .. | .csrr .. | .csrw .. | .sqr .. | .gettime .. => some .i
  | .ld .. | .st .. | .vld .. | .vst .. | .vldg .. | .vsts .. | .ldq .. | .vldq .. | .stf .. | .vstf ..
  | .pop .. | .pfh .. | .atom .. | .pub .. | .ref .. | .phase .. | .pbar .. | .waita .. => some .l
  | .vadd h _ _ _ _ _ | .vsub h _ _ _ _ _ | .vmul h _ _ _ _ _ | .vfma h _ _ _ _ _ | .vfms h _ _ _ _ _
  | .vabs h _ _ _ | .vmin h _ _ _ | .vmax h _ _ _ | .vclamp h _ _ _ | .vrnd h _ _ _ | .vcmp h _ _ _ _
  | .vsel h _ _ _ | .vand h _ _ _ | .vor h _ _ _ | .vxor h _ _ _ | .vshl h _ _ _ | .vshr h _ _ _
  | .vsra h _ _ _ | .vclmul h _ _ _ | .vclmulh h _ _ _ | .vperm h _ _ _ | .vbcst h _ _ | .vmov h _ _
  | .vexts h _ _ _ | .vinss h _ _ _ | .vxch h _ _ _ | .vredsum h _ _ _ _ | .vredmax h _ _ | .vredmin h _ _
  | .vscan h _ _ _ _ _ | .vexp2 h _ _ | .vlog2 h _ _ | .vrcp h _ _ _ | .vrsq h _ _ | .vsqrt h _ _ _
  | .vsin h _ _ | .vcos h _ _ | .vtanh h _ _ | .vsigm h _ _ | .accrd h _ _ _ _ | .accwr h _ _ =>
    some (if h.u1 then .v1 else .v0)
  | .xexp .. | .xtrn8 .. | .xtrn16 .. | .xcvt .. | .xcvtSat .. | .xpks .. | .xupk .. | .xrng .. => some .x
  | .mcall .. | .msetp .. | .mcfg .. | .mstw .. | .acctk .. | .accgv .. | .accz .. | .ascfg .. | .asdrn ..
  | .acupd .. | .acfin .. => some .m
  | .cpy .. | .cpym .. | .sig .. | .qfen .. | .sld .. | .scld .. | .nxt .. | .wswap .. | .rld .. | .rst ..
  | .ratom .. | .xmeta .. | .rngs .. | .tdone .. | .prbr .. => some .e
  | _ => none

end Sys2Proof
end

