-- ==== Sys2Proof/Decode.lean ====
section
/-!
DEFINITION. The decoder of slot words and bundles, total and rejecting by name, and after it the encoder, both
written from R201 to R226 and from the operand fields that each instruction chapter gives.
-/

namespace Sys2Proof

/-- Why a word or a bundle is refused; the numbers are the items of R218. -/
inductive DecErr
  /-- Item 1: the bundle leaves its line, or its PC lies at or beyond the image's end. -/
  | line
  /-- Item 2: a surrender bit that no slot can use. -/
  | surrender
  /-- Item 3: an extension that the instruction does not accept, or that breaks R209 or R210. -/
  | extension
  /-- Item 4: an unassigned opcode. -/
  | opcode
  /-- Item 5: a reserved code, or a type or modifier that the instruction does not accept. -/
  | reserved
  /-- Item 6: a field that must be zero is not. -/
  | nonzero
  /-- A presence byte of zero: padding, no bundle (R202). -/
  | padding
  deriving DecidableEq, Repr

/-- Bits lo + len − 1 to lo of a word. -/
def fld (w lo len : Nat) : Nat := w / 2 ^ lo % 2 ^ len

/-- The field as a bit vector. -/
def fbv (w lo len : Nat) : BitVec len := BitVec.ofNat len (fld w lo len)

/-- The field must be zero. -/
def zero (w lo len : Nat) : Except DecErr Unit := if fld w lo len = 0 then .ok () else .error .nonzero

/-- The instruction takes no extension. -/
def noExt (x : Ext) : Except DecErr Unit := if x = Ext.none then .ok () else .error .extension

/-- A code that must stand for something. -/
def code {α : Type} : Option α → Except DecErr α
  | some a => .ok a
  | none => .error .reserved

def SUnit.dec : Nat → SUnit
  | 0 => .c | 1 => .i | 2 => .l | _ => .e

def SUnit.enc : SUnit → Nat
  | .c => 0 | .i => 1 | .l => 2 | .e => 3

def VUnit.dec : Nat → VUnit
  | 0 => .v0 | 1 => .v1 | 2 => .x | _ => .m

def VUnit.enc : VUnit → Nat
  | .v0 => 0 | .v1 => 1 | .x => 2 | .m => 3

def Dir.dec : Nat → Dir
  | 0 => .h | 1 => .v | 2 => .d | _ => .w

def Dir.enc : Dir → Nat
  | .h => 0 | .v => 1 | .d => 2 | .w => 3

/-- TYPE codes of R214. -/
def Ty.dec : Nat → Option Ty
  | 0 => some .f32 | 1 => some .bf16 | 2 => some .f16 | 3 => some .e4m3 | 4 => some .e5m2 | 5 => some .lns6
  | 6 => some .i32 | 7 => some .i16 | 8 => some .i8 | 9 => some .n32 | 10 => some .n16 | 11 => some .n8
  | 12 => some .b64 | _ => none

def Ty.enc : Ty → Nat
  | .f32 => 0 | .bf16 => 1 | .f16 => 2 | .e4m3 => 3 | .e5m2 => 4 | .lns6 => 5 | .i32 => 6 | .i16 => 7
  | .i8 => 8 | .n32 => 9 | .n16 => 10 | .n8 => 11 | .b64 => 12

def Width.dec : Nat → Option Width
  | 0 => some .w256 | 1 => some .w512 | 2 => some .w1024 | _ => none

def Width.enc : Width → Nat
  | .w256 => 0 | .w512 => 1 | .w1024 => 2

def Rnd.dec : Nat → Option Rnd
  | 0 => some .ne | 1 => some .rz | 2 => some .rd | _ => none

def Rnd.enc : Rnd → Nat
  | .ne => 0 | .rz => 1 | .rd => 2

/-- Scope codes of R85. -/
def Scope.dec : Nat → Option Scope
  | 0 => some .core | 1 => some .pair | 2 => some .quad | 3 => some .cluster | 4 => some .die | 5 => some .pkg
  | 6 => some .fabric | _ => none

def Scope.enc : Scope → Nat
  | .core => 0 | .pair => 1 | .quad => 2 | .cluster => 3 | .die => 4 | .pkg => 5 | .fabric => 6

def Cc.dec : Nat → Option Cc
  | 0 => some .eq | 1 => some .ne | 2 => some .lt | 3 => some .ge | 4 => some .ltu | 5 => some .geu | _ => none

def Cc.enc : Cc → Nat
  | .eq => 0 | .ne => 1 | .lt => 2 | .ge => 3 | .ltu => 4 | .geu => 5

def Wc.dec : Nat → Option Wc
  | 0 => some .eq | 1 => some .ne | 2 => some .ge | 3 => some .lt | 4 => some .geu | 5 => some .ltu | _ => none

def Wc.enc : Wc → Nat
  | .eq => 0 | .ne => 1 | .ge => 2 | .lt => 3 | .geu => 4 | .ltu => 5

def Vc.dec : Nat → Option Vc
  | 0 => some .eq | 1 => some .ne | 2 => some .lt | 3 => some .le | 4 => some .gt | 5 => some .ge
  | 6 => some .uno | _ => none

def Vc.enc : Vc → Nat
  | .eq => 0 | .ne => 1 | .lt => 2 | .le => 3 | .gt => 4 | .ge => 5 | .uno => 6

def RQ.dec : Nat → Option RQ
  | 0 => some .qld | 1 => some .qas | 2 => some .qrm | _ => none

def RQ.enc : RQ → Nat
  | .qld => 0 | .qas => 1 | .qrm => 2

def RSz.dec : Nat → Option RSz
  | 0 => some .b | 1 => some .h | 2 => some .w | 3 => some .d | 4 => some .row | _ => none

def RSz.enc : RSz → Nat
  | .b => 0 | .h => 1 | .w => 2 | .d => 3 | .row => 4

def Sz.dec : Nat → Sz
  | 0 => .b | 1 => .h | 2 => .w | _ => .d

def Sz.enc : Sz → Nat
  | .b => 0 | .h => 1 | .w => 2 | .d => 3

def LdSz.dec : Nat → Option LdSz
  | 0 => some .b | 1 => some .h | 2 => some .w | 3 => some .d | 4 => some .bs | 5 => some .hs | 6 => some .ws
  | _ => none

def LdSz.enc : LdSz → Nat
  | .b => 0 | .h => 1 | .w => 2 | .d => 3 | .bs => 4 | .hs => 5 | .ws => 6

/-- ATOM operation codes of R213. -/
def AOp.dec : Nat → Option AOp
  | 0 => some .add | 1 => some .and | 2 => some .or | 3 => some .xor | 4 => some .min | 5 => some .max
  | 6 => some .minu | 7 => some .maxu | 8 => some .swap | 9 => some .cas | 10 => some .fadd | 11 => some .fmax
  | _ => none

def AOp.enc : AOp → Nat
  | .add => 0 | .and => 1 | .or => 2 | .xor => 3 | .min => 4 | .max => 5 | .minu => 6 | .maxu => 7 | .swap => 8
  | .cas => 9 | .fadd => 10 | .fmax => 11

/-- ATOM and RATOM size codes: 2 word, 3 double (R213, R366). -/
def dwDec : Nat → Option Bool
  | 2 => some false | 3 => some true | _ => none

def dwEnc (dw : Bool) : Nat := if dw then 3 else 2

def ScanK.dec : Nat → Option ScanK
  | 0 => some .incl | 1 => some .excl | 2 => some .max | 3 => some .min | _ => none

def ScanK.enc : ScanK → Nat
  | .incl => 0 | .excl => 1 | .max => 2 | .min => 3

def CvtMode.dec : Nat → CvtMode
  | 0 => .ne | 1 => .rz | 2 => .rd | _ => .sr

def CvtMode.enc : CvtMode → Nat
  | .ne => 0 | .rz => 1 | .rd => 2 | .sr => 3

def PkTy.dec : Nat → PkTy
  | 0 => .e4m3 | 1 => .e5m2 | 2 => .lns6 | _ => .i8

def PkTy.enc : PkTy → Nat
  | .e4m3 => 0 | .e5m2 => 1 | .lns6 => 2 | .i8 => 3

/-- Register numbers of R269. -/
def Csr.dec (n : Nat) : Option Csr :=
  match n with
  | 0x000 => some .fflags
  | 0x001 => some .tick
  | 0x002 => some .prio
  | 0x003 => some .crew
  | _ =>
    if 0x008 ≤ n ∧ n ≤ 0x00F then some (.lvl (BitVec.ofNat 3 (n - 0x008)))
    else if 0x100 ≤ n ∧ n ≤ 0x107 then some (.core (BitVec.ofNat 3 (n - 0x100)))
    else if 0x110 ≤ n ∧ n ≤ 0x113 then some (.hold (BitVec.ofNat 2 (n - 0x110)))
    else none

def Csr.enc : Csr → Nat
  | .fflags => 0 | .tick => 1 | .prio => 2 | .crew => 3
  | .lvl n => 0x008 + n.toNat
  | .core n => 0x100 + n.toNat
  | .hold n => 0x110 + n.toNat

/-- A predicate field (R204). -/
def Pr.dec (f : Nat) : Pr := ⟨decide (f / 8 % 2 = 1), BitVec.ofNat 3 (f % 8)⟩

def Pr.enc (p : Pr) : Nat := (if p.neg then 8 else 0) + p.n.toNat

/-- A 6-bit scalar source field (R205). -/
def SSrc.dec (f : Nat) : Except DecErr SSrc :=
  if f < 32 then .ok (.reg (BitVec.ofNat 5 f))
  else if f < 48 then .ok (.latch (SUnit.dec (f / 4 - 8)) (BitVec.ofNat 2 (f % 4)))
  else .error .reserved

def SSrc.enc : SSrc → Nat
  | .reg n => n.toNat
  | .latch u n => 32 + 4 * u.enc + n.toNat

/-- A 6-bit scalar destination field (R205). -/
def SDst.dec (f : Nat) : Except DecErr SDst :=
  if f < 32 then .ok (.reg (BitVec.ofNat 5 f))
  else if f = 32 then .ok .off
  else .error .nonzero

def SDst.enc : SDst → Nat
  | .reg n => n.toNat
  | .off => 32

/-- Source B or immediate with the BI bit below it, bits 7:1 of formats IR and IC (R212). -/
def SOp.dec (f : Nat) : Except DecErr SOp :=
  if f % 2 = 1 then .ok (.imm (BitVec.ofNat 6 (f / 2)))
  else do .ok (.src (← SSrc.dec (f / 2)))

def SOp.enc : SOp → Nat
  | .src a => 2 * a.enc
  | .imm k => 2 * k.toNat + 1

/-- A 13-bit vector source field (R206). -/
def VSrc.dec (f : Nat) : Except DecErr VSrc :=
  if fld f 12 1 = 0 then
    .ok (.tile (decide (fld f 11 1 = 1)) (Dir.dec (fld f 9 2)) (fbv f 5 4) (fbv f 0 5))
  else do
    zero f 0 8
    .ok (.latch (VUnit.dec (fld f 10 2)) (fbv f 8 2))

def VSrc.enc : VSrc → Nat
  | .tile r d t k => (if r then 2048 else 0) + 512 * d.enc + 32 * t.toNat + k.toNat
  | .latch u n => 4096 + 1024 * u.enc + 256 * n.toNat

/-- A 13-bit vector destination field (R206). -/
def VDst.dec (f : Nat) : Except DecErr VDst :=
  if fld f 12 1 = 0 then
    .ok (.tile (decide (fld f 11 1 = 1)) (Dir.dec (fld f 9 2)) (fbv f 5 4) (fbv f 0 5))
  else do
    zero f 0 12
    .ok .off

def VDst.enc : VDst → Nat
  | .tile r d t k => (if r then 2048 else 0) + 512 * d.enc + 32 * t.toNat + k.toNat
  | .off => 4096

/-- A scalar source held in a vector field: bits 12:6 zero (R206). -/
def ssrc13 (f : Nat) : Except DecErr SSrc := do
  zero f 6 7
  SSrc.dec (fld f 0 6)

/-- A scalar destination held in a vector field (R206). -/
def sdst13 (f : Nat) : Except DecErr SDst := do
  zero f 6 7
  SDst.dec (fld f 0 6)

/-- An accumulator field (R207). -/
def AccRef.dec (f : Nat) : Except DecErr AccRef := do
  zero f 11 2
  .ok ⟨fbv f 9 2, fbv f 2 7, fbv f 0 2⟩

def AccRef.enc (r : AccRef) : Nat := 512 * r.a.toNat + 4 * r.row.toNat + r.q.toNat

/-- Accept the instruction if some encoding stands for it. -/
def accept (e : DecErr) (i : Instr) : Except DecErr Instr := if i.wf then .ok i else .error e

/-- The C slot (R211, R220). -/
def decC (w : Nat) (x : Ext) : Except DecErr Instr := do
  let p := Pr.dec (fld w 20 4)
  match fld w 24 8 with
  | 0x01 => noExt x; .ok (.br p (fbv w 0 20))
  | 0x02 => noExt x; .ok (.call p (fbv w 0 20))
  | 0x03 => noExt x; zero w 0 14; .ok (.ret p (← SSrc.dec (fld w 14 6)))
  | 0x04 => noExt x; zero w 0 14; .ok (.jmpi p (← SSrc.dec (fld w 14 6)))
  | 0x05 =>
    if fld w 11 1 = 1 then accept .extension (.loopImm p (fbv w 12 8) (fbv w 0 11) x)
    else do
      zero w 0 5
      accept .extension (.loopReg p (fbv w 12 8) (← SSrc.dec (fld w 5 6)) x)
  | 0x06 => noExt x; zero w 0 20; .ok (.lbrk p)
  | 0x07 => noExt x; zero w 0 20; .ok (.yield p)
  | 0x08 => noExt x; zero w 1 19; .ok (if fld w 0 1 = 1 then .suspAny p else .susp p)
  | 0x09 => noExt x; zero w 0 20; .ok (.halt p)
  | 0x0A => noExt x; .ok (.trap p (fbv w 0 20))
  | 0x0B => do
    noExt x
    zero w 0 18
    match fld w 18 2 with
    | 1 => .ok (.fusePair p)
    | 2 => .ok (.fuseQuad p)
    | _ => .error .reserved
  | 0x0C => noExt x; zero w 0 20; .ok (.decpl p)
  | 0x0D => noExt x; zero w 0 20; .ok (.rejoin p)
  | _ => .error .opcode

/-- The operands of an IR instruction (R212). -/
def decIR (w : Nat) (x : Ext) (mk : SDst → SSrc → SOp → Instr) : Except DecErr Instr := do
  noExt x
  zero w 0 1
  .ok (mk (← SDst.dec (fld w 14 6)) (← SSrc.dec (fld w 8 6)) (← SOp.dec (fld w 1 7)))

/-- An IR instruction whose B field and BI are zero (R262). -/
def decIR1 (w : Nat) (x : Ext) (mk : SDst → SSrc → Instr) : Except DecErr Instr := do
  noExt x
  zero w 0 8
  .ok (mk (← SDst.dec (fld w 14 6)) (← SSrc.dec (fld w 8 6)))

/-- An IR instruction that takes no immediate (R264). -/
def decIRS (w : Nat) (x : Ext) (mk : SDst → SSrc → SSrc → Instr) : Except DecErr Instr := do
  noExt x
  zero w 0 2
  .ok (mk (← SDst.dec (fld w 14 6)) (← SSrc.dec (fld w 8 6)) (← SSrc.dec (fld w 2 6)))

/-- A predicate-logic instruction, format IP (R212). -/
def decIP (w : Nat) (x : Ext) (mk : BitVec 3 → Pr → Pr → Instr) : Except DecErr Instr := do
  noExt x
  zero w 0 9
  accept .reserved (mk (fbv w 17 3) (Pr.dec (fld w 13 4)) (Pr.dec (fld w 9 4)))

/-- The I slot (R212, R221). -/
def decI (w : Nat) (x : Ext) : Except DecErr Instr := do
  let p := Pr.dec (fld w 20 4)
  match fld w 24 8 with
  | 0x01 => decIR w x (.add p)
  | 0x02 => decIR w x (.sub p)
  | 0x03 => accept .extension (.addi p (← SDst.dec (fld w 14 6)) (← SSrc.dec (fld w 8 6)) (fbv w 0 8) x)
  | 0x04 => accept .extension (.li p (← SDst.dec (fld w 14 6)) (fbv w 0 14) x)
  | 0x05 => decIR w x (.mul p)
  | 0x06 => decIR w x (.mulh p)
  | 0x07 => decIR w x (.mulhu p)
  | 0x08 => decIR w x (.div p)
  | 0x09 => decIR w x (.divu p)
  | 0x0A => decIR w x (.rem p)
  | 0x0B => decIR w x (.remu p)
  | 0x0C => decIR w x (.min p)
  | 0x0D => decIR w x (.max p)
  | 0x0E => decIR w x (.minu p)
  | 0x0F => decIR w x (.maxu p)
  | 0x10 => decIR w x (.and p)
  | 0x11 => decIR w x (.or p)
  | 0x12 => decIR w x (.xor p)
  | 0x13 => decIR w x (.andn p)
  | 0x14 => decIR w x (.shl p)
  | 0x15 => decIR w x (.shr p)
  | 0x16 => decIR w x (.sra p)
  | 0x17 => decIR w x (.rotl p)
  | 0x18 => decIR1 w x (.clz p)
  | 0x19 => decIR1 w x (.ctz p)
  | 0x1A => decIR1 w x (.popc p)
  | 0x1B => decIR w x (.clmul p)
  | 0x1C => decIR w x (.clmulh p)
  | 0x1D => decIRS w x (.extr p)
  | 0x1E => decIRS w x (.ins p)
  | 0x20 => do
    noExt x
    zero w 0 1
    accept .reserved (.cmp p (fbv w 17 3) (← code (Cc.dec (fld w 14 3))) (← SSrc.dec (fld w 8 6))
      (← SOp.dec (fld w 1 7)))
  | 0x21 => decIP w x (.pand p)
  | 0x22 => decIP w x (.por p)
  | 0x23 => decIP w x (.pxor p)
  | 0x30 => do
    noExt x
    zero w 0 2
    .ok (.csrr p (← SDst.dec (fld w 14 6)) (← code (Csr.dec (fld w 2 12))))
  | 0x31 => do
    noExt x
    zero w 0 2
    .ok (.csrw p (← code (Csr.dec (fld w 2 12))) (← SSrc.dec (fld w 14 6)))
  | 0x32 => noExt x; zero w 4 10; .ok (.sqr p (← SDst.dec (fld w 14 6)) (fbv w 0 4))
  | 0x33 => noExt x; zero w 0 14; .ok (.gettime p (← SDst.dec (fld w 14 6)))
  | op =>
    if op / 8 = 5 then
      if op % 8 = 0 then .error .opcode else decIR w x (fun d a b => .sel p d (BitVec.ofNat 3 (op % 8)) a b)
    else .error .opcode

/-- Format LM: data register field, base, displacement (R213). -/
def decLM (w : Nat) (x : Ext) (mk : Nat → SSrc → BitVec 24 → Ext → Except DecErr Instr) : Except DecErr Instr := do
  mk (fld w 30 6) (← SSrc.dec (fld w 24 6)) (fbv w 0 24) x >>= accept .extension

/-- Format LV: tile field, base, displacement (R213). -/
def decLV (w : Nat) (x : Ext) (mk : Nat → SSrc → BitVec 17 → Ext → Except DecErr Instr) : Except DecErr Instr := do
  mk (fld w 23 13) (← SSrc.dec (fld w 17 6)) (fbv w 0 17) x >>= accept .extension

/-- Format LS: a scope alone (R213). -/
def decLS (w : Nat) (x : Ext) (mk : Scope → Instr) : Except DecErr Instr := do
  noExt x
  zero w 0 33
  .ok (mk (← code (Scope.dec (fld w 33 3))))

/-- The L slot (R213, R222). -/
def decL (w : Nat) (x : Ext) : Except DecErr Instr := do
  let p := Pr.dec (fld w 36 4)
  match fld w 40 8 with
  | 0x0C => decLV w x (fun t b k x => do .ok (.vld p (← VDst.dec t) b k x))
  | 0x0D => decLV w x (fun t b k x => do .ok (.vst p (← VSrc.dec t) b k x))
  | 0x17 => decLV w x (fun t b k x => do
      zero t 0 13
      .ok (.vldq p b k x))
  | 0x1C => decLV w x (fun t b k x => do .ok (.vstf p (← VSrc.dec t) b k x))
  | 0x1D => do
    noExt x
    zero w 0 2
    accept .reserved (.vldg p (Sz.dec (fld w 2 2)) (← VDst.dec (fld w 23 13)) (← SSrc.dec (fld w 17 6))
      (← VSrc.dec (fld w 4 13)))
  | 0x1E => do
    noExt x
    zero w 0 2
    accept .reserved (.vsts p (Sz.dec (fld w 2 2)) (← VSrc.dec (fld w 23 13)) (← SSrc.dec (fld w 17 6))
      (← VSrc.dec (fld w 4 13)))
  | 0x20 => do
    noExt x
    zero w 0 6
    accept .reserved (.atom p (← code (AOp.dec (fld w 8 4))) (← code (dwDec (fld w 6 2)))
      (← SDst.dec (fld w 30 6)) (← SSrc.dec (fld w 24 6)) (← SSrc.dec (fld w 18 6)) (← SSrc.dec (fld w 12 6)))
  | 0x28 => decLS w x (.pub p)
  | 0x29 => decLS w x (.ref p)
  | 0x2A => decLS w x (.phase p)
  | 0x2B => decLS w x (.pbar p)
  | 0x2C => do
    noExt x
    zero w 0 18
    .ok (.waita p (← code (Scope.dec (fld w 33 3))) (← code (Wc.dec (fld w 30 3))) (← SSrc.dec (fld w 24 6))
      (← SSrc.dec (fld w 18 6)))
  | 0x2D => do
    noExt x
    zero w 0 14
    let q ← code (RQ.dec (fld w 28 2))
    if fld w 27 1 = 1 then do
      (if fld w 30 6 = 32 then .ok () else .error .nonzero : Except DecErr Unit)
      accept .reserved (.pop p q (.inr (← VDst.dec (fld w 14 13))))
    else do
      zero w 14 13
      .ok (.pop p q (.inl (← SDst.dec (fld w 30 6))))
  | 0x2E => decLM w x (fun f b k x => do
      zero f 0 6
      .ok (.pfh p b k x))
  | op =>
    if 0x01 ≤ op ∧ op ≤ 0x07 then
      decLM w x (fun f b k x => do .ok (.ld p (← code (LdSz.dec (op - 0x01))) (← SDst.dec f) b k x))
    else if 0x08 ≤ op ∧ op ≤ 0x0B then
      decLM w x (fun f b k x => do .ok (.st p (Sz.dec (op - 0x08)) (← SSrc.dec f) b k x))
    else if 0x10 ≤ op ∧ op ≤ 0x16 then
      decLM w x (fun f b k x => do
        zero f 0 6
        .ok (.ldq p (← code (LdSz.dec (op - 0x10))) b k x))
    else if 0x18 ≤ op ∧ op ≤ 0x1B then
      decLM w x (fun f b k x => do .ok (.stf p (Sz.dec (op - 0x18)) (← SSrc.dec f) b k x))
    else .error .opcode

/-- The modifier fields of a V word that an instruction does not use must be zero: SAT, RND and FN (R214, R287). -/
def vPlain (w : Nat) : Except DecErr Unit := zero w 39 7

/-- SAT, bit 45 of a V word. -/
def vSat (w : Nat) : Bool := decide (fld w 45 1 = 1)

/-- RND, bits 44:43 of a V word. -/
def vRnd (w : Nat) : Except DecErr Rnd := code (Rnd.dec (fld w 43 2))

/-- V instruction with SAT, RND and two vector sources. -/
def decV3s (w : Nat) (mk : Bool → Rnd → VDst → VSrc → VSrc → Instr) : Except DecErr Instr := do
  zero w 39 4
  accept .reserved (mk (vSat w) (← vRnd w) (← VDst.dec (fld w 26 13)) (← VSrc.dec (fld w 13 13))
    (← VSrc.dec (fld w 0 13)))

/-- V instruction with two vector sources and no modifier. -/
def decV3 (w : Nat) (mk : VDst → VSrc → VSrc → Instr) : Except DecErr Instr := do
  vPlain w
  accept .reserved (mk (← VDst.dec (fld w 26 13)) (← VSrc.dec (fld w 13 13)) (← VSrc.dec (fld w 0 13)))

/-- V instruction with one vector source and no modifier. -/
def decV2 (w : Nat) (mk : VDst → VSrc → Instr) : Except DecErr Instr := do
  vPlain w
  zero w 0 13
  accept .reserved (mk (← VDst.dec (fld w 26 13)) (← VSrc.dec (fld w 13 13)))

/-- V instruction with RND and one vector source. -/
def decV2r (w : Nat) (mk : Rnd → VDst → VSrc → Instr) : Except DecErr Instr := do
  zero w 39 4
  zero w 45 1
  zero w 0 13
  accept .reserved (mk (← vRnd w) (← VDst.dec (fld w 26 13)) (← VSrc.dec (fld w 13 13)))

/-- VPERM's kind and operand (R295). -/
def decPerm (w : Nat) : Except DecErr Perm := do
  match fld w 39 4 with
  | 0 => .ok (.idx (← VSrc.dec (fld w 0 13)))
  | 1 => zero w 0 13; .ok .rev
  | 2 => .ok (.ziplo (← VSrc.dec (fld w 0 13)))
  | 3 => .ok (.ziphi (← VSrc.dec (fld w 0 13)))
  | 4 => .ok (.even (← VSrc.dec (fld w 0 13)))
  | 5 => .ok (.odd (← VSrc.dec (fld w 0 13)))
  | 6 => .ok (.down (← ssrc13 (fld w 0 13)))
  | 7 => .ok (.up (← ssrc13 (fld w 0 13)))
  | _ => .error .reserved

/-- Only VBCST with FN = 1 takes an extension in a V slot (R223, R296). -/
def vExtOk (w : Nat) (x : Ext) : Except DecErr Unit :=
  if fld w 56 8 = 0x21 ∧ fld w 39 4 = 1 then .ok () else noExt x

/-- The V slots (R214, R223, R287). -/
def decV (u1 : Bool) (w : Nat) (x : Ext) : Except DecErr Instr := do
  vExtOk w x
  let h : VH := ⟨u1, Pr.dec (fld w 52 4), ← code (Width.dec (fld w 50 2)), ← code (Ty.dec (fld w 46 4))⟩
  match fld w 56 8 with
  | 0x01 => decV3s w (.vadd h)
  | 0x02 => decV3s w (.vsub h)
  | 0x03 => decV3s w (.vmul h)
  | 0x04 => decV3s w (.vfma h)
  | 0x05 => decV3s w (.vfms h)
  | 0x06 => do
    zero w 39 6
    zero w 0 13
    accept .reserved (.vabs h (vSat w) (← VDst.dec (fld w 26 13)) (← VSrc.dec (fld w 13 13)))
  | 0x07 => decV3 w (.vmin h)
  | 0x08 => decV3 w (.vmax h)
  | 0x09 => do
    vPlain w
    accept .reserved (.vclamp h (← VDst.dec (fld w 26 13)) (← VSrc.dec (fld w 13 13)) (← ssrc13 (fld w 0 13)))
  | 0x0A => decV2r w (.vrnd h)
  | 0x0B => do
    zero w 43 3
    accept .reserved (.vcmp h (← code (Vc.dec (fld w 39 4))) (← VDst.dec (fld w 26 13))
      (← VSrc.dec (fld w 13 13)) (← VSrc.dec (fld w 0 13)))
  | 0x0C => decV3 w (.vsel h)
  | 0x10 => decV3 w (.vand h)
  | 0x11 => decV3 w (.vor h)
  | 0x12 => decV3 w (.vxor h)
  | 0x13 => decV3 w (.vshl h)
  | 0x14 => decV3 w (.vshr h)
  | 0x15 => decV3 w (.vsra h)
  | 0x18 => decV3 w (.vclmul h)
  | 0x19 => decV3 w (.vclmulh h)
  | 0x20 => do
    zero w 43 3
    .ok (.vperm h (← decPerm w) (← VDst.dec (fld w 26 13)) (← VSrc.dec (fld w 13 13)))
  | 0x21 => do
    zero w 43 3
    zero w 13 13
    match fld w 39 4 with
    | 0 => .ok (.vbcst h (← VDst.dec (fld w 26 13)) (.scalar (← ssrc13 (fld w 0 13))))
    | 1 => accept .extension (.vbcst h (← VDst.dec (fld w 26 13)) (.imm (fbv w 0 13) x))
    | _ => .error .reserved
  | 0x22 => decV2 w (.vmov h)
  | 0x23 => do
    vPlain w
    .ok (.vexts h (← sdst13 (fld w 26 13)) (← VSrc.dec (fld w 13 13)) (← ssrc13 (fld w 0 13)))
  | 0x24 => do
    vPlain w
    .ok (.vinss h (← VDst.dec (fld w 26 13)) (← ssrc13 (fld w 13 13)) (← ssrc13 (fld w 0 13)))
  | 0x25 => do
    zero w 43 3
    zero w 41 2
    zero w 0 13
    accept .reserved (.vxch h (fbv w 39 2) (← VDst.dec (fld w 26 13)) (← VSrc.dec (fld w 13 13)))
  | 0x28 => do
    zero w 39 4
    zero w 0 13
    accept .reserved (.vredsum h (vSat w) (← vRnd w) (← VDst.dec (fld w 26 13)) (← VSrc.dec (fld w 13 13)))
  | 0x29 => decV2 w (.vredmax h)
  | 0x2A => decV2 w (.vredmin h)
  | 0x2B => do
    zero w 0 13
    accept .reserved (.vscan h (vSat w) (← vRnd w) (← code (ScanK.dec (fld w 39 4))) (← VDst.dec (fld w 26 13))
      (← VSrc.dec (fld w 13 13)))
  | 0x30 => decV2 w (.vexp2 h)
  | 0x31 => decV2 w (.vlog2 h)
  | 0x32 => decV2r w (.vrcp h)
  | 0x33 => decV2 w (.vrsq h)
  | 0x34 => decV2r w (.vsqrt h)
  | 0x35 => decV2 w (.vsin h)
  | 0x36 => decV2 w (.vcos h)
  | 0x37 => decV2 w (.vtanh h)
  | 0x38 => decV2 w (.vsigm h)
  | 0x3C => do
    zero w 39 4
    zero w 0 13
    accept .reserved (.accrd h (vSat w) (← vRnd w) (← VDst.dec (fld w 26 13)) (← AccRef.dec (fld w 13 13)))
  | 0x3D => do
    vPlain w
    zero w 0 13
    accept .reserved (.accwr h (← AccRef.dec (fld w 26 13)) (← VSrc.dec (fld w 13 13)))
  | _ => .error .opcode

/-- The X slot (R215, R224, R308 to R315). -/
def decX (w : Nat) (x : Ext) : Except DecErr Instr := do
  noExt x
  let p := Pr.dec (fld w 36 4)
  match fld w 40 8 with
  | 0x01 => zero w 0 23; .ok (.xexp p (← VDst.dec (fld w 23 13)))
  | 0x02 => do
    zero w 1 9
    .ok (.xtrn8 p (decide (fld w 0 1 = 1)) (← VDst.dec (fld w 23 13)) (← VSrc.dec (fld w 10 13)))
  | 0x03 => do
    zero w 1 9
    .ok (.xtrn16 p (decide (fld w 0 1 = 1)) (← VDst.dec (fld w 23 13)) (← VSrc.dec (fld w 10 13)))
  | 0x04 => do
    accept .reserved (.xcvt p (← code (Ty.dec (fld w 6 4))) (← code (Ty.dec (fld w 2 4)))
      (CvtMode.dec (fld w 0 2)) (← VDst.dec (fld w 23 13)) (← VSrc.dec (fld w 10 13)))
  | 0x05 => do
    accept .reserved (.xcvtSat p (← code (Ty.dec (fld w 6 4))) (← code (Ty.dec (fld w 2 4)))
      (CvtMode.dec (fld w 0 2)) (← VDst.dec (fld w 23 13)) (← VSrc.dec (fld w 10 13)))
  | 0x06 => do
    .ok (.xpks p (PkTy.dec (fld w 0 2)) (fbv w 7 3) (fbv w 2 5) (← VDst.dec (fld w 23 13))
      (← VSrc.dec (fld w 10 13)))
  | 0x07 => do
    .ok (.xupk p (PkTy.dec (fld w 0 2)) (fbv w 7 3) (fbv w 2 5) (← VDst.dec (fld w 23 13))
      (← VSrc.dec (fld w 10 13)))
  | 0x08 => zero w 0 23; .ok (.xrng p (← VDst.dec (fld w 23 13)))
  | _ => .error .opcode

/-- Only MSETP with F[3] = 1 takes an extension in the M slot (R225, R325). -/
def mExtOk (w : Nat) (x : Ext) : Except DecErr Unit :=
  if fld w 40 8 = 0x02 ∧ fld w 3 1 = 1 then .ok () else noExt x

/-- The M slot (R216, R225, R344). -/
def decM (w : Nat) (x : Ext) : Except DecErr Instr := do
  mExtOk w x
  let p := Pr.dec (fld w 36 4)
  let acc : BitVec 2 := fbv w 34 2
  match fld w 40 8 with
  | 0x01 => do
    zero w 8 5   -- index 0
    zero w 17 2  -- direction h
    zero w 20 1  -- not a latch
    accept .reserved (.mcall p (fbv w 0 8) acc (← ssrc13 (fld w 21 13)) (decide (fld w 19 1 = 1)) (fbv w 13 4))
  | 0x02 => do
    zero w 34 2
    zero w 4 4
    if fld w 3 1 = 1 then accept .extension (.msetp p (fbv w 0 3) (.imm (fbv w 8 26) x))
    else do
      zero w 8 13
      .ok (.msetp p (fbv w 0 3) (.scalar (← ssrc13 (fld w 21 13))))
  | 0x03 => do
    zero w 8 28
    accept .reserved (.mcfg p (← code (Ty.dec (fld w 4 4))) (← code (Ty.dec (fld w 0 4))))
  | 0x04 => do
    zero w 34 2
    zero w 1 7
    .ok (.mstw p (decide (fld w 0 1 = 1)) (← ssrc13 (fld w 21 13)) (← ssrc13 (fld w 8 13)))
  | 0x05 => zero w 0 34; .ok (.acctk p acc)
  | 0x06 => zero w 0 34; .ok (.accgv p acc)
  | 0x07 => zero w 0 34; .ok (.accz p acc)
  | 0x08 => zero w 34 2; zero w 0 21; .ok (.ascfg p (← ssrc13 (fld w 21 13)))
  | 0x09 => do
    zero w 7 1
    .ok (.asdrn p acc (← ssrc13 (fld w 21 13)) (← ssrc13 (fld w 8 13)) (fbv w 0 7))
  | 0x0A => do
    zero w 7 1
    accept .reserved (.acupd p acc (← ssrc13 (fld w 21 13)) (← ssrc13 (fld w 8 13)) (fbv w 0 7))
  | 0x0B => do
    zero w 7 1
    zero w 8 13
    zero w 21 9    -- quarter and row
    zero w 32 2
    accept .reserved (.acfin p acc (fbv w 30 2) (fbv w 0 7))
  | _ => .error .opcode

/-- Q holds the code that the instruction fixes (R346). -/
def qIs (w q : Nat) : Except DecErr Unit := if fld w 49 3 = q then .ok () else .error .reserved

/-- Q names one of ce0 to ce3 (R346). -/
def qCe (w : Nat) : Except DecErr (BitVec 2) :=
  if fld w 49 3 < 4 then .ok (fbv w 49 2) else .error .reserved

/-- The E slot (R217, R226, R346, R370). -/
def decE (w : Nat) (x : Ext) : Except DecErr Instr := do
  noExt x
  let p := Pr.dec (fld w 52 4)
  zero w 31 6
  match fld w 56 8 with
  | 0x01 => zero w 0 31; zero w 37 6; .ok (.cpy p (← qCe w) (← SSrc.dec (fld w 43 6)))
  | 0x02 => zero w 0 31; zero w 37 6; .ok (.cpym p (← qCe w) (← SSrc.dec (fld w 43 6)))
  | 0x03 => do
    zero w 4 27
    .ok (.sig p (← qCe w) (← SSrc.dec (fld w 43 6)) (← SSrc.dec (fld w 37 6)) (← code (Scope.dec (fld w 0 3)))
      (decide (fld w 3 1 = 1)))
  | 0x04 => qIs w 0; zero w 4 27; zero w 37 12; accept .reserved (.qfen p (fbv w 0 4))
  | 0x08 => do
    qIs w 4
    zero w 6 25
    accept .reserved (.sld p (← SSrc.dec (fld w 43 6)) (← SSrc.dec (fld w 37 6)) (fbv w 0 6))
  | 0x09 => qIs w 0; zero w 3 28; zero w 37 6; .ok (.scld p (fbv w 0 3) (← SSrc.dec (fld w 43 6)))
  | 0x0C => zero w 0 52; .ok (.nxt p)
  | 0x0D => zero w 0 52; .ok (.wswap p)
  | 0x10 => do
    qIs w 6
    zero w 3 28
    zero w 37 6
    .ok (.rld p (← code (RSz.dec (fld w 0 3))) (← SSrc.dec (fld w 43 6)))
  | 0x11 => do
    qIs w 6
    zero w 3 28
    .ok (.rst p (← code (RSz.dec (fld w 0 3))) (← SSrc.dec (fld w 43 6)) (← SSrc.dec (fld w 37 6)))
  | 0x12 => do
    qIs w 6
    zero w 13 18
    accept .reserved (.ratom p (← code (AOp.dec (fld w 0 4))) (← code (dwDec (fld w 4 2)))
      (decide (fld w 6 1 = 1)) (← SSrc.dec (fld w 43 6)) (← SSrc.dec (fld w 37 6)) (← SSrc.dec (fld w 7 6)))
  | 0x18 => do
    zero w 6 25
    .ok (.xmeta p (← qCe w) (← SSrc.dec (fld w 43 6)) (← SSrc.dec (fld w 37 6)) (← SSrc.dec (fld w 0 6)))
  | 0x19 => do
    qIs w 0
    zero w 1 30
    .ok (.rngs p (← SSrc.dec (fld w 43 6)) (← SSrc.dec (fld w 37 6)) (decide (fld w 0 1 = 1)))
  | 0x1A => qIs w 7; zero w 0 31; zero w 37 6; .ok (.tdone p (← SSrc.dec (fld w 43 6)))
  | 0x1B => qIs w 7; zero w 0 31; .ok (.prbr p (← SSrc.dec (fld w 43 6)) (← SSrc.dec (fld w 37 6)))
  | _ => .error .opcode

/-- The instruction of a slot, from its word and the extension that surrendered slots give it. -/
def decodeSlot (u : SlotId) (w : Nat) (x : Ext) : Except DecErr Instr :=
  match u with
  | .c => decC w x
  | .i => decI w x
  | .l => decL w x
  | .v0 => decV false w x
  | .v1 => decV true w x
  | .x => decX w x
  | .m => decM w x
  | .e => decE w x

/-- A little-endian number from its bytes (R5). -/
def leNat : List Byte → Nat
  | [] => 0
  | b :: bs => b.toNat + 256 * leNat bs

/-- n bytes of a number, lowest first (R5). -/
def leBytes : Nat → Nat → List Byte
  | 0, _ => []
  | n + 1, v => BitVec.ofNat 8 v :: leBytes n (v / 256)

/-- A bundle as fetched: its length in bytes and, for each present slot, its word, whether it is surrendered. -/
structure RawBundle where
  len : Nat
  slots : List (SlotId × Nat × Bool)
  deriving DecidableEq, Repr

/-- Cut the slot words of the present slots out of the bytes after the header (R201). -/
def cutSlots (pres surr : Nat) : List SlotId → List Byte → Option (List (SlotId × Nat × Bool))
  | [], _ => some []
  | u :: us, bs =>
    if pres / 2 ^ u.num % 2 = 1 then
      let n := u.width / 8
      if bs.length < n then none
      else (cutSlots pres surr us (bs.drop n)).map
        (fun r => (u, leNat (bs.take n), decide (surr / 2 ^ u.num % 2 = 1)) :: r)
    else cutSlots pres surr us bs

/-- Length in bytes of a bundle with the given presence byte (R201). -/
def bundleLen (pres : Nat) : Nat :=
  2 + ((SlotId.all.filter (fun u => decide (pres / 2 ^ u.num % 2 = 1))).map (fun u => u.width / 8)).sum

/-- The extension that the surrendered slots directly above a slot give it, and the slots left (R203). -/
def takeExt (x : Ext) : List (SlotId × Nat × Bool) → Ext × List (SlotId × Nat × Bool)
  | (u, w, true) :: r => takeExt ⟨x.w + u.width, x.v + w * 2 ^ x.w⟩ r
  | r => (x, r)

/-- A decoded bundle: its length, its unsurrendered slots with their instructions, and the present slots. -/
structure Bundle where
  len : Nat
  instrs : List (SlotId × Instr)
  present : List SlotId
  deriving DecidableEq, Repr

/-- Decode the unsurrendered slots in order, gathering the slots at fault (R218). -/
def decodeSlots : Nat → List (SlotId × Nat × Bool) → List (SlotId × Instr) × List SlotId
  | 0, _ => ([], [])
  | _ + 1, [] => ([], [])
  | n + 1, (u, w, _) :: r =>
    let (x, rest) := takeExt ⟨0, 0⟩ r
    let (is, bad) := decodeSlots n rest
    match decodeSlot u w x with
    | .ok i => ((u, i) :: is, bad)
    | .error _ => (is, u :: bad)

/-- A surrender byte that R218 item 2 accepts, given the present slots: no surrender bit for slot C or for an absent slot,
and below every surrendered slot a present, unsurrendered one. -/
def surrenderOk (pres surr : Nat) : Bool :=
  decide (surr % 2 = 0) &&
  SlotId.all.all (fun u =>
    !decide (surr / 2 ^ u.num % 2 = 1) ||
      (decide (pres / 2 ^ u.num % 2 = 1) &&
        SlotId.all.any (fun t => decide (t.num < u.num) && decide (pres / 2 ^ t.num % 2 = 1) &&
          !decide (surr / 2 ^ t.num % 2 = 1))))

/-- Decode the bundle at the head of the bytes left in its line (R201 to R203, R218). An error carries the slots at fault
as a mask of header bits; a fault of the header marks none. -/
def decodeBundle (bs : List Byte) : Except (DecErr × Nat) Bundle :=
  match bs with
  | [] => .error (.line, 0)
  | pres :: rest =>
    if pres = 0#8 then .error (.padding, 0)
    else match rest with
      | [] => .error (.line, 0)
      | surr :: body =>
        let p := pres.toNat
        let v := surr.toNat
        match cutSlots p v SlotId.all body with
        | none => .error (.line, 0)
        | some ss =>
          if surrenderOk p v then
            match decodeSlots 8 ss with
            | (is, []) => .ok ⟨bundleLen p, is, ss.map (·.1)⟩
            | (_, bad) => .error (.reserved, (bad.map (fun u => 2 ^ u.num)).sum)
          else .error (.surrender, 0)

/-- The slots of a bundle that decode by themselves, where its header does (R218). -/
def bundleParts (bs : List Byte) : List (SlotId × Instr) :=
  match bs with
  | pres :: surr :: body =>
    (match cutSlots pres.toNat surr.toNat SlotId.all body with
     | some ss => if surrenderOk pres.toNat surr.toNat then (decodeSlots 8 ss).1 else []
     | none => [])
  | _ => []

/-! ### The encoder -/

/-- Word of a C-slot or I-slot instruction from its opcode, predicate and bits 19:0 (R211, R212). -/
def word32 (op : Nat) (p : Pr) (f : Nat) : Nat := op * 2 ^ 24 + p.enc * 2 ^ 20 + f

/-- Word of an L, X or M slot from its opcode, predicate and bits 35:0 (R213, R215, R216). -/
def word48 (op : Nat) (p : Pr) (f : Nat) : Nat := op * 2 ^ 40 + p.enc * 2 ^ 36 + f

/-- Bits 19:0 of format IR. -/
def irBits (d : SDst) (a : SSrc) (b : SOp) : Nat := d.enc * 2 ^ 14 + a.enc * 2 ^ 8 + b.enc * 2

/-- Bits 19:0 of format IP. -/
def ipBits (pd : BitVec 3) (a b : Pr) : Nat := pd.toNat * 2 ^ 17 + a.enc * 2 ^ 13 + b.enc * 2 ^ 9

/-- Bits 35:0 of format LM. -/
def lmBits (f : Nat) (b : SSrc) (k : BitVec 24) : Nat := f * 2 ^ 30 + b.enc * 2 ^ 24 + k.toNat

/-- Bits 35:0 of format LV. -/
def lvBits (f : Nat) (b : SSrc) (k : BitVec 17) : Nat := f * 2 ^ 23 + b.enc * 2 ^ 17 + k.toNat

/-- Bits 35:0 of format LG. -/
def lgBits (f : Nat) (b : SSrc) (ix : VSrc) (sz : Sz) : Nat :=
  f * 2 ^ 23 + b.enc * 2 ^ 17 + ix.enc * 2 ^ 4 + sz.enc * 2 ^ 2

/-- Word of a V slot (R214). -/
def vWord (op : Nat) (h : VH) (sat : Bool) (rnd fn d a b : Nat) : Nat :=
  op * 2 ^ 56 + h.p.enc * 2 ^ 52 + h.w.enc * 2 ^ 50 + h.ty.enc * 2 ^ 46 + (if sat then 2 ^ 45 else 0) +
    rnd * 2 ^ 43 + fn * 2 ^ 39 + d * 2 ^ 26 + a * 2 ^ 13 + b

/-- Word of an X slot (R215). -/
def xWord (op : Nat) (p : Pr) (d a f : Nat) : Nat := word48 op p (d * 2 ^ 23 + a * 2 ^ 10 + f)

/-- Word of an M slot (R216). -/
def mWord (op : Nat) (p : Pr) (acc a b f : Nat) : Nat :=
  word48 op p (acc * 2 ^ 34 + a * 2 ^ 21 + b * 2 ^ 8 + f)

/-- Word of an E slot, D zero (R217, R346). -/
def eWord (op : Nat) (p : Pr) (q a b f : Nat) : Nat :=
  op * 2 ^ 56 + p.enc * 2 ^ 52 + q * 2 ^ 49 + a * 2 ^ 43 + b * 2 ^ 37 + f

def bit (b : Bool) : Nat := if b then 1 else 0

/-- VPERM's FN code and B field (R295). -/
def Perm.enc : Perm → Nat × Nat
  | .idx b => (0, b.enc) | .rev => (1, 0) | .ziplo b => (2, b.enc) | .ziphi b => (3, b.enc)
  | .even b => (4, b.enc) | .odd b => (5, b.enc) | .down k => (6, k.enc) | .up k => (7, k.enc)

/-- The word of an instruction and the extension that goes with it; none for an event. -/
def encodeSlot : Instr → Option (Nat × Ext)
  | .br p o => some (word32 0x01 p o.toNat, Ext.none)
  | .call p o => some (word32 0x02 p o.toNat, Ext.none)
  | .ret p a => some (word32 0x03 p (a.enc * 2 ^ 14), Ext.none)
  | .jmpi p a => some (word32 0x04 p (a.enc * 2 ^ 14), Ext.none)
  | .loopImm p l n x => some (word32 0x05 p (l.toNat * 2 ^ 12 + 2 ^ 11 + n.toNat), x)
  | .loopReg p l a x => some (word32 0x05 p (l.toNat * 2 ^ 12 + a.enc * 2 ^ 5), x)
  | .lbrk p => some (word32 0x06 p 0, Ext.none)
  | .yield p => some (word32 0x07 p 0, Ext.none)
  | .susp p => some (word32 0x08 p 0, Ext.none)
  | .suspAny p => some (word32 0x08 p 1, Ext.none)
  | .halt p => some (word32 0x09 p 0, Ext.none)
  | .trap p k => some (word32 0x0A p k.toNat, Ext.none)
  | .fusePair p => some (word32 0x0B p (2 ^ 18), Ext.none)
  | .fuseQuad p => some (word32 0x0B p (2 ^ 19), Ext.none)
  | .decpl p => some (word32 0x0C p 0, Ext.none)
  | .rejoin p => some (word32 0x0D p 0, Ext.none)
  | .add p d a b => some (word32 0x01 p (irBits d a b), Ext.none)
  | .sub p d a b => some (word32 0x02 p (irBits d a b), Ext.none)
  | .addi p d a k x => some (word32 0x03 p (d.enc * 2 ^ 14 + a.enc * 2 ^ 8 + k.toNat), x)
  | .li p d k x => some (word32 0x04 p (d.enc * 2 ^ 14 + k.toNat), x)
  | .mul p d a b => some (word32 0x05 p (irBits d a b), Ext.none)
  | .mulh p d a b => some (word32 0x06 p (irBits d a b), Ext.none)
  | .mulhu p d a b => some (word32 0x07 p (irBits d a b), Ext.none)
  | .div p d a b => some (word32 0x08 p (irBits d a b), Ext.none)
  | .divu p d a b => some (word32 0x09 p (irBits d a b), Ext.none)
  | .rem p d a b => some (word32 0x0A p (irBits d a b), Ext.none)
  | .remu p d a b => some (word32 0x0B p (irBits d a b), Ext.none)
  | .min p d a b => some (word32 0x0C p (irBits d a b), Ext.none)
  | .max p d a b => some (word32 0x0D p (irBits d a b), Ext.none)
  | .minu p d a b => some (word32 0x0E p (irBits d a b), Ext.none)
  | .maxu p d a b => some (word32 0x0F p (irBits d a b), Ext.none)
  | .and p d a b => some (word32 0x10 p (irBits d a b), Ext.none)
  | .or p d a b => some (word32 0x11 p (irBits d a b), Ext.none)
  | .xor p d a b => some (word32 0x12 p (irBits d a b), Ext.none)
  | .andn p d a b => some (word32 0x13 p (irBits d a b), Ext.none)
  | .shl p d a b => some (word32 0x14 p (irBits d a b), Ext.none)
  | .shr p d a b => some (word32 0x15 p (irBits d a b), Ext.none)
  | .sra p d a b => some (word32 0x16 p (irBits d a b), Ext.none)
  | .rotl p d a b => some (word32 0x17 p (irBits d a b), Ext.none)
  | .clz p d a => some (word32 0x18 p (d.enc * 2 ^ 14 + a.enc * 2 ^ 8), Ext.none)
  | .ctz p d a => some (word32 0x19 p (d.enc * 2 ^ 14 + a.enc * 2 ^ 8), Ext.none)
  | .popc p d a => some (word32 0x1A p (d.enc * 2 ^ 14 + a.enc * 2 ^ 8), Ext.none)
  | .clmul p d a b => some (word32 0x1B p (irBits d a b), Ext.none)
  | .clmulh p d a b => some (word32 0x1C p (irBits d a b), Ext.none)
  | .extr p d a b => some (word32 0x1D p (irBits d a (.src b)), Ext.none)
  | .ins p d a b => some (word32 0x1E p (irBits d a (.src b)), Ext.none)
  | .cmp p pd cc a b =>
    some (word32 0x20 p (pd.toNat * 2 ^ 17 + cc.enc * 2 ^ 14 + a.enc * 2 ^ 8 + b.enc * 2), Ext.none)
  | .pand p pd a b => some (word32 0x21 p (ipBits pd a b), Ext.none)
  | .por p pd a b => some (word32 0x22 p (ipBits pd a b), Ext.none)
  | .pxor p pd a b => some (word32 0x23 p (ipBits pd a b), Ext.none)
  | .sel p d n a b => some (word32 (0x28 + n.toNat) p (irBits d a b), Ext.none)
  | .csrr p d r => some (word32 0x30 p (d.enc * 2 ^ 14 + r.enc * 2 ^ 2), Ext.none)
  | .csrw p r a => some (word32 0x31 p (a.enc * 2 ^ 14 + r.enc * 2 ^ 2), Ext.none)
  | .sqr p d n => some (word32 0x32 p (d.enc * 2 ^ 14 + n.toNat), Ext.none)
  | .gettime p d => some (word32 0x33 p (d.enc * 2 ^ 14), Ext.none)
  | .ld p sz d b k x => some (word48 (0x01 + sz.enc) p (lmBits d.enc b k), x)
  | .st p sz a b k x => some (word48 (0x08 + sz.enc) p (lmBits a.enc b k), x)
  | .vld p d b k x => some (word48 0x0C p (lvBits d.enc b k), x)
  | .vst p a b k x => some (word48 0x0D p (lvBits a.enc b k), x)
  | .vldg p sz d b ix => some (word48 0x1D p (lgBits d.enc b ix sz), Ext.none)
  | .vsts p sz a b ix => some (word48 0x1E p (lgBits a.enc b ix sz), Ext.none)
  | .ldq p sz b k x => some (word48 (0x10 + sz.enc) p (lmBits 0 b k), x)
  | .vldq p b k x => some (word48 0x17 p (lvBits 0 b k), x)
  | .stf p sz a b k x => some (word48 (0x18 + sz.enc) p (lmBits a.enc b k), x)
  | .vstf p a b k x => some (word48 0x1C p (lvBits a.enc b k), x)
  | .pop p q (.inl d) => some (word48 0x2D p (d.enc * 2 ^ 30 + q.enc * 2 ^ 28), Ext.none)
  | .pop p q (.inr d) =>
    some (word48 0x2D p (32 * 2 ^ 30 + q.enc * 2 ^ 28 + 2 ^ 27 + d.enc * 2 ^ 14), Ext.none)
  | .pfh p b k x => some (word48 0x2E p (lmBits 0 b k), x)
  | .atom p op dw d a b c =>
    some (word48 0x20 p (d.enc * 2 ^ 30 + a.enc * 2 ^ 24 + b.enc * 2 ^ 18 + c.enc * 2 ^ 12 + op.enc * 2 ^ 8 +
      dwEnc dw * 2 ^ 6), Ext.none)
  | .pub p s => some (word48 0x28 p (s.enc * 2 ^ 33), Ext.none)
  | .ref p s => some (word48 0x29 p (s.enc * 2 ^ 33), Ext.none)
  | .phase p s => some (word48 0x2A p (s.enc * 2 ^ 33), Ext.none)
  | .pbar p s => some (word48 0x2B p (s.enc * 2 ^ 33), Ext.none)
  | .waita p s cc a v =>
    some (word48 0x2C p (s.enc * 2 ^ 33 + cc.enc * 2 ^ 30 + a.enc * 2 ^ 24 + v.enc * 2 ^ 18), Ext.none)
  | .vadd h s r d a b => some (vWord 0x01 h s r.enc 0 d.enc a.enc b.enc, Ext.none)
  | .vsub h s r d a b => some (vWord 0x02 h s r.enc 0 d.enc a.enc b.enc, Ext.none)
  | .vmul h s r d a b => some (vWord 0x03 h s r.enc 0 d.enc a.enc b.enc, Ext.none)
  | .vfma h s r d a b => some (vWord 0x04 h s r.enc 0 d.enc a.enc b.enc, Ext.none)
  | .vfms h s r d a b => some (vWord 0x05 h s r.enc 0 d.enc a.enc b.enc, Ext.none)
  | .vabs h s d a => some (vWord 0x06 h s 0 0 d.enc a.enc 0, Ext.none)
  | .vmin h d a b => some (vWord 0x07 h false 0 0 d.enc a.enc b.enc, Ext.none)
  | .vmax h d a b => some (vWord 0x08 h false 0 0 d.enc a.enc b.enc, Ext.none)
  | .vclamp h d a b => some (vWord 0x09 h false 0 0 d.enc a.enc b.enc, Ext.none)
  | .vrnd h r d a => some (vWord 0x0A h false r.enc 0 d.enc a.enc 0, Ext.none)
  | .vcmp h cc d a b => some (vWord 0x0B h false 0 cc.enc d.enc a.enc b.enc, Ext.none)
  | .vsel h d a b => some (vWord 0x0C h false 0 0 d.enc a.enc b.enc, Ext.none)
  | .vand h d a b => some (vWord 0x10 h false 0 0 d.enc a.enc b.enc, Ext.none)
  | .vor h d a b => some (vWord 0x11 h false 0 0 d.enc a.enc b.enc, Ext.none)
  | .vxor h d a b => some (vWord 0x12 h false 0 0 d.enc a.enc b.enc, Ext.none)
  | .vshl h d a b => some (vWord 0x13 h false 0 0 d.enc a.enc b.enc, Ext.none)
  | .vshr h d a b => some (vWord 0x14 h false 0 0 d.enc a.enc b.enc, Ext.none)
  | .vsra h d a b => some (vWord 0x15 h false 0 0 d.enc a.enc b.enc, Ext.none)
  | .vclmul h d a b => some (vWord 0x18 h false 0 0 d.enc a.enc b.enc, Ext.none)
  | .vclmulh h d a b => some (vWord 0x19 h false 0 0 d.enc a.enc b.enc, Ext.none)
  | .vperm h k d a => some (vWord 0x20 h false 0 k.enc.1 d.enc a.enc k.enc.2, Ext.none)
  | .vbcst h d (.scalar b) => some (vWord 0x21 h false 0 0 d.enc 0 b.enc, Ext.none)
  | .vbcst h d (.imm k x) => some (vWord 0x21 h false 0 1 d.enc 0 k.toNat, x)
  | .vmov h d a => some (vWord 0x22 h false 0 0 d.enc a.enc 0, Ext.none)
  | .vexts h d a b => some (vWord 0x23 h false 0 0 d.enc a.enc b.enc, Ext.none)
  | .vinss h d a b => some (vWord 0x24 h false 0 0 d.enc a.enc b.enc, Ext.none)
  | .vxch h k d a => some (vWord 0x25 h false 0 k.toNat d.enc a.enc 0, Ext.none)
  | .vredsum h s r d a => some (vWord 0x28 h s r.enc 0 d.enc a.enc 0, Ext.none)
  | .vredmax h d a => some (vWord 0x29 h false 0 0 d.enc a.enc 0, Ext.none)
  | .vredmin h d a => some (vWord 0x2A h false 0 0 d.enc a.enc 0, Ext.none)
  | .vscan h s r k d a => some (vWord 0x2B h s r.enc k.enc d.enc a.enc 0, Ext.none)
  | .vexp2 h d a => some (vWord 0x30 h false 0 0 d.enc a.enc 0, Ext.none)
  | .vlog2 h d a => some (vWord 0x31 h false 0 0 d.enc a.enc 0, Ext.none)
  | .vrcp h r d a => some (vWord 0x32 h false r.enc 0 d.enc a.enc 0, Ext.none)
  | .vrsq h d a => some (vWord 0x33 h false 0 0 d.enc a.enc 0, Ext.none)
  | .vsqrt h r d a => some (vWord 0x34 h false r.enc 0 d.enc a.enc 0, Ext.none)
  | .vsin h d a => some (vWord 0x35 h false 0 0 d.enc a.enc 0, Ext.none)
  | .vcos h d a => some (vWord 0x36 h false 0 0 d.enc a.enc 0, Ext.none)
  | .vtanh h d a => some (vWord 0x37 h false 0 0 d.enc a.enc 0, Ext.none)
  | .vsigm h d a => some (vWord 0x38 h false 0 0 d.enc a.enc 0, Ext.none)
  | .accrd h s r d a => some (vWord 0x3C h s r.enc 0 d.enc a.enc 0, Ext.none)
  | .accwr h d a => some (vWord 0x3D h false 0 0 d.enc a.enc 0, Ext.none)
  | .xexp p d => some (xWord 0x01 p d.enc 0 0, Ext.none)
  | .xtrn8 p inv d a => some (xWord 0x02 p d.enc a.enc (bit inv), Ext.none)
  | .xtrn16 p inv d a => some (xWord 0x03 p d.enc a.enc (bit inv), Ext.none)
  | .xcvt p st dt m d a => some (xWord 0x04 p d.enc a.enc (st.enc * 2 ^ 6 + dt.enc * 2 ^ 2 + m.enc), Ext.none)
  | .xcvtSat p st dt m d a => some (xWord 0x05 p d.enc a.enc (st.enc * 2 ^ 6 + dt.enc * 2 ^ 2 + m.enc), Ext.none)
  | .xpks p ty n j d a => some (xWord 0x06 p d.enc a.enc (n.toNat * 2 ^ 7 + j.toNat * 2 ^ 2 + ty.enc), Ext.none)
  | .xupk p ty n j d a => some (xWord 0x07 p d.enc a.enc (n.toNat * 2 ^ 7 + j.toNat * 2 ^ 2 + ty.enc), Ext.none)
  | .xrng p d => some (xWord 0x08 p d.enc 0 0, Ext.none)
  | .mcall p rt acc a rot t =>
    some (mWord 0x01 p acc.toNat a.enc (bit rot * 2 ^ 11 + t.toNat * 2 ^ 5) rt.toNat, Ext.none)
  | .msetp p n (.scalar a) => some (mWord 0x02 p 0 a.enc 0 n.toNat, Ext.none)
  | .msetp p n (.imm k x) => some (word48 0x02 p (k.toNat * 2 ^ 8 + 2 ^ 3 + n.toNat), x)
  | .mcfg p ta tb => some (mWord 0x03 p 0 0 0 (ta.enc * 2 ^ 4 + tb.enc), Ext.none)
  | .mstw p tab a b => some (mWord 0x04 p 0 a.enc b.enc (bit tab), Ext.none)
  | .acctk p acc => some (mWord 0x05 p acc.toNat 0 0 0, Ext.none)
  | .accgv p acc => some (mWord 0x06 p acc.toNat 0 0 0, Ext.none)
  | .accz p acc => some (mWord 0x07 p acc.toNat 0 0 0, Ext.none)
  | .ascfg p a => some (mWord 0x08 p 0 a.enc 0 0, Ext.none)
  | .asdrn p acc a b n => some (mWord 0x09 p acc.toNat a.enc b.enc n.toNat, Ext.none)
  | .acupd p acc a b d => some (mWord 0x0A p acc.toNat a.enc b.enc d.toNat, Ext.none)
  | .acfin p s c d => some (mWord 0x0B p s.toNat (c.toNat * 2 ^ 9) 0 d.toNat, Ext.none)
  | .cpy p q a => some (eWord 0x01 p q.toNat a.enc 0 0, Ext.none)
  | .cpym p q a => some (eWord 0x02 p q.toNat a.enc 0 0, Ext.none)
  | .sig p q a b s add => some (eWord 0x03 p q.toNat a.enc b.enc (bit add * 2 ^ 3 + s.enc), Ext.none)
  | .qfen p m => some (eWord 0x04 p 0 0 0 m.toNat, Ext.none)
  | .sld p a b q => some (eWord 0x08 p 4 a.enc b.enc q.toNat, Ext.none)
  | .scld p n a => some (eWord 0x09 p 0 a.enc 0 n.toNat, Ext.none)
  | .nxt p => some (eWord 0x0C p 0 0 0 0, Ext.none)
  | .wswap p => some (eWord 0x0D p 0 0 0 0, Ext.none)
  | .rld p sz a => some (eWord 0x10 p 6 a.enc 0 sz.enc, Ext.none)
  | .rst p sz a b => some (eWord 0x11 p 6 a.enc b.enc sz.enc, Ext.none)
  | .ratom p op dw res a b c =>
    some (eWord 0x12 p 6 a.enc b.enc (c.enc * 2 ^ 7 + bit res * 2 ^ 6 + dwEnc dw * 2 ^ 4 + op.enc), Ext.none)
  | .xmeta p q a b c => some (eWord 0x18 p q.toNat a.enc b.enc c.enc, Ext.none)
  | .rngs p a b l => some (eWord 0x19 p 0 a.enc b.enc (bit l), Ext.none)
  | .tdone p a => some (eWord 0x1A p 7 a.enc 0 0, Ext.none)
  | .prbr p a b => some (eWord 0x1B p 7 a.enc b.enc 0, Ext.none)
  | _ => none

/-- Cut an extension into the words of the slots that carry it, the lowest slot first (R203). -/
def extWords : List SlotId → Nat → List (SlotId × Nat)
  | [], _ => []
  | u :: us, v => (u, v % 2 ^ u.width) :: extWords us (v / 2 ^ u.width)

/-- The bytes of the bundle that holds one slot word and its extension alone (R201, R203). -/
def bundleBytes (u : SlotId) (w : Nat) (x : Ext) : List Byte :=
  let ss := (extSlots u x.w).getD []
  let pres := 2 ^ u.num + (ss.map (fun t => 2 ^ t.num)).sum
  let surr := (ss.map (fun t => 2 ^ t.num)).sum
  BitVec.ofNat 8 pres :: BitVec.ofNat 8 surr :: leBytes (u.width / 8) w ++
    ((extWords ss x.v).map (fun t => leBytes (t.1.width / 8) t.2)).flatten

/-- encode: the bundle of one well-formed instruction, as bytes; empty for an event. -/
def encode (i : Instr) : List Byte :=
  match i.slot, encodeSlot i with
  | some u, some (w, x) => bundleBytes u w x
  | _, _ => []

/-- The slots whose word has n bits, in header order; the table gives no slot with a word, so the first whose decoder
accepts it is taken (log entry 2). -/
def slotsOfWidth (n : Nat) : List SlotId := SlotId.all.filter (fun u => decide (u.width = n))

/-- The first slot of the list whose decoder accepts the word, with its instruction. -/
def firstAccepting (w : Nat) : List SlotId → Option (SlotId × Instr)
  | [] => none
  | u :: us =>
    match decodeSlot u w Ext.none with
    | .ok i => some (u, i)
    | .error _ => firstAccepting w us

/-- The instruction that the decoder reads from a slot word of the opcode table. -/
def decodeTableWord (nbits w : Nat) : Option Instr := (firstAccepting w (slotsOfWidth nbits)).map (·.2)

end Sys2Proof
end

