-- ==== Sys2Proof/Machine/Flags.lean ====
section
/-!
DEFINITION. The sticky flags of CX_FFLAGS (R250): their places, and how the flags raised by one rounding follow from
what the rounding met.
-/

namespace Sys2Proof.Machine

/-- The seven flags of CX_FFLAGS, bits 6:0 (R250). -/
abbrev Flags := BitVec 7

/-- A floating-point or LNS6 result differed from its exact value. -/
def flagNX : Flags := 0x01#7
/-- A tiny inexact result. -/
def flagUF : Flags := 0x02#7
/-- A result overflowed from finite operands. -/
def flagOF : Flags := 0x04#7
/-- Division by zero, or the logarithm of zero. -/
def flagDZ : Flags := 0x08#7
/-- An invalid operation, or a NaN, infinity or no-value converted to an integer. -/
def flagNV : Flags := 0x10#7
/-- VSIN or VCOS out of range. -/
def flagRANGE : Flags := 0x20#7
/-- A result was clamped by SAT. -/
def flagSAT : Flags := 0x40#7

/-- A flag when its condition holds. -/
def flagIf (c : Bool) (f : Flags) : Flags := if c then f else 0#7

/-- The flags of one rounding of a finite value: inexact, tiny after rounding, overflowed, clamped (R250). -/
def roundFlags (inexact tiny overflow clamped : Bool) : Flags :=
  flagIf inexact flagNX ||| flagIf (inexact && tiny) flagUF ||| flagIf overflow flagOF ||| flagIf clamped flagSAT

/-- Flags raised by several lanes are ORed together (R250, R251). -/
def orFlags (l : List Flags) : Flags := l.foldl (· ||| ·) 0#7

end Sys2Proof.Machine
end

