-- ==== Sys2Proof/Machine/State.lean ====
section
/-!
DEFINITION. The state of the package as plain data, and the state right after package reset. Every structure names the
rule that gives the machine what it holds. Registers that software reads and writes whole are words; what lives only
inside the machine has a type of its own. A physical core is numbered p = die × 128 + cluster × 16 + core (R138).
-/

namespace Sys2Proof.Machine

/-- Why a run stops with a fault: nothing in the manual ends a run. Every event that the manual calls a trap, a fault
or an exception leaves a next state, so no step raises a fault; this is safe. -/
inductive Fault
  deriving DecidableEq, Repr

/-- Why a step is refused. -/
inductive Refusal
  /-- Raised by an arm of exec whose instruction has no meaning yet; safe. -/
  | notModelled (mnemonic : String)
  deriving DecidableEq, Repr

/-- A sparse table of values by number, in canonical form: keys strictly rising, no entry equal to zero, which is what
an unlisted key reads as. -/
abbrev Tab (w : Nat) := List (Nat × BitVec w)

/-- Memory by physical address (R21): HBM4E, latent-seam slots, scratchpads and weight-seam halves, in the canonical
form of Host.Cell lists. An unlisted byte reads zero (log entry 1). -/
abbrev Memory := List Host.Cell

/-- An upset word (R80, R84): array, its LOC, and the inverted code-word positions. -/
structure Upset where
  die : Nat
  array : Nat
  loc : Nat
  pos : List Nat
  deriving DecidableEq, Repr

/-! ### Landing, queues and far accesses of a context -/

/-- What a landing result writes besides its latch ring (R51, R208). -/
inductive LandDst
  | none
  | scal (n : BitVec 5)
  | pred (n : BitVec 3)
  | tile (dir : Dir) (t : BitVec 4) (k : BitVec 5) (bits : Nat)
  | acc (i : Nat)
  | spad (bytes : List (Nat × Byte))
  | csr (r : Csr)
  | mp (n : BitVec 3)
  | scale (n : BitVec 3)
  /-- Scale j of one scale register (R312). -/
  | scaleEl (n : BitVec 3) (j : BitVec 5)
  deriving DecidableEq, Repr

/-- Cause codes of R168. -/
inductive Cause
  | illegalBundle | illegalState | address | token | priv | eccUe | faultAbort | streamFormat | ordsumFull
  | lbufFull | cqFull | watchdog | trap | remote | debug | badRecord | group
  deriving DecidableEq, Repr

/-- A condition posted for a context from outside its bundle (R168): cause, address, info, and the PC that the record
names when it is not the suppressed bundle's. -/
structure Cond where
  cause : Cause
  addr : Word
  info : Word
  pc : Option (BitVec 18)
  deriving DecidableEq, Repr

/-- How an entry of qld or qrm extends its value when it is popped (R278). -/
inductive QKind
  | scal (sz : LdSz)
  | row
  deriving DecidableEq, Repr

/-- A failure that stays with a queue entry (R405). -/
structure QErr where
  cause : Cause
  addr : Word
  info : Word
  reported : Bool
  pc : BitVec 18
  deriving DecidableEq, Repr

/-- One entry of a landing buffer (R152): the tick at which it lands, its slot, destination, value and flags; wait is
the far access whose value it still needs (R255), tileWord marks the word of an NXT (R184), err an access that failed
(R81, R131), accOf the accumulator tile that an ACCRD read (R321). id is the number of a near store, by which a publish
covers it (R91); born orders the cycles of issue on a core, the second bundle of a merged pair behind the first (R52), place its place in the buffer of 64 (R80).
old holds what the bytes of a near store held that a publish has performed before it lands: its context goes on reading those until then
(R51, R91; log entry 11). -/
structure Landing where
  due : Word
  slot : SlotId
  dst : LandDst
  val : Row
  fl : Flags
  wait : Option Nat
  tileWord : Bool
  err : Option QErr
  accOf : Option Nat := none
  id : Nat := 0
  born : Nat := 0
  place : Nat := 0
  old : List (Nat × Byte) := []
  deriving DecidableEq, Repr

/-- An entry of qld, qas or qrm: the access that fills it, its kind, its value once it has arrived, its failure
(R277, R339, R364, R405). -/
structure QEnt where
  id : Nat
  kind : QKind
  val : Option Row
  err : Option QErr
  deriving DecidableEq, Repr

/-- The kinds of access that R19, R31 and R39 tell apart. -/
inductive AK
  | load | store | atomic | prefetch | copySrc | copyDst | scale | waitRead | sigWrite | sigAdd
  deriving DecidableEq, Repr

/-- The fault that something waits at: its 4 KiB page and its cause, and the number of the page record that it has joined; 0 while it has
none (R126). -/
structure FltKey where
  vpn : BitVec 45
  cause : BitVec 4
  num : Nat := 0
  deriving DecidableEq, Repr

/-- Who asks for a walk (R115): a far access, a unit of a core with the root, the address and the kind of its access, or the sequencer. -/
inductive WalkFor
  | far
  | unit (k u : Nat) (root : Word) (va : Nat) (ak : AK)
  | seq
  deriving DecidableEq, Repr

/-- A request at a walker (R115): the ASID, the page, who asked first, and the other units that have joined it. -/
structure WalkReq where
  asid : BitVec 16
  page : Nat
  agent : WalkFor
  also : List WalkFor := []
  deriving DecidableEq, Repr

/-- What a far access does (R119). -/
inductive FarKind
  | load
  | scale (n : BitVec 3)
  | store
  | atom (op : AOp) (dw : Bool) (res : Bool)
  | prefetch
  | waitRead
  deriving DecidableEq, Repr

/-- The address class that decided at issue (R12), with what it bound there (R18). -/
inductive ACls
  /-- The issuing core's own scratchpad through its local window. -/
  | loc
  /-- A physical place fixed at issue: a scratchpad alias, a weight-seam half or the heap window. -/
  | phys (pa : Nat)
  /-- Sv57 translation through the TLBs. -/
  | paged
  deriving DecidableEq, Repr

/-- One part of an access extent that translates on its own (R33, R121): its offset in the extent, its virtual address,
length, class, and the fault it met: page record key and cause; unrec says that the fault found the record buffer full and still
waits for a record (R126). -/
structure Part where
  off : Nat
  va : Word
  len : Nat
  cls : ACls
  flt : Option FltKey
  unrec : Bool := false
  deriving DecidableEq, Repr

/-- The context or agent that issued something (R122): core, resident slot, context serial number, crew, logical core
and PC. -/
structure Origin where
  k : Nat
  r : Nat
  uid : Nat
  crew : BitVec 16
  lcore : Nat
  pc : BitVec 18
  deriving DecidableEq, Repr

/-- Translation registers in force at an issue (R29, R35). -/
structure Xlat where
  hb : Word
  hl : Word
  ho : Word
  hctl : Word
  root : Word
  deriving DecidableEq, Repr

/-- A far access issued and not yet performed. The accesses and refreshes it waits for stand in after (R93, R100, R106);
data holds what a store writes or an atomic's operand and compare value; tick is the tick of issue. parts are those still to be
performed, got the bytes that a load has read so far (R87); held says that the access has met a fault (R119, R120). -/
structure FarAcc where
  id : Nat
  who : Origin
  kind : FarKind
  va : Word
  size : Nat
  data : Row
  parts : List Part
  root : Word
  after : List Nat
  tick : Word
  got : Row := 0
  held : Bool := false
  deriving DecidableEq, Repr

/-- What a pending publish belongs to (R91, R94, R95, R107). -/
inductive PubKind | pub | phase (ref : Nat) | pbar | susp
  deriving DecidableEq, Repr

/-- A publish that has not completed: what it covers, by the numbers of the writes. -/
structure Pub where
  id : Nat
  kind : PubKind
  scope : Scope
  covers : List Nat
  deriving DecidableEq, Repr

/-- A refresh that has not been performed: the reads and publishes it comes after (R93, R94). -/
structure Refresh where
  id : Nat
  scope : Scope
  after : List Nat
  deriving DecidableEq, Repr

/-- An active hardware loop (R258): the LOOP bundle, the first and the last bundle of the body, the counts and the
rings. -/
structure LoopSt where
  hdr : BitVec 18
  first : BitVec 18
  last : BitVec 18
  iter : Nat
  left : Nat
  rings : List Ring
  deriving DecidableEq, Repr

/-- What a suspension will write (R147): the reserved queue slot, STATE, ANY, and a WAITA's condition, scope, value
register and address. -/
structure Susp where
  qslot : Nat
  waiting : Bool
  any : Bool
  cc : Wc
  scope : Scope
  sv : BitVec 3
  addr : Word
  deriving DecidableEq, Repr

/-- What a resident slot is doing (R118, R146, R147, R159, R161, R169, R170). -/
inductive CtxMode
  | empty
  | running
  /-- Parked by a trap. -/
  | trapped
  /-- Parked by debug. -/
  | debug
  /-- Parked by the trap of another member of its lock-step group (R162). -/
  | group
  /-- Suspending: issues nothing until its record is written (R147). -/
  | suspending (s : Susp)
  /-- Waiting for its publish and its barrier generation (R95); arrived says that the flag set is this context's. -/
  | barrier (s : Scope) (arrived : Bool)
  | fuseWait (quad : Bool)
  | rejoinWait
  deriving DecidableEq, Repr

/-- The four-deep latch rings of the eight slots, newest first (R208). -/
structure Rings where
  c : List Word
  i : List Word
  l : List Word
  e : List Word
  v0 : List Row
  v1 : List Row
  x : List Row
  m : List Row
  deriving DecidableEq, Repr

/-- The wait read of a WAITA at issue (R283): its access, the value once it has returned, or its failure. -/
structure WaitRd where
  id : Nat
  val : Option Word
  err : Option QErr
  deriving DecidableEq, Repr

/-- The registers that a context owns and that a program names (R143, R151, R205, R204, R208, R244, R324). -/
structure Regs where
  pc : BitVec 18
  tick : Word
  prio : BitVec 6
  s : Tab 64
  p : BitVec 8
  rings : Rings
  fflags : Flags
  loops : List LoopSt
  mp : Tab 64
  tok : BitVec 4
  rng : Word
  rq : List (BitVec 32)
  nxp : BitVec 2
  deriving DecidableEq, Repr

/-- A resident context slot; held says whether the last cycle in which it issued nothing was a hold (R153, R170); was is the mode
in which a trap found the context, to which RESUME returns it (R96, R169). -/
structure Ctx where
  mode : CtxMode
  uid : Nat
  crew : BitVec 16
  regs : Regs
  landing : List Landing
  qld : List QEnt
  qas : List QEnt
  qrm : List QEnt
  xl : Xlat
  wdog : Word
  pubs : List Pub
  refs : List Refresh
  waitRd : Option WaitRd
  conds : List Cond
  stepOne : Bool
  skipBrk : Bool
  dsel : Word
  dbrk : Word
  yieldCnt : Nat
  stallCnt : Nat
  held : Bool
  holdFlt : Word
  holdSlog : Word
  holdSync : Word
  mergeDeny : Word
  exactStep : Option Nat
  was : CtxMode := .running
  deriving DecidableEq, Repr

/-! ### Engines of a core -/

/-- A copy command record (R348), as its eight doublewords, or one of the other entries of a copy queue. -/
inductive CmdKind
  | copy (mcast : Bool) (g : List Word)
  | sig (addr v : Word) (s : Scope) (add : Bool)
  | fence (mask : BitVec 4)
  | xmeta (src len out : Word)
  deriving DecidableEq, Repr

/-- An entry of ce0 to ce3: what it waits for (R92, R100 to R103), the halves that were active in the clusters at issue, to
which its weight-view accesses are bound (R18), the latent-seam slots that it has bound (R136), its progress in destination
rows and bytes, or in words and stream bytes, the fault at which its reads stand with the address of the piece, the banks it
locks, the own banks it reads or writes, the commands that were in progress when it locked them, and its condition. got and put
are the doublewords of the present piece that it has read and written, buf the bytes read (R87). -/
structure Cmd where
  id : Nat
  who : Origin
  kind : CmdKind
  xl : Xlat
  pubs : List Nat
  after : List Nat
  acts : BitVec 16
  piece : Nat
  pos : Nat
  flt : Option FltKey
  slots : List Nat
  locks : List Nat
  uses : List Nat
  lockAfter : List Nat
  begun : Bool
  done : Bool
  failed : Bool
  fltAt : Word := 0
  got : BitVec 16 := 0
  put : BitVec 16 := 0
  buf : Row := 0
  deriving DecidableEq, Repr

/-- Kind of a side-log entry (R122). -/
inductive LogKind
  | store
  | red (op : AOp) (dw : Bool)
  | copy
  deriving DecidableEq, Repr

/-- A side-log entry (R122): data bytes from va with a length, the access or command it came from, the fault whose answer it
waits for; none once that fault has been answered; unrec as in Part; put are its doublewords that a replay has performed (R87), bound the slots that its command, gone from its queue, holds in flight (R136). -/
structure LogEnt where
  id : Nat
  src : Nat
  who : Origin
  kind : LogKind
  va : Word
  cls : ACls
  len : Nat
  data : Row
  root : Word
  flt : Option FltKey
  unrec : Bool := false
  put : BitVec 16 := 0
  bound : List Nat := []
  deriving DecidableEq, Repr

/-- A compressed stream opened by SLD (R74, R357): physical start of the stream in the half bound at issue, its length,
ratio, bytes fetched and decoded so far, and the earlier far writes of its core that its reads come after (R100). -/
structure Stream where
  id : Nat
  who : Origin
  pa : Nat
  half : Nat × Nat
  len : Nat
  ratio : Nat
  fetched : Nat
  decoded : Nat
  after : List Nat := []
  deriving DecidableEq, Repr

/-- An entry of the decoder FIFO: a row, a failure mark with its chunk offset (R75), or a chunk that an uncorrectable
error stopped, with the serial number of the context whose trap has named it (R81). -/
inductive FifoEnt
  | row (v : Row)
  | mark (ofs : Nat)
  | bad (ofs : Nat) (named : Option Nat)
  deriving DecidableEq, Repr

/-- An entry of mx (R318) with what it sampled at issue. -/
inductive MxKind
  | routine (rt : Nat) (w : List Word) (base : Word) (bt : List Row) (xt mt : List Row) (push : Bool)
      (start len : Nat)
  | accz
  | acupd (base : Word) (c d : Nat)
  | acfin (cen : Nat) (d : Nat)
  | asdrn (r0 c ncol : Nat)
  | mstw (tab : Bool) (a b : Word)
  | ascfgClr
  deriving DecidableEq, Repr

/-- mx entry: accumulator, element types, scales and assay configuration sampled at issue, its places in qas, and the
progress of a routine: micro-op index, rows done, running sums; the fault at which it stands with the address of its row;
errs holds the errors that the tiles of a user routine held when they were sampled (R326). -/
structure MxEnt where
  id : Nat
  who : Origin
  xl : Xlat
  kind : MxKind
  acc : Nat
  split : Bool
  half : Nat
  ta : Ty
  tb : Ty
  scales : List (BitVec 512)
  ascfg : Word
  qas : List Nat
  after : List Nat
  upc : Nat
  row : Nat
  num : Nat
  den : Nat
  red : Bool
  flt : Option FltKey
  fltAt : Word := 0
  errs : List Upset := []
  failed : Bool
  deriving DecidableEq, Repr

/-- A remote request in flight (R363): target, operation, data, the port it was sent on and the time. -/
structure RmReq where
  id : Nat
  who : Origin
  fab : Word
  kind : AccKind
  size : Nat
  qrm : Bool
  pubs : List Nat
  sent : Option (BitVec 64 × Nat)
  deriving DecidableEq, Repr

/-- A report in queue sq (R362, R184): the tile word, the values of a PRBR, what it must come after. -/
structure Report where
  id : Nat
  who : Origin
  word : Word
  val : Option Word
  after : List Nat
  deriving DecidableEq, Repr

/-- A running-best entry of the assay unit (R338). -/
structure Best where
  empty : Bool
  index : BitVec 16
  dist : BitVec 32
  deriving DecidableEq, Repr

/-- A cached translation (R114): ASID, global, first byte of the page, log2 of its size, the leaf, and its place in the
array (R80). -/
structure TlbEnt where
  asid : BitVec 16
  va : Nat
  bits : Nat
  pte : Word
  place : Nat := 0
  deriving DecidableEq, Repr

/-- Power state of a core (R200), with the time at which the state was entered. -/
inductive Gate
  | active
  | hold (since : BitVec 64)
  | gating (wake : Bool)
  | gated
  | waking
  deriving DecidableEq, Repr

/-- Fusion of a core (R159 to R161): the group's size, decoupled, waiting in REJOIN, no longer a member. -/
structure Fuse where
  quad : Bool
  dec : Bool
  deriving DecidableEq, Repr

/-- Why a bundle waits, by the counter of R153 that its cycles go to; the first six freeze the core, the others hold the
context. -/
inductive Wait | cur | bank | swap | pub | fifo | far | flt | slog | sync
  deriving DecidableEq, Repr

/-- How the issue of one slot ended. -/
inductive Res
  | ok
  | trapped (c : Cause) (addr info : Word)
  | waits (w : Wait)
  deriving DecidableEq, Repr

/-- What the C slot asks of the end of its bundle (R257, R258, R147, R150). -/
inductive Ctl
  | next
  | goto (pc : BitVec 18)
  | loop (l : LoopSt)
  | brk
  | halt
  | susp (s : Susp)
  | fuse (quad : Bool)
  | rejoin
  deriving DecidableEq, Repr

/-- How the L slot stops its context after the bundle: a WAITA that parks, a PBAR that waits (R147, R95). -/
inductive LPark
  | susp (s : Susp)
  | barrier (s : Scope)
  deriving DecidableEq, Repr

/-- The bundle in issue: core, resident slot, its PC and length, its slots, how the last slot ended, and what waits for the
end of the bundle. more counts the results of slots that have trapped or wait, popped is the queue that such a POP would take from
(R152, R399); second says that the merge stage took the bundle second (R52). -/
structure Issue where
  k : Nat
  r : Nat
  pc : BitVec 18
  len : Nat
  present : List SlotId
  res : Res
  ctl : Ctl
  park : Option LPark
  yld : Bool
  dec : Bool
  post : List (LandDst × Row)
  toks : List (BitVec 2 × Bool)
  cfg : Option (Ty × Ty)
  asc : Option Word
  more : Nat := 0
  popped : Option RQ := none
  second : Bool := false
  deriving DecidableEq, Repr

/-- A split bundle between its cycles (R157, R158): resident slot, cycles left, weight of its second part until that has
begun, and what waits for its end; own is how many of the cycles left split the bundle of this core, where the others wait for a
lock-step group (R160). -/
structure SplitSt where
  r : Nat
  left : Nat
  weight : Nat
  iss : Issue
  own : Nat := 0
  deriving DecidableEq, Repr

/-- Counters of a core (R137, R153). -/
structure CoreCnt where
  frzCur : Word
  frzBank : Word
  frzSwap : Word
  frzPub : Word
  fifoStarve : Word
  frzFar : Word
  splitCyc : Word
  pfDrop : Word
  deriving DecidableEq, Repr

/-- The engine side of a core: its queues, side logs, remote unit, decoder FIFO and tile queue (R122, R181, R318, R345); fifoAt
is the place of the FIFO's next row among its 128 (R74, R80). -/
structure Engines where
  ce0 : List Cmd
  ce1 : List Cmd
  ce2 : List Cmd
  ce3 : List Cmd
  halted : BitVec 6
  sl : List Stream
  fifo : List FifoEnt
  fifoAt : Nat := 0
  lastClean : Nat
  mx : List MxEnt
  rm : List RmReq
  sq : List Report
  tileq : List Word
  logL : List LogEnt
  log0 : List LogEnt
  log1 : List LogEnt
  log2 : List LogEnt
  log3 : List LogEnt
  deriving DecidableEq, Repr

/-- A line of the snapshot cache (R59): its number, its way, the doublewords that have arrived (R87), its bytes. -/
structure SnapEnt where
  line : Nat
  way : Nat
  has : BitVec 16
  data : Row
  deriving DecidableEq, Repr

/-- The TLBs of a core (R114). -/
structure Tlbs where
  l : List TlbEnt
  c0 : List TlbEnt
  c1 : List TlbEnt
  c2 : List TlbEnt
  c3 : List TlbEnt
  sc : List TlbEnt
  core : List TlbEnt
  deriving DecidableEq, Repr

/-- One core: the two resident slots, the shared arrays (R43, R47, R49, R54, R59, R316, R336, R338), the engines and the
core registers. orphans holds the publishes of contexts that have left; bankPaid counts the freeze cycles of a gather that
have passed (R56). -/
structure Core where
  c0 : Ctx
  c1 : Ctx
  tiles : Tab 1024
  acc : Tab 1024
  scales : Tab 512
  steps : Tab 64
  mstore : Tab 64
  mtab : Tab 64
  ta : Ty
  tb : Ty
  ascfg : Word
  best : List Best
  imem : List Byte
  lastCrew : Option (BitVec 16)
  snap : List SnapEnt
  eng : Engines
  far : List FarAcc
  orphans : List Pub
  tlbs : Tlbs
  cnt : CoreCnt
  ilim : Word
  splitEn : Bool
  press : Bool
  splitMask : BitVec 8
  lgmap : BitVec 4
  shaft : Word
  window : List Nat
  bankPaid : Nat
  denied : Option Nat
  firstWas : Nat
  yielder : Option Nat
  split : Option SplitSt
  fuse : Option Fuse
  swapArr : Bool
  gate : Gate
  cycles : Nat
  deriving DecidableEq, Repr

/-! ### Crews -/

/-- A trap record before it is written (R169). -/
structure TrapRec where
  cause : Cause
  slots : BitVec 8
  lcore : Nat
  rslot : Nat
  async : Bool
  halted : Bool
  image : BitVec 32
  pc : BitVec 18
  tick : Word
  time : Word
  addr : Word
  info : Word
  seq : BitVec 32
  resume : Option Origin
  deriving DecidableEq, Repr

/-- Course of a crew (R142, R150, R164 to R167). -/
inductive CrewSt
  | waiting
  | placed
  | running
  | preempted
  | done
  deriving DecidableEq, Repr

/-- What pre-emption keeps of one member beside the save block's laid-out bytes (R166): the core without its memories. -/
structure Saved where
  lcore : Nat
  core : Core
  deriving DecidableEq, Repr

/-- A context that has halted: what a record of R406 names of it. -/
structure Ended where
  uid : Nat
  lcore : Nat
  r : Nat
  pc : BitVec 18
  tick : Word
  deriving DecidableEq, Repr

/-- A launch that the command processor has accepted, and the crew it makes (R138, R142, R164), with the words of its launch record and
the record's place; kills holds the KILL packets that
complete with it (R384): TAG, CMPL, index. -/
structure Crew where
  id : BitVec 16
  lr : List Word
  queue : Nat
  tag : BitVec 32
  pktIdx : BitVec 32
  cmpl : Bool
  order : Nat
  st : CrewSt
  exact : Bool
  flagPas : List Nat
  rt : BitVec 64
  arrived : List (Scope × Nat × Nat)
  ages : List (Nat × BitVec 64)
  kept : List (Nat × Cond)
  uids : List (Nat × Nat)
  ended : List Ended
  reserved : List Nat
  trapSeq : BitVec 32
  trapq : List TrapRec
  killed : Bool
  kills : List (BitVec 32 × Bool × BitVec 32)
  saved : List Saved
  pausedAt : BitVec 64
  lrAt : Option Nat := none
  deriving DecidableEq, Repr

/-! ### Dies and clusters -/

/-- Sequencer states (R175). -/
inductive SeqSt | idle | armed | load | run | close | paused | done | stopped
  deriving DecidableEq, Repr

/-- A node of the task graph (R179) with its progress in the step: tiles delivered, completed, reports, removed by a
skip, complete; and the governor's record of it (R195). -/
structure Node where
  n0 : Word
  preds : List Nat
  doneT : List Nat
  reps : List (Nat × Word)
  decided : Bool
  complete : Bool
  cyc : Nat
  cycT : Nat
  mean : Option (Nat × Nat)
  deriving DecidableEq, Repr

/-- A tag of the reuse cache (R186). -/
structure Tag where
  valid : Bool
  s0 : Nat
  deriving DecidableEq, Repr

/-- A copy of the sequencer's own (R186, R189, R190): skip, or update of a block; bytes done in its two parts. -/
structure SeqCopy where
  id : Nat
  blk : Nat
  skip : Bool
  pos : Nat
  slots : List Nat
  flt : Option FltKey
  root : Word := 0
  got : BitVec 16 := 0
  put : BitVec 16 := 0
  buf : Row := 0
  deriving DecidableEq, Repr

/-- A tile delivered and not yet reported, with the core and its cycle count at the landing (R183, R195). -/
structure OutTile where
  node : Nat
  tile : Nat
  k : Nat
  start : Option Nat
  deriving DecidableEq, Repr

/-- The step sequencer of a die (R174 to R191); need is the clock in MHz, as a fraction, that its last evaluation asked for
(R197); still says that its crew is paused, or placed again and not released: a tile's start then holds the cycles counted (R195). -/
structure Seq where
  ctl : Word
  stab : Word
  graph : Word
  blkt : Word
  msia : Word
  msid : Word
  st : SeqSt
  mem : SeqSt
  step : Nat
  badrep : Nat
  err : Nat
  nodes : List Node
  blocks : List (Nat × List Word)
  tags : List (Nat × Tag)
  entry : List Word
  began : BitVec 64
  returned : List (Nat × Word)
  rr : Nat
  out : List OutTile
  copies : List SeqCopy
  slog : List LogEnt
  closed : Bool
  riskDone : Bool
  need : Option (Nat × Nat)
  slip : BitVec 64 := 0
  still : Bool := false
  deriving DecidableEq, Repr

/-- A page record of a fault unit (R126): closed with its batch, seq the batch that delivered it, slot the address of the
range record that it went into, num its number. -/
structure PageRec where
  asid : BitVec 16
  vpn : BitVec 45
  cause : BitVec 4
  kinds : BitVec 8
  count : Nat
  crew : BitVec 16
  lcore : Nat
  opened : BitVec 64
  closed : Bool
  seq : Option (BitVec 32)
  slot : Nat
  num : Nat := 0
  deriving DecidableEq, Repr

/-- The fault unit of a die (R126 to R131). -/
structure Flt where
  ctl : Word
  ring : Word
  prod : BitVec 32
  cons : BitVec 32
  msia : Word
  msid : Word
  seq : BitVec 32
  recs : List PageRec
  recsCnt : Word
  deriving DecidableEq, Repr

/-- A record of an error log (R83), its four words. -/
structure ErrRec where
  w0 : Word
  w1 : Word
  w2 : Word
  w3 : Word
  deriving DecidableEq, Repr

/-- The error log of one array (R83): 16 places by index, count, head, overflow. -/
structure ErrLog where
  recs : List (Nat × ErrRec)
  ovf : Nat
  count : Nat
  head : Nat
  deriving DecidableEq, Repr

/-- An entry of the ordered-sum buffer (R98): target, addend, issue order, and when it was recorded. -/
structure OrdSum where
  crew : BitVec 16
  lcore : Nat
  pa : Nat
  addend : BitVec 32
  order : Nat
  stamp : Nat
  deriving DecidableEq, Repr

/-- A move or release of a latent-seam slot in progress (R27, R136); unpl says that it named an unplaced slot. -/
structure SlotOp where
  busy : Bool
  slot : BitVec 15
  bank : BitVec 7
  fail : Bool
  unpl : Bool
  deriving DecidableEq, Repr

/-- A quadrant of a die: supply and clock in force and asked for, pressure, evaluations that called for less
(R157, R192, R196). -/
structure Quad where
  mv : Nat
  mhz : Nat
  mvT : Nat
  mhzT : Nat
  ramp : Bool
  lower : Nat
  deriving DecidableEq, Repr

/-- A cluster: pattern, weight-seam status and counts, shafts, refresh, TLB (R63, R65 to R70, R114, R193). -/
structure Cluster where
  xpat : BitVec 16
  pat : BitVec 16
  owner : BitVec 16
  epoch : BitVec 16
  exp : BitVec 5
  arr : BitVec 5
  band : BitVec 2
  lost : Bool
  clr : Bool
  act : Bool
  reads0 : Nat
  reads1 : Nat
  shafts : Tab 64
  stall0 : Word
  stall1 : Word
  row0 : Nat
  row1 : Nat
  cool : List (Nat × BitVec 64)
  tlb : List TlbEnt
  deriving DecidableEq, Repr

/-- A compute die: sequencer, fault unit, placement unit, error logs, injection, meters, quadrants (R373 to R375); walks holds
the requests at the walker, by ASID and page in order of arrival: the first 256 run, the others wait (R115). -/
structure Die where
  seq : Seq
  flt : Flt
  frames : List (Nat × Nat)
  homes : List (Nat × Nat)
  rel : SlotOp
  mig : SlotOp
  scrub : Word
  gateEn : Bool
  gateBeh : BitVec 16
  energy : Word
  ifcred : Word
  skipcred : Word
  late : Nat
  risk : Bool
  quads : List Quad
  inj : Word
  injPos : Word
  logs : List ErrLog
  ordsum : List OrdSum
  walkc : List (Nat × TlbEnt)
  walks : List WalkReq := []
  scrubAt : Option (BitVec 64) := none
  ifres : Nat := 0
  deriving DecidableEq, Repr

/-! ### The headframe die -/

/-- A capability of a submission queue (R381), its two halves. -/
structure Cap where
  hi : Word
  lo : Word
  deriving DecidableEq, Repr

/-- A completion record waiting for its ring (R383, R385). -/
structure Compl where
  w0 : Word
  time : Word
  deriving DecidableEq, Repr

/-- A submission queue (R380 to R385). -/
structure Cpq where
  ctl : Word
  halt : Bool
  hidx : BitVec 32
  tail : BitVec 32
  head : BitVec 32
  ctail : BitVec 32
  chead : BitVec 32
  msia : Word
  msid : Word
  caps : List Cap
  waitPkt : Option (List Word)
  pend : List Compl
  deriving DecidableEq, Repr

/-- The bytes of a firmware bank: those it had at the first reset, or those that FWLOAD put there, or none (R386). -/
inductive Bank
  | initial
  | none
  | bytes (l : List Byte)
  deriving DecidableEq, Repr

/-- Firmware state (R386, R387); loading is the queue and the packet of the FWLOAD in progress, the queue's index of it. -/
structure Fw where
  act : Bool
  aver : BitVec 32
  fsvn : BitVec 12
  stage : BitVec 2
  rollbk : Bool
  hover : Bool
  hoverAt : BitVec 64
  bank0 : Bank
  bank1 : Bank
  loading : Option (Nat × List Word × BitVec 32) := none
  deriving DecidableEq, Repr

/-- The answer to an outside agent's access: performed with a value, an access fault, Unsupported Request, Completer
Abort, a trestle status. -/
inductive Resp
  | none
  | value (v : Row)
  | accessFault
  | unsupported
  | abort
  | status (n : Nat) (v : Row)
  deriving DecidableEq, Repr

/-- A trestle port (R389, R390, R393): registers, the sender's replay buffer and the receiver's count. -/
structure Port where
  en : Bool
  up : Bool
  lanes : BitVec 3
  retraining : Bool
  regain : Bool
  crcerr : Word
  replay : Word
  shed : Word
  txSeq : BitVec 16
  ackd : BitVec 16
  buf : List Flit
  rxSeq : BitVec 16
  rx : List Flit
  nak : Bool
  lastAck : BitVec 64
  nakDue : Bool := false
  deriving DecidableEq, Repr

/-- A PCIe root port (R376): its registers and the bifurcation in force; whether its links train, which of its logical ports have a
device present and which have seen that change, what each has reported through AER, its uncorrectable error status register, and the bytes
written to the configuration space of each logical port, by logical port and offset (R378). -/
structure Pci where
  ctl : Word
  bifNow : BitVec 2
  msia : Word
  msid : Word
  up : Bool := false
  present : BitVec 4 := 0
  changed : BitVec 4 := 0
  aer : List (Nat × Resp) := []
  uncor : Tab 32 := []
  cfg : List (Nat × Byte) := []
  deriving DecidableEq, Repr

/-- The registers of the IOMMU before inbound PCIe (R379), as the RISC-V IOMMU specification names them: the device directory, the
command queue, the fault queue, and their interrupts (PRESUMED, log entry 59). -/
structure Iommu where
  fctl : BitVec 32 := 0
  ddtp : Word := 1
  cqb : Word := 0
  cqh : BitVec 32 := 0
  cqt : BitVec 32 := 0
  cqcsr : BitVec 32 := 0
  fqb : Word := 0
  fqh : BitVec 32 := 0
  fqt : BitVec 32 := 0
  fqcsr : BitVec 32 := 0
  ipsr : BitVec 32 := 0
  icvec : Word := 0
  msiCfg : Tab 32 := []
  deriving DecidableEq, Repr

/-- Privilege modes of an application hart (R371). -/
inductive HartMode | m | s | u
  deriving DecidableEq, Repr

/-- The registers of an IMSIC interrupt file beside its pending identities (R371, R372): delivery, the threshold, the identities that are
enabled (PRESUMED from the AIA specification, log entry 50). -/
structure ImsicFile where
  delivery : Bool := false
  threshold : BitVec 11 := 0
  enabled : List Nat := []
  deriving DecidableEq, Repr

/-- An application hart (R371), RV64GCBV with M, S and U modes: its registers, the control of its F, D and V state, the translation root,
the trap registers of M and S mode with their delegation, and its two interrupt files (PRESUMED from the RISC-V architecture, log entry
50). The width of a vector register is not given: it is 128 bits here, the least that V allows (DESIGN CHOICE, log entry 77). -/
structure Hart where
  mode : HartMode
  pc : Word
  x : Tab 64
  f : Tab 64
  v : Tab 128
  satp : Word
  mtvec : Word
  mepc : Word
  mcause : Word
  mtval : Word
  mpp : HartMode
  mie : Bool
  mpie : Bool
  stvec : Word := 0
  sepc : Word := 0
  scause : Word := 0
  stval : Word := 0
  spp : HartMode := .u
  sie : Bool := false
  spie : Bool := false
  mscratch : Word := 0
  sscratch : Word := 0
  medeleg : Word := 0
  mideleg : Word := 0
  enables : Word := 0
  mprv : Bool := false
  sum : Bool := false
  mxr : Bool := false
  fs : BitVec 2 := 0
  vs : BitVec 2 := 0
  fcsr : BitVec 8 := 0
  vl : Word := 0
  vtype : Word := 0x8000000000000000
  vstart : Word := 0
  vcsr : BitVec 3 := 0
  mfile : ImsicFile := {}
  sfile : ImsicFile := {}
  deriving DecidableEq, Repr

/-- A pending invalidation command (R133). -/
structure Inv where
  msi : Bool
  op : BitVec 3
  asid : BitVec 16
  vpn : BitVec 45
  pages : Nat
  deriving DecidableEq, Repr

/-- A row request of another package under way at its target: the doublewords read or written so far, and those read (R87). -/
structure RowReq where
  req : RemReq
  got : BitVec 16
  val : Row
  deriving DecidableEq, Repr

/-- The package registers and units of the headframe die. -/
structure Head where
  govCtl : Word
  govMsia : Word
  govMsid : Word
  inva : Word
  invs : List Inv
  invDone : BitVec 32
  invDrop : Bool
  energy : Word
  msiDrop : Word
  imsic : List (Nat × Nat)
  trsId : BitVec 12
  trsEtype : BitVec 16
  trsTmo : Word
  trsRqbase : Word
  trsNpkg : Word
  exps : List Cap
  routes : Tab 8
  ports : List Port
  queues : List Cpq
  rot : List Nat
  fw : Fw
  pci : List Pci
  phase : BitVec 3
  fullms : BitVec 32
  fcode : BitVec 8
  held : Bool
  clus : BitVec 16
  brgMsia : Word
  brgMsid : Word
  copied : Bool
  iommu : Iommu
  harts : List Hart
  rows : List RowReq := []
  deriving DecidableEq, Repr

/-! ### The machine -/

/-- What the scheduler of the package has next: an event of the opcode table, or an issue cycle of a core. -/
inductive Agendum
  | event (i : Instr)
  | cycle (k : Nat)
  deriving DecidableEq, Repr

/-- The doublewords of a wide access that one event reads and writes (R87), as a choice of the units. -/
structure Move where
  rd : BitVec 16
  wr : BitVec 16
  deriving DecidableEq, Repr

/-- The machine. moves is what the next events of accesses wider than 8 bytes move, as an input: where none is left, an event
moves all that it can (R87). agenda is the order in which the units act, as an input; focus is the core whose cycle runs when the
agenda is empty; steps counts the machine's steps and free is the counter that the free values are taken with; resets
counts package resets. -/
structure State where
  time : BitVec 64
  steps : Nat
  free : Nat
  resets : Nat
  mem : Memory
  cores : List Core
  clusters : List Cluster
  dies : List Die
  head : Head
  crews : List Crew
  upsets : List Upset
  nextId : Nat
  moves : List Move
  agenda : List Agendum
  focus : Nat
  issue : Issue
  resp : Resp
  deriving DecidableEq, Repr

/-! ### Reset -/

/-- Empty rings. -/
def Rings.zero : Rings := ⟨[], [], [], [], [], [], [], []⟩

/-- Registers of an empty resident slot; p0 reads one whatever is stored. -/
def Regs.zero : Regs :=
  { pc := 0, tick := 0, prio := 0, s := [], p := 1, rings := Rings.zero, fflags := 0, loops := [], mp := [],
    tok := 0, rng := 0, rq := [], nxp := 0 }

/-- Translation registers at reset (R29, R35). -/
def Xlat.zero : Xlat := ⟨0, 0, 0, 0, 0xA000_0000_0000_0000⟩

/-- An empty resident slot (R163: CX_WDOG resets to SLOG 26 and WLOG 24). -/
def Ctx.none : Ctx :=
  { mode := .empty, uid := 0, crew := 0, regs := Regs.zero, landing := [], qld := [], qas := [], qrm := [],
    xl := Xlat.zero, wdog := 0x0000_001A_0000_0018, pubs := [], refs := [], waitRd := .none, conds := [],
    stepOne := false, skipBrk := false, dsel := 0, dbrk := 0, yieldCnt := 0, stallCnt := 0, held := false, holdFlt := 0,
    holdSlog := 0, holdSync := 0, mergeDeny := 0, exactStep := .none }

def Engines.zero : Engines :=
  { ce0 := [], ce1 := [], ce2 := [], ce3 := [], halted := 0, sl := [], fifo := [], lastClean := 0, mx := [],
    rm := [], sq := [], tileq := [], logL := [], log0 := [], log1 := [], log2 := [], log3 := [] }

/-- A running-best entry after the clear of R50 (R338). -/
def Best.none : Best := ⟨true, 0xFFFF, 0x7F80_0000⟩

/-- A core at reset: CORE_ILIM 2,048, CORE_SPLIT.EN 1 and MASK 0x78 (R156, R157), all four lane groups (R158), the
element types of the clear (R317), the power state ACTIVE (R200). -/
def Core.reset : Core :=
  { c0 := Ctx.none, c1 := Ctx.none, tiles := [], acc := [], scales := [], steps := [], mstore := [], mtab := [],
    ta := .e4m3, tb := .e4m3, ascfg := 0, best := List.replicate 128 Best.none, imem := [], lastCrew := .none,
    snap := [], eng := Engines.zero, far := [], orphans := [], tlbs := ⟨[], [], [], [], [], [], []⟩,
    cnt := ⟨0, 0, 0, 0, 0, 0, 0, 0⟩, ilim := 2048, splitEn := true, press := false, splitMask := 0x78,
    lgmap := 0xF, shaft := 0, window := [], bankPaid := 0, denied := .none, firstWas := 0, yielder := .none,
    split := .none, fuse := .none, swapArr := false, gate := .active, cycles := 0 }

def Cluster.reset : Cluster :=
  { xpat := 0xFFFF, pat := 0xFFFF, owner := 0xFFFF, epoch := 0, exp := 0, arr := 0, band := 0, lost := false,
    clr := false, act := false, reads0 := 0, reads1 := 0, shafts := [], stall0 := 0, stall1 := 0, row0 := 0,
    row1 := 0, cool := [], tlb := [] }

/-- SSQ_CTL resets with CREW 0xFFFF (R174). -/
def Seq.reset : Seq :=
  { ctl := 0xFFFF_0000_0000_0000, stab := 0, graph := 0, blkt := 0, msia := 0, msid := 0, st := .idle, mem := .idle,
    step := 0, badrep := 0, err := 0, nodes := [], blocks := [], tags := [], entry := [], began := 0,
    returned := [], rr := 0, out := [], copies := [], slog := [], closed := false, riskDone := false, need := .none }

/-- FLT_CTL resets with TIMER 100 and THRESH 64 (R129). -/
def Flt.reset : Flt :=
  { ctl := 0x0000_0064_0040_0000, ring := 0, prod := 0, cons := 0, msia := 0, msid := 0, seq := 0,
    recs := [], recsCnt := 0 }

def SlotOp.none : SlotOp := ⟨false, 0, 0, false, false⟩

/-- A quadrant at 350 mV and 1,250 MHz (R193). -/
def Quad.reset : Quad := ⟨350, 1250, 350, 1250, false, 0⟩

def ErrLog.zero : ErrLog := ⟨[], 0, 0, 0⟩

/-- A die at reset: SEAM_SCRUB 86,400 (R82), PWR_GATE with EN 1 and BEH 20 (R200). -/
def Die.reset : Die :=
  { seq := Seq.reset, flt := Flt.reset, frames := [], homes := [], rel := SlotOp.none, mig := SlotOp.none,
    scrub := 86400, gateEn := true, gateBeh := 20, energy := 0, ifcred := 0, skipcred := 0, late := 0,
    risk := false, quads := List.replicate 4 Quad.reset, inj := 0, injPos := 0,
    logs := List.replicate 12 ErrLog.zero, ordsum := [], walkc := [] }

def Cpq.reset : Cpq :=
  { ctl := 0, halt := false, hidx := 0, tail := 0, head := 0, ctail := 0, chead := 0, msia := 0,
    msid := 0, caps := List.replicate 8 ⟨0, 0⟩, waitPkt := .none, pend := [] }

def Port.reset : Port :=
  { en := false, up := false, lanes := 0, retraining := false, regain := false, crcerr := 0, replay := 0, shed := 0, txSeq := 0,
    ackd := 0xFFFF, buf := [], rxSeq := 0, rx := [], nak := false, lastAck := 0 }

/-- Firmware before boot (R386, R394): the fields without a reset value hold free values (log entry 7). -/
def Fw.reset : Fw :=
  { act := Config.lastBank, aver := BitVec.ofNat 32 (Config.openValue 0).toNat, fsvn := Config.fusedSvn, stage := 0,
    rollbk := false, hover := false, hoverAt := 0, bank0 := .initial, bank1 := .initial }

/-- A root port with EN 0 and BIF 0: no link trains (R376). -/
def Pci.reset : Pci := { ctl := 0, bifNow := 0, msia := 0, msid := 0 }

/-- A hart at reset: M mode, every register zero but vtype, whose vill bit is set (log entry 50). -/
def Hart.reset : Hart :=
  { mode := .m, pc := 0, x := [], f := [], v := [], satp := 0, mtvec := 0, mepc := 0, mcause := 0, mtval := 0, mpp := .m
    mie := false, mpie := false }

/-- Registers of the headframe die at reset: GOV_CTL with PERIOD 10, LOWER 3, GUARD 50, PLIM 1,800 and EN 1 (R194);
TRS_ETYPE 0x88B5 and TRS_TMO 100 (R389, R392); BRG_STAT with HELD 1 and PHASE 0 (R397). -/
def Head.reset : Head :=
  { govCtl := 0x0000_0A30_0032_7081, govMsia := 0, govMsid := 0, inva := 0, invs := [], invDone := 0,
    invDrop := false, energy := 0, msiDrop := 0, imsic := [], trsId := 0, trsEtype := 0x88B5, trsTmo := 100,
    trsRqbase := 0, trsNpkg := 0, exps := List.replicate 16 ⟨0, 0⟩, routes := [],
    ports := List.replicate 8 Port.reset, queues := List.replicate 64 Cpq.reset, rot := [], fw := Fw.reset,
    pci := List.replicate 2 Pci.reset, phase := 0, fullms := 0, fcode := 0, held := true, clus := 0,
    brgMsia := 0, brgMsid := 0, copied := false, iommu := {}, harts := List.replicate 32 Hart.reset }

/-- No bundle in issue. -/
def Issue.none : Issue :=
  { k := 0, r := 0, pc := 0, len := 0, present := [], res := .ok, ctl := .next, park := .none, yld := false, dec := false,
    post := [], toks := [], cfg := .none, asc := .none }

/-- The machine right after package reset. -/
def State.reset : State :=
  { time := 0, steps := 0, free := 0, resets := 0, mem := [], cores := List.replicate 256 Core.reset,
    clusters := List.replicate 16 Cluster.reset, dies := List.replicate 2 Die.reset, head := Head.reset,
    crews := [], upsets := [], nextId := 1, moves := [], agenda := [], focus := 0, issue := Issue.none, resp := .none }

end Sys2Proof.Machine
end

