-- ==== Sys2Proof/Machine/Ops.lean ====
section
/-!
DEFINITION. The named operations over tables, memory, cores, contexts and crews; taking a trap and returning from one;
and the frame that every slot instruction shares.
-/

namespace Sys2Proof.Machine

/-! ### Sparse tables and memory -/

/-- The value at a key; zero where nothing is listed. -/
def Tab.get {w : Nat} (t : List (Nat × BitVec w)) (k : Nat) : BitVec w :=
  match t with
  | [] => 0#w
  | (j, v) :: r => if j = k then v else Tab.get r k

/-- Write one value, keeping the canonical form: a zero removes the entry. -/
def Tab.set {w : Nat} (t : List (Nat × BitVec w)) (k : Nat) (v : BitVec w) : List (Nat × BitVec w) :=
  match t with
  | [] => if v = 0#w then [] else [(k, v)]
  | (j, u) :: r =>
    if j < k then (j, u) :: Tab.set r k v
    else if j = k then (if v = 0#w then r else (k, v) :: r)
    else (if v = 0#w then (j, u) :: r else (k, v) :: (j, u) :: r)

/-- Write values at consecutive keys. -/
def Tab.blit {w : Nat} (t : List (Nat × BitVec w)) (k : Nat) : List (BitVec w) → List (Nat × BitVec w)
  | [] => t
  | v :: vs => Tab.blit (Tab.set t k v) (k + 1) vs

/-- Zero every key from lo up to hi. -/
def Tab.clear {w : Nat} (t : List (Nat × BitVec w)) (lo hi : Nat) : List (Nat × BitVec w) :=
  t.filter (fun e => decide (e.1 < lo) || decide (hi ≤ e.1))

/-- Keys strictly rising above lo, no zero listed. -/
def Tab.wfFrom {w : Nat} (lo : Nat) : List (Nat × BitVec w) → Bool
  | [] => true
  | (k, v) :: r => decide (lo ≤ k) && decide (v ≠ 0#w) && Tab.wfFrom (k + 1) r

/-- The canonical form of a table. -/
def Tab.wf {w : Nat} (t : List (Nat × BitVec w)) : Bool := Tab.wfFrom 0 t

/-- The canonical form of memory. -/
def Memory.wf (m : Memory) : Bool := Tab.wf m

/-- n bytes from an address, the lowest address first. -/
def Memory.read (m : Memory) (a n : Nat) : List Byte := (List.range n).map (fun i => Tab.get m (a + i))

/-- Write bytes from an address up. -/
def Memory.write (m : Memory) (a : Nat) (bs : List Byte) : Memory := Tab.blit m a bs

/-- Little-endian bytes as a bit vector (R5). -/
def ofBytes (w : Nat) (bs : List Byte) : BitVec w := BitVec.ofNat w (leNat bs)

/-- The n low bytes of a value, the lowest first (R5). -/
def toBytes {w : Nat} (n : Nat) (v : BitVec w) : List Byte :=
  (List.range n).map (fun i => v.extractLsb' (8 * i) 8)

/-- Bits hi to lo of a word as a number. -/
def bf (x : Word) (hi lo : Nat) : Nat := x.toNat / 2 ^ lo % 2 ^ (hi + 1 - lo)

/-- Bit i of a word. -/
def wb (x : Word) (i : Nat) : Bool := x.getLsbD i

/-- A word with a field set. -/
def putField (x : Word) (hi lo : Nat) (v : Nat) : Word :=
  let m : Word := BitVec.ofNat 64 ((2 ^ (hi + 1 - lo) - 1) * 2 ^ lo)
  (x &&& ~~~m) ||| (BitVec.ofNat 64 (v * 2 ^ lo) &&& m)

/-- A Boolean as a bit. -/
def b2n (b : Bool) : Nat := if b then 1 else 0

/-- What the next wide access moves: all of it where no choice is left (R87). -/
def State.move (s : State) : Move := s.moves.headD ⟨0xFFFF, 0xFFFF⟩

/-- The choice is used up. -/
def State.moved (s : State) : State := { s with moves := s.moves.drop 1 }

/-- The list with its i-th element changed. -/
def modAt {α : Type} (f : α → α) : Nat → List α → List α
  | _, [] => []
  | 0, a :: l => f a :: l
  | n + 1, a :: l => a :: modAt f n l

/-! ### Cores, contexts, dies, clusters -/

/-- Die of a physical core (R138). -/
def dieOf (p : Nat) : Nat := p / 128

/-- Cluster of a physical core, die A's first, 0 to 15. -/
def clusterOf (p : Nat) : Nat := p / 16

def State.core (s : State) (k : Nat) : Core := s.cores.getD k Core.reset

def State.modCore (s : State) (k : Nat) (f : Core → Core) : State := { s with cores := modAt f k s.cores }

def Core.ctx (c : Core) (r : Nat) : Ctx := if r = 0 then c.c0 else c.c1

def Core.modCtx (c : Core) (r : Nat) (f : Ctx → Ctx) : Core :=
  if r = 0 then { c with c0 := f c.c0 } else { c with c1 := f c.c1 }

def State.ctx (s : State) (k r : Nat) : Ctx := (s.core k).ctx r

def State.modCtx (s : State) (k r : Nat) (f : Ctx → Ctx) : State := s.modCore k (fun c => c.modCtx r f)

def State.modRegs (s : State) (k r : Nat) (f : Regs → Regs) : State :=
  s.modCtx k r (fun c => { c with regs := f c.regs })

def State.die (s : State) (d : Nat) : Die := s.dies.getD d Die.reset

def State.modDie (s : State) (d : Nat) (f : Die → Die) : State := { s with dies := modAt f d s.dies }

def State.modSeq (s : State) (d : Nat) (f : Seq → Seq) : State := s.modDie d (fun x => { x with seq := f x.seq })

def State.modFlt (s : State) (d : Nat) (f : Flt → Flt) : State := s.modDie d (fun x => { x with flt := f x.flt })

def State.cluster (s : State) (c : Nat) : Cluster := s.clusters.getD c Cluster.reset

def State.modCluster (s : State) (c : Nat) (f : Cluster → Cluster) : State :=
  { s with clusters := modAt f c s.clusters }

def State.modHead (s : State) (f : Head → Head) : State := { s with head := f s.head }

def State.modEng (s : State) (k : Nat) (f : Engines → Engines) : State :=
  s.modCore k (fun c => { c with eng := f c.eng })

/-- The context whose bundle is in issue. -/
def State.ic (s : State) : Ctx := s.ctx s.issue.k s.issue.r

/-- The core on which the bundle in issue stands. -/
def State.icore (s : State) : Core := s.core s.issue.k

/-- Change the context in issue. -/
def State.modIc (s : State) (f : Ctx → Ctx) : State := s.modCtx s.issue.k s.issue.r f

/-- Change the registers of the context in issue. -/
def State.modIr (s : State) (f : Regs → Regs) : State := s.modRegs s.issue.k s.issue.r f

/-- Change the core in issue. -/
def State.modIk (s : State) (f : Core → Core) : State := s.modCore s.issue.k f

/-- A fresh number. -/
def State.fresh (s : State) : Nat × State := (s.nextId, { s with nextId := s.nextId + 1 })

/-- Copy queue q of a core. -/
def Engines.ce (e : Engines) (q : Nat) : List Cmd :=
  match q with
  | 0 => e.ce0 | 1 => e.ce1 | 2 => e.ce2 | _ => e.ce3

def Engines.setCe (e : Engines) (q : Nat) (l : List Cmd) : Engines :=
  match q with
  | 0 => { e with ce0 := l } | 1 => { e with ce1 := l } | 2 => { e with ce2 := l } | _ => { e with ce3 := l }

/-- Side log of a unit: 0 the L unit, 1 to 4 the queues ce0 to ce3 (R122). -/
def Engines.log (e : Engines) (u : Nat) : List LogEnt :=
  match u with
  | 0 => e.logL | 1 => e.log0 | 2 => e.log1 | 3 => e.log2 | _ => e.log3

def Engines.setLog (e : Engines) (u : Nat) (l : List LogEnt) : Engines :=
  match u with
  | 0 => { e with logL := l } | 1 => { e with log0 := l } | 2 => { e with log1 := l } | 3 => { e with log2 := l }
  | _ => { e with log3 := l }

/-! ### Crews -/

/-- Word i of a launch record (R138). -/
def lrw (l : List Word) (i : Nat) : Word := l.getD i 0#64

/-- The placement bitmap (R138). -/
def placeOf (l : List Word) : Nat :=
  (lrw l 12).toNat + (lrw l 13).toNat * 2 ^ 64 + (lrw l 14).toNat * 2 ^ 128 + (lrw l 15).toNat * 2 ^ 192

/-- Physical cores of the logical cores, in logical order (R141). -/
def membersOf (l : List Word) : List Nat := (List.range 256).filter (fun p => (placeOf l).testBit p)

def Crew.members (c : Crew) : List Nat := membersOf c.lr

/-- Crew size minus one (R138). -/
def Crew.size (c : Crew) : Nat := bf (lrw c.lr 1) 63 56

/-- Image length (R138). -/
def Crew.imglen (c : Crew) : Nat := bf (lrw c.lr 3) 17 0

/-- Position of an element in a list, by number. -/
def indexIn (n : Nat) : List Nat → Nat
  | [] => 0
  | a :: l => if a = n then 0 else indexIn n l + 1

/-- Logical number of a physical core (R141). -/
def Crew.lcore (c : Crew) (p : Nat) : Nat := indexIn p c.members

/-- Physical core of a logical number (R141). -/
def Crew.phys (c : Crew) (n : Nat) : Nat := c.members.getD n 0

/-- The crew has places on the package. -/
def Crew.live (c : Crew) : Bool :=
  match c.st with
  | .placed | .running | .preempted => true
  | _ => false

/-- The live crew of an id. -/
def State.crew? (s : State) (id : BitVec 16) : Option Crew := s.crews.find? (fun c => c.live && decide (c.id = id))

/-- Change the live crew of an id. -/
def State.modCrew (s : State) (id : BitVec 16) (f : Crew → Crew) : State :=
  { s with crews := s.crews.map (fun c => if c.live && decide (c.id = id) then f c else c) }

/-- Tile split: TSPLIT of the launch record of the context's crew (R144). -/
def State.split? (s : State) (id : BitVec 16) : Bool :=
  match s.crew? id with
  | some c => wb (lrw c.lr 0) 5
  | none => false

/-- Exact mode of a crew (R191, R396). -/
def State.exact? (s : State) (id : BitVec 16) : Bool :=
  match s.crew? id with
  | some c => c.exact
  | none => false

/-- IMGLEN of the crew that a context belongs to. -/
def State.imglen (s : State) (id : BitVec 16) : Nat :=
  match s.crew? id with
  | some c => c.imglen
  | none => 0

/-- The die whose sequencer serves a crew (R174). -/
def State.seqDie (s : State) (id : BitVec 16) : Option Nat :=
  match s.crew? id with
  | none => none
  | some c =>
    let d := dieOf (c.phys 0)
    let q := (s.die d).seq
    if bf q.ctl 63 48 = id.toNat && decide (q.st ≠ .idle) then some d else none

/-- The origin of what the context in issue issues. -/
def State.origin (s : State) : Origin :=
  let c := s.ic
  let n := match s.crew? c.crew with
    | some w => w.lcore s.issue.k
    | none => 0
  ⟨s.issue.k, s.issue.r, c.uid, c.crew, n, s.issue.pc⟩

/-! ### The physical map (R21) -/

/-- HBM4E. -/
def inHbm (a n : Nat) : Bool := decide (a + n ≤ 0x6000000000)

/-- A latent-seam slot range of one die. -/
def inSlots (a n : Nat) : Bool :=
  (decide (0x10000000000 ≤ a) && decide (a + n ≤ 0x10040000000)) ||
    (decide (0x10040000000 ≤ a) && decide (a + n ≤ 0x10080000000))

/-- Base of the scratchpad of a physical core. -/
def spadBase (p : Nat) : Nat := 0x20000000000 + dieOf p * 0x8000000 + p % 128 * 0x100000

/-- A used part of a scratchpad. -/
def inSpad (a n : Nat) : Bool :=
  decide (0x20000000000 ≤ a) && decide (a + n ≤ 0x20010000000) && decide (a % 0x100000 + n ≤ 0xC0000)

/-- Base of half h of cluster c (0 to 15). -/
def halfBase (c h : Nat) : Nat := 0x30000000000 + c * 0x20000000 + h * 0x10000000

/-- A used part of a weight-seam half. -/
def inHalf (a n : Nat) : Bool :=
  decide (0x30000000000 ≤ a) && decide (a + n ≤ 0x30200000000) && decide (a % 0x10000000 + n ≤ 0xC000000)

/-- The held bypass ranges of reduced service (R396). -/
def inHeld (a n : Nat) : Bool :=
  (decide (a < 0x3000000000) && decide (0x2F00000000 < a + n)) ||
    (decide (a < 0x6000000000) && decide (0x5F00000000 < a + n))

/-! ### Snapshot cache (R59, R60) -/

/-- The set of a line: 128 sets (R59). -/
def snapSet (line : Nat) : Nat := line % 128

/-- The lowest of n ways that a list does not hold. -/
def freeWay (n : Nat) (used : List Nat) : Nat := ((List.range n).find? (fun i => !used.contains i)).getD 0

/-- The lines of a cache that stay when a line enters: the sixteenth older line of its set is dropped. -/
def snapRest (l : List SnapEnt) (line : Nat) : List SnapEnt :=
  let rest := l.filter (fun e => decide (e.line ≠ line))
  let keep := ((rest.filter (fun e => snapSet e.line = snapSet line)).take 15).map (·.line)
  rest.filter (fun e => decide (snapSet e.line ≠ snapSet line) || keep.contains e.line)

/-- The entry of a line. -/
def snapEnt? (l : List SnapEnt) (line : Nat) : Option SnapEnt := l.find? (fun e => decide (e.line = line))

/-- Put a line in front with bytes and the doublewords that have arrived; it keeps its way, or takes a free one. -/
def snapInsert (l : List SnapEnt) (line : Nat) (has : BitVec 16) (v : Row) : List SnapEnt :=
  let rest := snapRest l line
  let way := match snapEnt? l line with
    | some e => e.way
    | none => freeWay 16 ((rest.filter (fun e => snapSet e.line = snapSet line)).map (·.way))
  ⟨line, way, has, v⟩ :: rest

/-- Replace the bytes of a row from a byte offset. -/
def rowPatch (v : Row) (o : Nat) (bs : List Byte) : Row :=
  let n := bs.length
  let m : Nat := (2 ^ (8 * n) - 1) * 2 ^ (8 * o)
  (v &&& ~~~(BitVec.ofNat 1024 m)) ||| (BitVec.ofNat 1024 (leNat bs * 2 ^ (8 * o)) &&& BitVec.ofNat 1024 m)

/-- A far store's update of any line that holds its bytes (R60). -/
def snapStore (l : List SnapEnt) (a : Nat) (bs : List Byte) : List SnapEnt :=
  l.map (fun e =>
    let lo := e.line * 128
    let f := (List.range bs.length).filter (fun i => decide (lo ≤ a + i) && decide (a + i < lo + 128))
    match f with
    | [] => e
    | i :: _ => { e with data := rowPatch e.data (a + i - lo) (f.map (fun j => bs.getD j 0#8)) })

/-- A refresh: the core's snapshot cache is invalidated (R60, R93). -/
def State.refresh (s : State) (k : Nat) : State := s.modCore k (fun c => { c with snap := [] })

/-! ### MSIs (R372) -/

/-- The interrupt file that an MSI address names: 0 to 31 M-level, 32 to 63 S-level. -/
def imsicFile (a : Nat) : Option Nat :=
  if a % 4096 = 0 ∧ 0x50000000000 ≤ a ∧ a < 0x50000020000 then some ((a - 0x50000000000) / 4096)
  else if a % 4096 = 0 ∧ 0x50000100000 ≤ a ∧ a < 0x50000120000 then some (32 + (a - 0x50000100000) / 4096)
  else none

/-- Send an MSI: identity 0 sends nothing; an address that names no file, or an identity above 2,047, is dropped and
counted (R372). -/
def State.msi (s : State) (addr id : Nat) : State :=
  if id = 0 then s
  else match imsicFile addr, decide (id ≤ 2047) with
    | some f, true =>
      s.modHead (fun h => { h with imsic := if h.imsic.contains (f, id) then h.imsic else h.imsic ++ [(f, id)] })
    | _, _ => s.modHead (fun h => { h with msiDrop := h.msiDrop + 1 })

/-- Address bits 51:2 of an MSI address register (R129). -/
def msiAddr (w : Word) : Nat := bf w 51 2 * 4

/-- Identity of an MSI data register (R129). -/
def msiId (w : Word) : Nat := bf w 10 0

/-! ### Storage errors (R80 to R84) -/

/-- Where HBM4E holds a byte (R71): die, stack, channel within the stack, byte within the channel. -/
structure HbmPlace where
  die : Nat
  stack : Nat
  channel : Nat
  caddr : Nat
  deriving DecidableEq, Repr

/-- Bits hi to lo of a number. -/
def nbits (n hi lo : Nat) : Nat := n / 2 ^ lo % 2 ^ (hi + 1 - lo)

/-- The placement of an HBM4E address (R71). -/
def hbmPlace (pa : Nat) : HbmPlace :=
  let die := if pa < 0x3000000000 then 0 else 1
  let o := if pa < 0x3000000000 then pa else pa - 0x3000000000
  ⟨die, die * 4 + (nbits o 14 13 ^^^ nbits o 22 21), nbits o 12 8 ^^^ nbits o 20 16, nbits o 37 15 * 256 + nbits o 7 0⟩

/-- The word of memory that holds a byte, as die, array and LOC (R80, R83). -/
def memLoc (a : Nat) : Nat × Nat × Nat :=
  let w := a / 8 * 8
  if inHbm a 1 then ((hbmPlace a).die, 7, w)
  else if inSlots a 1 then (if a < 0x10040000000 then 0 else 1, 5, w)
  else if inHalf a 1 then (if a < 0x30100000000 then 0 else 1, 6, w)
  else
    let p := (a - 0x20000000000) / 0x100000
    (p / 128, 2, 0xFFF * 2 ^ 40 + p / 128 * 2 ^ 39 + p % 128 * 2 ^ 32 + w % 0x100000)

/-- LOC of a word of a core's array by byte offset (R83). -/
def coreLoc (p o : Nat) : Nat := 0xFFF * 2 ^ 40 + p / 128 * 2 ^ 39 + p % 128 * 2 ^ 32 + o / 8 * 8

/-- The locations of the words under n bytes of memory. -/
def memLocs (a n : Nat) : List (Nat × Nat × Nat) :=
  if n = 0 then [] else (List.range ((a + n - 1) / 8 - a / 8 + 1)).map (fun i => memLoc ((a / 8 + i) * 8))

/-- The words of the snapshot array under n bytes of a line from offset o: the model's places are set, way, byte (log entry 21). -/
def snapLocs (p : Nat) (e : SnapEnt) (o n : Nat) : List (Nat × Nat × Nat) :=
  if n = 0 then [] else (List.range ((o + n - 1) / 8 - o / 8 + 1)).map (fun i =>
    (dieOf p, 3, coreLoc p ((snapSet e.line * 16 + e.way) * 128 + (o / 8 + i) * 8)))

/-- Positions of a word that are inverted once each. -/
def Upset.flipped (u : Upset) : List Nat := u.pos.filter (fun p => u.pos.count p % 2 = 1)

/-- The upsets among some words. -/
def State.upsetsAt (s : State) (ls : List (Nat × Nat × Nat)) : List Upset :=
  s.upsets.filter (fun u => ls.contains (u.die, u.array, u.loc) && decide (u.flipped ≠ []))

/-- One of the words holds an uncorrectable error. -/
def State.ueAt (s : State) (ls : List (Nat × Nat × Nat)) : Bool :=
  (s.upsetsAt ls).any (fun u => decide (1 < u.flipped.length))

/-- Positions that an armed injection inverts (R84): those that ERR_INJPOS holds as it is performed. R84 says what a position above 71
does as ERR_INJ is written; one written into ERR_INJPOS while an injection is armed inverts nothing here (DESIGN CHOICE, log entry 65). -/
def Die.injPositions (d : Die) : List Nat :=
  ((if wb d.inj 62 then [bf d.injPos 6 0, bf d.injPos 14 8] else [bf d.injPos 6 0]).filter (fun p => decide (p ≤ 71)))

/-- Perform the armed injection of a die on its word, and disarm it (R84). -/
def State.inject (s : State) (d : Nat) : State :=
  let x := s.die d
  { (s.modDie d (fun y => { y with inj := putField y.inj 63 63 0 })) with
    upsets := s.upsets ++ [⟨d, bf x.inj 61 56, bf x.inj 51 3 * 8, x.injPositions⟩] }

/-- Perform the injection of a die when it is armed for a word that hit names by die, array and LOC. -/
def State.injectIf (s : State) (hit : Nat → Nat → Nat → Bool) (d : Nat) : State :=
  let x := s.die d
  if wb x.inj 63 && hit d (bf x.inj 61 56) (bf x.inj 51 3 * 8) then s.inject d else s

/-- The words that hit names by die, array and LOC are written: they hold no earlier error, and an injection armed for one of
them is performed (R80, R84). -/
def State.rewritten (s : State) (hit : Nat → Nat → Nat → Bool) : State :=
  let t := if s.upsets = [] then s else { s with upsets := s.upsets.filter (fun u => !hit u.die u.array u.loc) }
  (t.injectIf hit 0).injectIf hit 1

/-- A list of words is written. A write of a part of a word counts as a write of it: what a store to one byte leaves of an error of the
other bytes is not said, and here it ends with the word (DESIGN CHOICE, log entry 64). -/
def State.clearUpsets (s : State) (ls : List (Nat × Nat × Nat)) : State := s.rewritten (fun d a l => ls.contains (d, a, l))

/-- Append a record to an error log (R83). -/
def ErrLog.push (l : ErrLog) (r : ErrRec) : ErrLog :=
  if l.count < 16 then
    { l with recs := (l.head, r) :: l.recs.filter (fun e => decide (e.1 ≠ l.head)), count := l.count + 1,
             head := (l.head + 1) % 16 }
  else { l with ovf := min (l.ovf + 1) 0xFFFFFFFF }

/-- CTX of a record: the consuming context (R83). -/
def ctxWord (o : Option Origin) : Nat :=
  match o with
  | none => 0xFFFFFFFF
  | some w => w.crew.toNat * 2 ^ 16 + w.lcore * 2 ^ 8 + w.r

/-- Log one error of kind 1 CE, 2 UE or 3 OVERTEMP (R83). -/
def State.logErr (s : State) (d array kind loc : Nat) (pos : Nat) (synd : BitVec 8) (o : Option Origin) : State :=
  let img := match o with
    | none => 0
    | some w => match s.crew? w.crew with
      | some c => bf (lrw c.lr 0) 63 32
      | none => 0
  let pc := match o with
    | none => 0
    | some w => w.pc.toNat
  let r : ErrRec :=
    { w0 := BitVec.ofNat 64 (array * 2 ^ 56 + kind * 2 ^ 52 + loc)
      w1 := BitVec.ofNat 64 (ctxWord o * 2 ^ 32 + pos * 2 ^ 8 + synd.toNat)
      w2 := s.time
      w3 := BitVec.ofNat 64 (img * 2 ^ 32 + pc) }
  s.modDie d (fun x => { x with logs := modAt (·.push r) array x.logs })

/-- Log an upset as it is met: CE for one position, UE for more; asCE for the snapshot cache (R81, R83). -/
def State.logUpset (s : State) (u : Upset) (o : Option Origin) : State :=
  match u.flipped with
  | [p] => s.logErr u.die u.array 1 u.loc p (Config.syndrome [p]) o
  | l => s.logErr u.die u.array 2 u.loc 127 (Config.syndrome l) o

/-- Meet the upsets of some words: log each, and write corrected single errors back (R81). Whether that write-back is the next
write that an armed injection waits for is not said; here it is not (DESIGN CHOICE, log entry 21). -/
def State.meetUpsets (s : State) (ls : List (Nat × Nat × Nat)) (o : Option Origin) : State :=
  let us := s.upsetsAt ls
  if us = [] then s
  else
    let t := us.foldl (fun a u => a.logUpset u o) s
    { t with upsets := t.upsets.filter (fun u => !(us.contains u && decide (u.flipped.length ≤ 1))) }

/-- The words with errors that a test picks out, by die, array and LOC: for reads of many words. -/
def State.hitLocs (s : State) (hit : Nat → Nat → Nat → Bool) : List (Nat × Nat × Nat) :=
  (s.upsets.filter (fun u => hit u.die u.array u.loc)).map (fun u => (u.die, u.array, u.loc))

/-- The words under n bytes of memory, as a test of die, array and LOC. -/
def memHit (a n : Nat) (d arr l : Nat) : Bool :=
  let x := if arr = 2 then spadBase (d * 128 + l / 2 ^ 32 % 128) + l % 0x100000 else l
  (decide (arr = 2) || decide (arr = 5) || decide (arr = 6) || decide (arr = 7)) && decide (a / 8 * 8 ≤ x) && decide (x < a + n)

/-- A read of many words: whether one is uncorrectable, and the errors met (R80, R81). -/
def State.ueHit (s : State) (hit : Nat → Nat → Nat → Bool) : Bool := s.ueAt (s.hitLocs hit)
def State.meetHit (s : State) (hit : Nat → Nat → Nat → Bool) : State := s.meetUpsets (s.hitLocs hit) none

/-! ### Home copies: latent-seam placement and memory (R24 to R26) -/

/-- Slot number of an address in a slot range: bit 14 selects die B (R27). -/
def slotOf (a : Nat) : Nat := (a - 0x10000000000) / 0x10000

/-- First byte of a slot. -/
def slotBase (n : Nat) : Nat := 0x10000000000 + n * 0x10000

/-- The frame of a slot: bank × 128 + index. -/
def State.frame? (s : State) (n : Nat) : Option Nat :=
  ((s.die (n / 16384)).frames.find? (fun e => e.1 = n % 16384)).map (·.2)

/-- Frames of a die in use. -/
def usedFrames (d : Die) : List Nat := d.frames.map (·.2)

/-- The lowest free frame of a bank; none where its shaft is retired (R25). -/
def State.freeFrame (s : State) (d bank : Nat) : Option Nat :=
  if wb (s.core (d * 128 + bank)).shaft 63 then none
  else
    let used := usedFrames (s.die d)
    ((List.range 128).find? (fun i => !used.contains (bank * 128 + i))).map (fun i => bank * 128 + i)

/-- The order in which banks are searched for a home core, by index in the die (R25). -/
def bankOrder (home : Nat) : List Nat :=
  let c := home / 16
  home :: ((List.range 15).map (fun i => c * 16 + (home + 1 + i) % 16)) ++
    ((List.range 7).map (fun j => (List.range 16).map (fun i => (c + 1 + j) % 8 * 16 + i))).flatten

/-- First result of a search. -/
def firstSome {α β : Type} (f : α → Option β) : List α → Option β
  | [] => none
  | a :: l =>
    match f a with
    | some b => some b
    | none => firstSome f l

/-- Home core of a touch, by index in the slot's die: a compute core's own index, else core 0 (R25). -/
def homeOf (agent : Option Nat) : Nat :=
  match agent with
  | some p => p % 128
  | none => 0

/-- Place a slot: bind the first free frame and zero it, or, in reduced service, bind it to the held range and record
its home core (R24, R25, R396). None where no frame is free. -/
def State.placeSlot (s : State) (n : Nat) (agent : Option Nat) : Option State :=
  let d := n / 16384
  let home := homeOf agent
  let zeroed := { s with mem := Tab.clear s.mem (slotBase n) (slotBase (n + 1)) }.rewritten (fun _ a l =>
    decide (a = 5) && decide (slotBase n ≤ l) && decide (l < slotBase (n + 1)))
  if s.head.held then
    some (zeroed.modDie d (fun x =>
      { x with frames := x.frames ++ [(n % 16384, n % 16384)], homes := x.homes ++ [(n % 16384, home)] }))
  else
    match firstSome (s.freeFrame d) (bankOrder home) with
    | some f => some (zeroed.modDie d (fun x => { x with frames := x.frames ++ [(n % 16384, f)] }))
    | none => none

/-- The slots under n bytes. -/
def slotsUnder (a n : Nat) : List Nat :=
  if n = 0 then [] else
    if inSlots a n then (List.range (slotOf (a + n - 1) - slotOf a + 1)).map (fun i => slotOf a + i) else []

/-- A slot whose release or move is in progress. -/
def State.moving (s : State) (n : Nat) : Bool :=
  let d := s.die (n / 16384)
  (d.rel.busy && !d.rel.unpl && decide (d.rel.slot.toNat = n)) || (d.mig.busy && decide (d.mig.slot.toNat = n))

/-- A touch of every slot under an extent: unplaced slots are placed; none where that fails (R24, R25). -/
def State.touch (s : State) (a n : Nat) (agent : Option Nat) : Option State :=
  (slotsUnder a n).foldl (fun o x => match o with
    | none => none
    | some t => match t.frame? x with
      | some _ => some t
      | none => t.placeSlot x agent) (some s)

/-- Bytes at the home copy. -/
def State.read (s : State) (a n : Nat) : List Byte := s.mem.read a n

/-- Write at the home copy; the words written, in whole or in part, hold no earlier error (R80; log entry 64). -/
def State.write (s : State) (a : Nat) (bs : List Byte) : State :=
  { s with mem := s.mem.write a bs }.clearUpsets (memLocs a bs.length)

/-- A doubleword at the home copy. -/
def State.read64 (s : State) (a : Nat) : Word := ofBytes 64 (s.read a 8)

def State.write64 (s : State) (a : Nat) (v : Word) : State := s.write a (toBytes 8 v)

/-! ### Sectors of zeros on the interfaces (R78, R79) -/

/-- The energy in units of 0.01 pJ that elided sectors and avoided toggles are credited with (R79): on the die-to-die link 46 pJ and
0.18 pJ, on HBM4E 102 pJ and 0.40 pJ. -/
def ifEnergy (linkSectors linkToggles hbmSectors hbmToggles : Nat) : Nat :=
  4600 * linkSectors + 18 * linkToggles + 10200 * hbmSectors + 40 * hbmToggles

/-- Credit energy to a die's interface counter, in units of 1 nJ; what is left of a unit stays for the next credit (R79). -/
def Die.credit (d : Die) (e : Nat) : Die :=
  { d with ifcred := d.ifcred + BitVec.ofNat 64 ((d.ifres + e) / 100000), ifres := (d.ifres + e) % 100000 }

/-- The sectors of 32 bytes under n bytes of memory that hold zeros only (R78). -/
def State.zeroSectors (s : State) (a n : Nat) : Nat :=
  if n = 0 then 0
  else ((List.range ((a + n - 1) / 32 - a / 32 + 1)).filter (fun i =>
    (s.read ((a / 32 + i) * 32) 32).all (fun b => decide (b = 0#8)))).length

/-- Bytes move between an agent of a die, or of no compute die, and their home copy: each sector of zeros among those that they touch is
elided, on HBM4E where the home lies there, and on the die-to-die link where the agent is on the other die. The home's die is credited;
which die a link's credit goes to, and how often a sector counts that several pieces of one access touch, is not given: here once with each
piece (DESIGN CHOICE, log entry 37). -/
def State.elide (s : State) (agent : Option Nat) (a n : Nat) : State :=
  let z := s.zeroSectors a n
  let d := (memLoc a).1
  let e := ifEnergy (if agent.all (fun x => decide (x = d)) then 0 else z) 0 (if inHbm a 1 then z else 0) 0
  if e = 0 then s else s.modDie d (·.credit e)

/-! ### Landing buffers (R51, R52, R152, R208, R404) -/

/-- Push onto a ring of four. -/
def ringPush {α : Type} (v : α) (l : List α) : List α := (v :: l).take 4

/-- Enter a landed value into its slot's ring, narrower values zero-filled (R208). -/
def Rings.push (r : Rings) (u : SlotId) (v : Row) : Rings :=
  match u with
  | .c => { r with c := ringPush (v.setWidth 64) r.c }
  | .i => { r with i := ringPush (v.setWidth 64) r.i }
  | .l => { r with l := ringPush (v.setWidth 64) r.l }
  | .e => { r with e := ringPush (v.setWidth 64) r.e }
  | .v0 => { r with v0 := ringPush v r.v0 }
  | .v1 => { r with v1 := ringPush v r.v1 }
  | .x => { r with x := ringPush v r.x }
  | .m => { r with m := ringPush v r.m }

/-- The cell of a tile that cell e of a directional vector names: row and column (R43). -/
def cellOf (dir : Dir) (k e : Nat) : Nat × Nat :=
  match dir with
  | .h => (k, e)
  | .v => (e, k)
  | .d => (e, (e + k) % 32)
  | .w => (e, (k + 32 - e % 32) % 32)

/-- A cell of a row. -/
def cell (v : Row) (e : Nat) : BitVec 32 := v.extractLsb' (32 * e) 32

/-- A row with one cell changed. -/
def setCell (v : Row) (e : Nat) (x : BitVec 32) : Row :=
  (v &&& ~~~(BitVec.ofNat 1024 (0xFFFFFFFF * 2 ^ (32 * e)))) ||| BitVec.ofNat 1024 (x.toNat * 2 ^ (32 * e))

/-- Write the low cells of a vector into a tile (R43, R45). -/
def tileWrite (ts : Tab 1024) (t : Nat) (dir : Dir) (k bits : Nat) (v : Row) : Tab 1024 :=
  match dir with
  | .h =>
    let m : Row := BitVec.ofNat 1024 (2 ^ bits - 1)
    Tab.set ts (t * 32 + k) ((Tab.get ts (t * 32 + k) &&& ~~~m) ||| (v &&& m))
  | _ =>
    (List.range (bits / 32)).foldl (fun a e =>
      let (i, j) := cellOf dir k e
      Tab.set a (t * 32 + i) (setCell (Tab.get a (t * 32 + i)) j (cell v e))) ts

/-- The directional vector of a tile (R43). -/
def tileRead (ts : Tab 1024) (t : Nat) (dir : Dir) (k : Nat) : Row :=
  match dir with
  | .h => Tab.get ts (t * 32 + k)
  | _ =>
    (List.range 32).foldl (fun a e =>
      let (i, j) := cellOf dir k e
      setCell a e (cell (Tab.get ts (t * 32 + i)) j)) 0#1024

/-- The words that a directional access of a width touches: the low words of a row, or the word of each cell (R43, R45, R83). -/
def tileLocs (p t : Nat) (dir : Dir) (k bits : Nat) : List (Nat × Nat × Nat) :=
  match dir with
  | .h => (List.range (bits / 64)).map (fun i => (p / 128, 0, coreLoc p ((t * 32 + k) * 128 + 8 * i)))
  | _ => ((List.range (bits / 32)).map (fun e =>
      let (i, j) := cellOf dir k e
      (p / 128, 0, coreLoc p ((t * 32 + i) * 128 + 4 * j)))).eraseDups

/-- The words of a tile row, as byte offsets in the tile array (R83). -/
def tileWords (p : Nat) (row : Nat) : List (Nat × Nat × Nat) :=
  (List.range 16).map (fun i => (p / 128, 0, coreLoc p (row * 128 + 8 * i)))

/-- Write a scalar; s0 discards (R205). -/
def Regs.setS (r : Regs) (n : BitVec 5) (v : Word) : Regs :=
  if n = 0#5 then r else { r with s := Tab.set r.s n.toNat v }

/-- Read a scalar; s0 is zero (R205). -/
def Regs.getS (r : Regs) (n : BitVec 5) : Word := if n = 0#5 then 0#64 else Tab.get r.s n.toNat

/-- Write a predicate; p0 reads one whatever is written (R204). -/
def Regs.setP (r : Regs) (n : BitVec 3) (b : Bool) : Regs :=
  if n = 0#3 then r
  else
    let m : BitVec 8 := BitVec.ofNat 8 (2 ^ n.toNat)
    { r with p := if b then r.p ||| m else r.p &&& ~~~m }

/-- Read a predicate; p0 is one (R204). -/
def Regs.getP (r : Regs) (n : BitVec 3) : Bool := if n = 0#3 then true else r.p.getLsbD n.toNat

/-- Highest priority that CX_PRIO may take: PRIO of the launch record (R144). -/
def State.prioMax (s : State) (crew : BitVec 16) : Nat :=
  match s.crew? crew with
  | some c => bf (lrw c.lr 0) 15 10
  | none => 0

/-- A landed CSRW (R270): only CX_FFLAGS and CX_PRIO are written, the latter never above PRIO (R144). -/
def landCsr (s : State) (k r : Nat) (x : Csr) (v : Word) : State :=
  match x with
  | .fflags => s.modRegs k r (fun g => { g with fflags := v.setWidth 7 })
  | .prio =>
    if bf v 5 0 ≤ s.prioMax (s.ctx k r).crew then s.modRegs k r (fun g => { g with prio := v.setWidth 6 }) else s
  | _ => s

/-- A scale register with its j-th 16-bit scale changed (R312). -/
def putHalf (v : BitVec 512) (j : Nat) (x : BitVec 16) : BitVec 512 :=
  (v &&& ~~~((0xFFFF#512) <<< (16 * j))) ||| (x.setWidth 512 <<< (16 * j))

/-- Write a landed value to its destination. -/
def landDst (s : State) (k r : Nat) (d : LandDst) (v : Row) : State :=
  match d with
  | .none => s
  | .scal n => s.modRegs k r (fun g => g.setS n (v.setWidth 64))
  | .pred n => s.modRegs k r (fun g => g.setP n (v.getLsbD 0))
  | .tile dir t q bits =>
    (s.modCore k (fun c => { c with tiles := tileWrite c.tiles t.toNat dir q.toNat bits v })).clearUpsets
      (tileLocs k t.toNat dir q.toNat bits)
  | .acc i =>
    (s.modCore k (fun c => { c with acc := Tab.set c.acc i v })).clearUpsets
      ((List.range 16).map (fun j => (k / 128, 1, coreLoc k (i * 128 + 8 * j))))
  | .spad bs =>
    { s with mem := bs.foldl (fun (m : Memory) (e : Nat × Byte) => m.write (spadBase k + e.1) [e.2]) s.mem }.clearUpsets
      ((bs.map (fun (e : Nat × Byte) => memLoc (spadBase k + e.1))).eraseDups)
  | .csr x => landCsr s k r x (v.setWidth 64)
  | .mp n => s.modRegs k r (fun g => { g with mp := Tab.set g.mp n.toNat (v.setWidth 64) })
  | .scale n => s.modCore k (fun c => { c with scales := Tab.set c.scales n.toNat (v.setWidth 512) })
  | .scaleEl n j =>
    s.modCore k (fun c => { c with scales := Tab.set c.scales n.toNat (putHalf (Tab.get c.scales n.toNat) j.toNat (v.setWidth 16)) })

/-- Whether a landing enters its slot's latch ring: a near store and a chosen scale do not (R254, R312). -/
def LandDst.rings : LandDst → Bool
  | .spad _ => false
  | .scaleEl _ _ => false
  | _ => true

/-- One step of the random-bit generator (R244). -/
def rngStep (x : Word) : Word :=
  let a := x ^^^ (x <<< 13)
  let b := a ^^^ (a >>> 7)
  b ^^^ (b >>> 17)

/-- n further outputs of the generator with the state they leave. -/
def rngOut : Nat → Word → Word × List (BitVec 32)
  | 0, x => (x, [])
  | n + 1, x =>
    let y := rngStep x
    let (z, l) := rngOut n y
    (z, y.extractLsb' 32 32 :: l)

/-- Seed (R247). -/
def rngSeed (seed st n r : Word) : Word × List (BitVec 32) :=
  let z0 := seed ^^^ (st * 0x9E3779B97F4A7C15#64) ^^^ ((2#64 * n + r) * 0xC2B2AE3D27D4EB4F#64)
  let z1 := (z0 ^^^ (z0 >>> 30)) * 0xBF58476D1CE4E5B9#64
  let z2 := (z1 ^^^ (z1 >>> 27)) * 0x94D049BB133111EB#64
  let z3 := z2 ^^^ (z2 >>> 31)
  rngOut 16 (if z3 = 0#64 then 0x2545F4914F6CDD1D#64 else z3)

/-- Seeding from the crew seed, sq0 or 0, the logical core and the slot (R247). -/
def State.seedCtx (s : State) (k r : Nat) : State :=
  let c := s.ctx k r
  match s.crew? c.crew with
  | none => s
  | some w =>
    let st := match s.seqDie c.crew with
      | some _ => Tab.get (s.core k).steps 0
      | none => 0#64
    let (x, q) := rngSeed (lrw w.lr 20) st (BitVec.ofNat 64 (w.lcore k)) (BitVec.ofNat 64 r)
    s.modRegs k r (fun g => { g with rng := x, rq := q })

/-- The landing of a tile word: a refresh (R184), and in exact mode a reseeding at the first tile word of each step (R191).
A null word is a wake too. The governor counts a tile's cycles from here (R195). -/
def landTile (s : State) (k r : Nat) (w : Word) : State :=
  let c := s.ctx k r
  let s1 := s.refresh k
  if wb w 63 then s1
  else
    let st := (Tab.get (s.core k).steps 0).toNat
    let s2 := if s.exact? c.crew && decide (c.exactStep ≠ some st) then
        (s1.seedCtx k r).modCtx k r (fun x => { x with exactStep := some st })
      else s1
    match s.seqDie c.crew with
    | none => s2
    | some d => s2.modSeq d (fun q => { q with out := q.out.map (fun o =>
        if decide (o.k = k) && decide (o.node = bf w 55 48) && decide (o.tile = bf w 31 16) && o.start.isNone then
          { o with start := some (s.core k).cycles } else o) })

/-- Land one entry: destination, ring, and what is tied to it (R404). -/
def landOne (s : State) (k r : Nat) (e : Landing) : State :=
  let s1 := landDst s k r e.dst e.val
  let s2 := s1.modRegs k r (fun g =>
    { g with rings := if e.dst.rings then g.rings.push e.slot e.val else g.rings })
  if e.tileWord then landTile s2 k r (e.val.setWidth 64) else s2

/-- A failed entry whose failure no trap record has named yet (R131, R405). -/
def Landing.failed (e : Landing) : Bool :=
  match e.err with
  | some x => !x.reported
  | none => false

/-- An entry is due at a tick and can land: its value has come, or its failure has been reported. -/
def Landing.ready (e : Landing) (t : Word) : Bool := decide (e.due = t) && e.wait.isNone && !e.failed

/-- The entries that land at the context's tick. -/
def Ctx.due (c : Ctx) : List Landing := c.landing.filter (fun e => e.ready c.regs.tick)

/-- Land everything due at the context's tick, in the order of issue (R52, R404); the flags raised are ORed in after any
CSRW of CX_FFLAGS that lands with them (R251). -/
def landDue (s : State) (k r : Nat) : State :=
  let es := (s.ctx k r).due
  let t := es.foldl (fun a e => landOne a k r e)
    (s.modCtx k r (fun x => { x with landing := x.landing.filter (fun e => !e.ready x.regs.tick) }))
  t.modRegs k r (fun g => { g with fflags := g.fflags ||| orFlags (es.map (·.fl)) })

/-- Rows in the decoder FIFO. -/
def fifoRows (l : List FifoEnt) : Nat := (l.filter (fun e => match e with
  | .row _ => true
  | _ => false)).length

/-- The words of place i of the decoder FIFO's ring of 128 rows (R80; log entry 21). -/
def fifoLocs (k i : Nat) : List (Nat × Nat × Nat) := (List.range 16).map (fun j => (dieOf k, 8, coreLoc k (i * 128 + 8 * j)))

/-- The lowest place of a landing buffer that no pending result has. -/
def freePlace (l : List Landing) : Nat := freeWay 64 (l.map (·.place))

/-- The words of a place of a landing buffer: the model's places are slot, place, byte (log entry 21). -/
def landLocs (k r i : Nat) : List (Nat × Nat × Nat) :=
  (List.range 16).map (fun j => (dieOf k, 9, coreLoc k ((r * 64 + i) * 128 + 8 * j)))

/-- Enter a result of the bundle in issue into the landing buffer, in a free place. -/
def State.enterLanding (s : State) (e : Landing) : State :=
  let p := freePlace s.ic.landing
  (s.modIc (fun c => { c with landing := c.landing ++ [{ e with place := p, born := 2 * s.icore.cycles + b2n s.issue.second }] })).clearUpsets
    (landLocs s.issue.k s.issue.r p)

/-- Enter a result of the bundle in issue into the landing buffer (R51). -/
def State.land (s : State) (u : SlotId) (d : LandDst) (v : Row) (n : Nat) : State :=
  s.enterLanding { due := s.ic.regs.tick + BitVec.ofNat 64 n, slot := u, dst := d, val := v, fl := 0#7, wait := none,
                   tileWord := false, err := none }

/-- As land, for a near store, which gets a number (R91). -/
def State.landStore (s : State) (bs : List (Nat × Byte)) : State :=
  { s with nextId := s.nextId + 1 }.enterLanding
    { due := s.ic.regs.tick + 2, slot := .l, dst := .spad bs, val := 0#1024, fl := 0#7, wait := none,
      tileWord := false, err := none, id := s.nextId }

/-- As land, with the flags of the result. -/
def State.landF (s : State) (u : SlotId) (d : LandDst) (v : Row) (n : Nat) (f : Flags) : State :=
  s.enterLanding { due := s.ic.regs.tick + BitVec.ofNat 64 n, slot := u, dst := d, val := v, fl := f, wait := none,
                   tileWord := false, err := none }

/-- As land, for a value that an access still has to bring (R255). -/
def State.landWait (s : State) (u : SlotId) (d : LandDst) (n : Nat) (id : Nat) : State :=
  s.enterLanding { due := s.ic.regs.tick + BitVec.ofNat 64 n, slot := u, dst := d, val := 0#1024, fl := 0#7, wait := some id,
                   tileWord := false, err := none }

/-- A near store that has bytes still to write. -/
def Landing.stores (e : Landing) : Bool :=
  match e.dst with
  | .spad (_ :: _) => true
  | _ => false

/-- Near stores of a context that have not been performed, by number. -/
def Ctx.nearStores (c : Ctx) : List Nat := (c.landing.filter Landing.stores).map (·.id)

/-- A context that a trap, debug or a group stop has parked (R169, R170). -/
def Ctx.parked (c : Ctx) : Bool :=
  match c.mode with
  | .trapped | .debug | .group => true
  | _ => false

/-- A near store stands at its landing tick, or its context waits outside its bundles or is parked, so that none of its own will land it: a
publish that covers it performs it (R51, R91, R404; log entry 11). -/
def Ctx.landsHere (c : Ctx) (e : Landing) : Bool := decide (e.due = c.regs.tick) || decide (c.mode ≠ .running)

/-- A near store is performed before its bundle lands it: its bytes reach the array, and its place in the buffer keeps what they were, which
is what near forms of its own context sample until it lands (R51; log entry 11). -/
def State.storeEarly (s : State) (k r : Nat) (e : Landing) : State :=
  match e.dst with
  | .spad bs =>
    (landDst s k r e.dst e.val).modCtx k r (fun c => { c with landing := c.landing.map (fun x =>
      if x.stores && decide (x.id = e.id) then
        { x with dst := .spad [], old := bs.map (fun b => (b.1, Tab.get s.mem (spadBase k + b.1))) }
      else x) })
  | _ => s

/-- Perform the near stores of a core with given numbers that a test of their contexts picks out (R91; log entry 11). -/
def State.flushNear (s : State) (k : Nat) (l : List Nat) (pick : Ctx → Landing → Bool) : State :=
  [0, 1].foldl (fun t r =>
    ((t.ctx k r).landing.filter (fun e => e.stores && l.contains e.id && pick (t.ctx k r) e)).foldl (fun u e => u.storeEarly k r e) t) s

/-- n bytes from an offset of the scratchpad as a near form of the context in issue samples them: after every near store of its own that
has landed, and before those that a publish has performed early (R51). -/
def State.nearRead (s : State) (o n : Nat) : List Byte :=
  let old := s.ic.landing.flatMap (·.old)
  (List.range n).map (fun i => match old.find? (fun b => decide (b.1 = o + i)) with
    | some b => b.2
    | none => Tab.get s.mem (spadBase s.issue.k + o + i))

/-- The origin of a resident context for its next bundle. -/
def State.originAt (s : State) (k r : Nat) : Origin :=
  let c := s.ctx k r
  ⟨k, r, c.uid, c.crew, (match s.crew? c.crew with
    | some w => w.lcore k
    | none => 0), c.regs.pc⟩

/-- The landing buffer is read as results land: a single error of a due entry is corrected, an uncorrectable one makes the
entry a failed one, so that the bundle traps with ECC_UE in its stead (R80, R81). pc is the bundle's. -/
def State.meetLandings (s : State) (k r : Nat) (pc : BitVec 18) : State :=
  if s.upsets = [] then s
  else
    (s.ctx k r).due.foldl (fun t e =>
      let ls := landLocs k r e.place
      let bad := t.ueAt ls
      let u := t.meetUpsets ls (some { s.originAt k r with pc := pc })
      if !bad then u
      else
        { u with upsets := u.upsets.filter (fun x => !ls.contains (x.die, x.array, x.loc)) }.modCtx k r (fun c => { c with
          landing := c.landing.map (fun (x : Landing) => if x.place = e.place then { x with err := some ⟨.eccUe, 0, 0, false, pc⟩ } else x) }))
      s

/-! ### Traps (R168, R169, R406) -/

/-- Code of a cause (R168). -/
def Cause.code : Cause → Nat
  | .illegalBundle => 0x01 | .illegalState => 0x02 | .address => 0x03 | .token => 0x04 | .priv => 0x05
  | .eccUe => 0x06 | .faultAbort => 0x07 | .streamFormat => 0x08 | .ordsumFull => 0x09 | .lbufFull => 0x0A
  | .cqFull => 0x0B | .watchdog => 0x0C | .trap => 0x0D | .remote => 0x0E | .debug => 0x0F | .badRecord => 0x10
  | .group => 0x11

/-- Priority group of a cause met by a bundle itself (R168, items 2 to 9). -/
def Cause.prio : Cause → Nat
  | .illegalBundle => 2 | .priv => 3 | .illegalState | .cqFull => 4 | .token => 5 | .address => 6
  | .lbufFull | .ordsumFull => 7 | .eccUe | .faultAbort | .streamFormat | .remote => 8 | .trap => 9
  | .watchdog | .debug | .badRecord | .group => 1

/-- A cause met by a slot, with ADDR and INFO. -/
structure SlotTrap where
  cause : Cause
  addr : Word
  info : Word
  deriving DecidableEq, Repr

/-- The trap that comes first in the order of R168, the earlier one at equal priority. -/
def firstTrap : List SlotTrap → Option SlotTrap
  | [] => none
  | t :: l =>
    match firstTrap l with
    | none => some t
    | some u => if t.cause.prio ≤ u.cause.prio then some t else some u

/-- Post a trap record to a crew: its number follows the crew's count (R169). -/
def State.postTrap (s : State) (crew : BitVec 16) (t : TrapRec) : State :=
  s.modCrew crew (fun c => { c with trapq := c.trapq ++ [{ t with seq := c.trapSeq }], trapSeq := c.trapSeq + 1 })

/-- Mark the head of a queue as reported when the record names its failure (R405). -/
def markHead (c : Cause) (q : List QEnt) : List QEnt :=
  match q with
  | e :: l =>
    (match e.err with
     | some x => if x.cause = c then { e with err := some { x with reported := true } } :: l else q
     | none => q)
  | [] => []

/-- The n-th free row. -/
def freeRow (n : Nat) : Row := BitVec.ofNat 1024 ((List.range 16).map (fun i => (Config.openValue (n + i)).toNat * 2 ^ (64 * i))).sum

/-- Mark the due landings that failed with the cause: what they land when the bundle issues again is not given, and is a free row
(R81, R131; log entry 22). -/
def markLanding (n : Nat) (c : Cause) (t : Word) (l : List Landing) : List Landing :=
  l.zipIdx.map (fun (e, i) =>
    match e.err with
    | some x => if x.cause = c ∧ e.due = t then { e with err := some { x with reported := true }, val := freeRow (n + 16 * i) } else e
    | none => e)

/-- The naming in a trap record of a failure that a POP met at the head of its queue (R405). -/
def State.markPop (s : State) (k r : Nat) (q : RQ) (c : Cause) : State :=
  s.modCtx k r (fun x => match q with
    | .qld => { x with qld := markHead c x.qld }
    | .qrm => { x with qrm := markHead c x.qrm }
    | .qas => x)

/-- The naming in a trap record of a result due at the context's tick that failed (R81, R131). -/
def State.markDue (s : State) (k r : Nat) (c : Cause) : State :=
  { s with free := s.free + 16 * (s.ctx k r).landing.length }.modCtx k r (fun x => { x with
    landing := markLanding s.free c x.regs.tick x.landing })

/-- The naming in a trap record of what an XEXP met at the head of the decoder FIFO: a mark leaves it (R75), and an
uncorrectable chunk becomes that of the context that trapped (R81). -/
def State.markFifo (s : State) (k r : Nat) (c : Cause) : State :=
  s.modEng k (fun e => { e with fifo := match c, e.fifo with
    | .streamFormat, .mark _ :: l => l
    | .eccUe, .bad o _ :: l => .bad o (some (s.ctx k r).uid) :: l
    | _, l => l })

/-- Park a context by a trap: it stays resident with its full state, issues nothing, and its record is posted (R169).
A wait read of its WAITA is done again when the bundle issues again; a context that was waiting keeps what it waits in, and a
single step that a trap ends is over (R96, R170).
slots marks the slots that met the cause; async says that the cause came from outside the bundle. -/
def State.park (s : State) (k r : Nat) (slots : BitVec 8) (async : Bool) (t : SlotTrap) (pc : BitVec 18) : State :=
  let c := s.ctx k r
  let (lc, img) := match s.crew? c.crew with
    | some w => (w.lcore k, BitVec.ofNat 32 (bf (lrw w.lr 0) 63 32))
    | none => (0, 0#32)
  let s1 := s.postTrap c.crew
    { cause := t.cause, slots := slots, lcore := lc, rslot := r, async := async, halted := false, image := img,
      pc := pc, tick := c.regs.tick, time := s.time, addr := t.addr, info := t.info, seq := 0#32, resume := none }
  let m : CtxMode := match t.cause with
    | .debug => .debug
    | .group => .group
    | _ => .trapped
  (s1.modCtx k r (fun x => { x with mode := m, stallCnt := 0, waitRd := none, stepOne := false, was := match x.mode with
    | .barrier _ _ | .fuseWait _ | .rejoinWait => x.mode
    | _ => .running })).modCore k (fun x => { x with
    far := x.far.filter (fun a => decide (a.who.uid ≠ c.uid) || decide (a.kind ≠ .waitRead)) })

/-- The slot's bit in SLOTS (R169). -/
def slotBit (u : SlotId) : BitVec 8 := BitVec.ofNat 8 (2 ^ u.num)

/-- enterTrap: the one entry into a trap for the bundle in issue (R168, R169). The bundle is suppressed, so nothing of it
has been done to s; the record takes the given PC and the bundle's tick; the context parks. async says that the cause came
from outside the bundle. -/
def State.enterTrap (s : State) (slots : BitVec 8) (async : Bool) (t : SlotTrap) (pc : BitVec 18) : State :=
  let s2 := s.park s.issue.k s.issue.r slots async t pc
  { s2 with issue := { s2.issue with res := .trapped t.cause t.addr t.info } }

/-- A trap of the bundle in issue, at its own PC. -/
def State.takeTrap (s : State) (slots : BitVec 8) (t : SlotTrap) : State := s.enterTrap slots false t s.issue.pc

/-- Count a stream against its half (R68): up at issue, down when its last bytes are delivered or it stops. -/
def Cluster.countReads (c : Cluster) (h : Nat) (f : Nat → Nat) : Cluster :=
  if h = 0 then { c with reads0 := f c.reads0 } else { c with reads1 := f c.reads1 }

def State.countReads (s : State) (h : Nat × Nat) (f : Nat → Nat) : State :=
  s.modCluster h.1 (fun c => c.countReads h.2 f)

/-- A chunk stands at the head of the decoder FIFO that a trap of a context has named (R81). -/
def Engines.badNamed (e : Engines) (uid : Nat) : Bool :=
  match e.fifo with
  | .bad _ n :: _ => decide (n = some uid)
  | _ => false

/-- Unhalt the queues that a failure of a context halted, which go on behind the failed command, and drop the stopped
chunk that a trap of it has named (R81, R131, R319). -/
def Engines.unhalt (e : Engines) (uid : Nat) : Engines :=
  let go (q : List Cmd) : List Cmd := q.filter (fun c => !(c.failed && decide (c.who.uid = uid)))
  let hit (q : List Cmd) : Bool :=
    q.any (fun c => c.failed && decide (c.who.uid = uid)) && q.all (fun c => !c.failed || decide (c.who.uid = uid))
  let hitMx : Bool :=
    match e.mx with
    | c :: _ => c.failed && decide (c.who.uid = uid)
    | [] => false
  let hitSl : Bool := e.badNamed uid
  let keep (i : Nat) (h : Bool) : Nat := if e.halted.getLsbD i && !h then 2 ^ i else 0
  { e with
    ce0 := go e.ce0, ce1 := go e.ce1, ce2 := go e.ce2, ce3 := go e.ce3,
    mx := if hitMx then e.mx.drop 1 else e.mx,
    sl := if hitSl then e.sl.drop 1 else e.sl,
    fifo := if hitSl then e.fifo.drop 1 else e.fifo,
    halted := BitVec.ofNat 6 (keep 0 (hit e.ce0) + keep 1 (hit e.ce1) + keep 2 (hit e.ce2) + keep 3 (hit e.ce3) +
      keep 4 hitSl + keep 5 hitMx) }

/-- The queues that a context's failure halted go on, on every core and in every save block; a stream that ends so on a core releases its
count of R68, which a saved one holds no more. -/
def State.unhaltAll (s : State) (uid : Nat) : State :=
  let gone := s.cores.flatMap (fun c => if c.eng.badNamed uid then c.eng.sl.take 1 else [])
  { gone.foldl (fun t x => t.countReads x.half (· - 1)) s with
    cores := s.cores.map (fun c => { c with eng := c.eng.unhalt uid })
    crews := s.crews.map (fun w => { w with saved := w.saved.map (fun v => { v with core := { v.core with eng := v.core.eng.unhalt uid } }) }) }

/-- The cores of the lock-step group that holds a core; the core alone outside one (R160). -/
def State.groupOf (s : State) (k : Nat) : List Nat :=
  match (s.core k).fuse with
  | some f =>
    if f.dec then [k]
    else (List.range (if f.quad then 4 else 2)).filterMap (fun i =>
      let p := if f.quad then k / 4 * 4 + i else k / 2 * 2 + i
      match (s.core p).fuse with
      | some g => if g.dec then none else some p
      | none => none)
  | none => [k]

/-- Return from a trap: RESUME lets the parked context issue the bundle at CX_PC, or go on waiting in its PBAR, FUSE or REJOIN,
and a queue halted for it resumes (R81, R96, R170). The other members of its lock-step group that a group stop parked go on with it (R162). -/
def State.returnTrap (s : State) (k r : Nat) : State :=
  let c := s.ctx k r
  let go (t : State) (p q : Nat) : State := t.modCtx p q (fun x => { x with mode := x.was, stallCnt := 0, was := .running })
  let s1 := (go s k r).unhaltAll c.uid
  if c.mode = .group then s1
  else (s.groupOf k).foldl (fun t p => [0, 1].foldl (fun u q =>
    if (s.ctx p q).mode = .group then go u p q else u) t) s1

/-- Post an outside condition to a resident context (R168). -/
def State.postCond (s : State) (k r : Nat) (c : Cond) : State :=
  s.modCtx k r (fun x => { x with conds := x.conds ++ [c] })

/-! ### Waiting (R118, R153) -/

/-- The waits that freeze the whole core. -/
def Wait.freezes : Wait → Bool
  | .cur | .bank | .swap | .pub | .fifo | .far => true
  | _ => false

/-- Count one cycle of a wait (R153, R137). -/
def State.countWait (s : State) (k r : Nat) (w : Wait) : State :=
  match w with
  | .cur => s.modCore k (fun c => { c with cnt := { c.cnt with frzCur := c.cnt.frzCur + 1 } })
  | .bank => s.modCore k (fun c => { c with cnt := { c.cnt with frzBank := c.cnt.frzBank + 1 } })
  | .swap => s.modCore k (fun c => { c with cnt := { c.cnt with frzSwap := c.cnt.frzSwap + 1 } })
  | .pub => s.modCore k (fun c => { c with cnt := { c.cnt with frzPub := c.cnt.frzPub + 1 } })
  | .fifo => s.modCore k (fun c => { c with cnt := { c.cnt with fifoStarve := c.cnt.fifoStarve + 1 } })
  | .far => s.modCore k (fun c => { c with cnt := { c.cnt with frzFar := c.cnt.frzFar + 1 } })
  | .flt => s.modCtx k r (fun c => { c with holdFlt := c.holdFlt + 1 })
  | .slog => s.modCtx k r (fun c => { c with holdFlt := c.holdFlt + 1, holdSlog := c.holdSlog + 1 })
  | .sync => s.modCtx k r (fun c => { c with holdSync := c.holdSync + 1 })

/-! ### The frame of a slot instruction -/

/-- A slot is enabled when its predicate, read at the bundle's tick, differs from the negate bit (R204). -/
def State.enabled (s : State) (p : Pr) : Bool := s.ic.regs.getP p.n != p.neg

/-- Space for n more results in the landing buffer of the context in issue, with those of earlier slots of the bundle, a trapped or
waiting one's too (R152, R398). -/
def State.lbufTraps (s : State) (n : Nat) : List SlotTrap :=
  if n ≠ 0 && decide (64 < s.ic.landing.length + s.issue.more + n) then [⟨.lbufFull, 0, 0⟩] else []

/-- The course of every slot instruction. A disabled slot performs nothing. An enabled slot that meets a cause of R168
takes the trap. One that must wait is counted and performs nothing. Otherwise the instruction has its effect. nres is
the number of results that it enters into the landing buffer, and reads the storage words that it reads: an
uncorrectable one is a cause of its own, a single error is corrected (R81). -/
def slotOp (u : SlotId) (p : Pr) (nres : Nat) (reads : State → List (Nat × Nat × Nat)) (traps : State → List SlotTrap)
    (waits : State → Option Wait) (eff : State → State) (s : State) : Host.Outcome State Fault Refusal :=
  if !s.enabled p then .next s
  else
    let ls := reads s
    let ue : List SlotTrap := if s.ueAt ls then [⟨.eccUe, 0, 0⟩] else []
    match firstTrap (traps s ++ s.lbufTraps nres ++ ue) with
    | some t => .next ((if t.cause = .eccUe then s.meetUpsets ls (some s.origin) else s).takeTrap (slotBit u) t)
    | none =>
      match waits s with
      | some w =>
        let s1 := s.countWait s.issue.k s.issue.r w
        .next { s1 with issue := { s1.issue with res := .waits w } }
      | none => .next (eff (s.meetUpsets ls (some s.origin)))

/-- No storage word is read. -/
def noReads (_ : State) : List (Nat × Nat × Nat) := []

/-- No cause of its own. -/
def noTraps (_ : State) : List SlotTrap := []

/-- No wait of its own. -/
def noWaits (_ : State) : Option Wait := none

/-- A cause when a condition holds. -/
def trapIf (b : Bool) (c : Cause) : List SlotTrap := if b then [⟨c, 0, 0⟩] else []

/-- A cause with its ADDR when a condition holds. -/
def trapAt (b : Bool) (c : Cause) (a : Word) : List SlotTrap := if b then [⟨c, a, 0⟩] else []

/-- A cause with its INFO when a condition holds. -/
def trapInfo (b : Bool) (c : Cause) (i : Nat) : List SlotTrap := if b then [⟨c, 0, BitVec.ofNat 64 i⟩] else []

end Sys2Proof.Machine
end

