-- ==== Sys2Proof/Machine/Operands.lean ====
section
/-!
DEFINITION. Every operand form of R205 to R210: scalar and vector sources and destinations, latches, rotation, tile split,
accumulators, combined immediates; and what an instruction would land, for the check of R218 item 7.
-/

namespace Sys2Proof.Machine

/-- Latch n of a scalar slot (R208). -/
def Rings.scalar (g : Rings) (u : SUnit) (n : Nat) : Word :=
  match u with
  | .c => g.c.getD n 0#64
  | .i => g.i.getD n 0#64
  | .l => g.l.getD n 0#64
  | .e => g.e.getD n 0#64

/-- Latch n of a vector slot (R208). -/
def Rings.vector (g : Rings) (u : VUnit) (n : Nat) : Row :=
  match u with
  | .v0 => g.v0.getD n 0#1024
  | .v1 => g.v1.getD n 0#1024
  | .x => g.x.getD n 0#1024
  | .m => g.m.getD n 0#1024

/-- SrcScalar (R205, R227). -/
def srcVal (a : SSrc) (g : Regs) : Word :=
  match a with
  | .reg n => g.getS n
  | .latch u n => g.rings.scalar u n.toNat

/-- A scalar source read for the context in issue. -/
def State.ss (s : State) (a : SSrc) : Word := srcVal a s.ic.regs

/-- Second operand of format IR: a scalar source, or its 6-bit immediate zero-extended (R212, R262). -/
def State.so (s : State) (b : SOp) : Word :=
  match b with
  | .src a => s.ss a
  | .imm k => k.setWidth 64

/-- DstScalar (R205, R227). -/
def dstLand (d : SDst) : LandDst :=
  match d with
  | .reg n => if n = 0#5 then .none else .scal n
  | .off => .none

/-- Rot (R209, R227): the innermost active loop with a ring that covers the tile. -/
def rotTile (ls : List LoopSt) (t : Nat) : Option Nat :=
  firstSome (fun l => (l.rings.find? (·.covers t)).map (fun r => r.first + (t - r.first + l.iter) % r.len)) ls

/-- The tile that a field names, after rotation (R209). -/
def tileNo (g : Regs) (rot : Bool) (t : BitVec 4) : Option Nat := if rot then rotTile g.loops t.toNat else some t.toNat

/-- The context in issue names half of the tiles and accumulators (R144). -/
def State.isplit (s : State) : Bool := s.split? s.ic.crew

/-- Physical tile of a named tile: in split mode slot 1's tiles start at t8 (R144). -/
def State.physTile (s : State) (t : Nat) : Nat := if s.isplit && decide (s.issue.r = 1) then t + 8 else t

/-- Physical accumulator of a named accumulator (R144). -/
def State.physAcc (s : State) (a : Nat) : Nat := if s.isplit && decide (s.issue.r = 1) then a + 2 else a

/-- A tile field fails: no ring covers it, or the tile split does not give it to the context (R144, R209). -/
def State.tileBad (s : State) (rot : Bool) (t : BitVec 4) : Bool :=
  match tileNo s.ic.regs rot t with
  | none => true
  | some n => s.isplit && decide (8 ≤ n)

/-- The physical tile of a field, t0 where the field fails (then the bundle traps). -/
def State.ptile (s : State) (rot : Bool) (t : BitVec 4) : Nat :=
  s.physTile ((tileNo s.ic.regs rot t).getD 0)

/-- TileRead at the full width (R227): a directional vector or a latch. -/
def State.vs (s : State) (a : VSrc) : Row :=
  match a with
  | .tile rot dir t k => tileRead s.icore.tiles (s.ptile rot t) dir k.toNat
  | .latch u n => s.ic.regs.rings.vector u n.toNat

/-- The low bits of a row. -/
def lowBits (n : Nat) (v : Row) : Row := v &&& BitVec.ofNat 1024 (2 ^ n - 1)

/-- TileRead at a width, zero above it (R45, R227). -/
def State.vsw (s : State) (w : Width) (a : VSrc) : Row := lowBits w.bits (s.vs a)

/-- What a vector source traps on. -/
def vsTraps (a : VSrc) (s : State) : List SlotTrap :=
  match a with
  | .tile rot _ t _ => trapIf (s.tileBad rot t) .illegalState
  | .latch _ _ => []

/-- What a vector destination traps on. -/
def vdTraps (d : VDst) (s : State) : List SlotTrap :=
  match d with
  | .tile rot _ t _ => trapIf (s.tileBad rot t) .illegalState
  | .off => []

/-- The storage words that a vector source reads (R81). -/
def vsWords (a : VSrc) (bits : Nat) (s : State) : List (Nat × Nat × Nat) :=
  if s.upsets = [] then []
  else match a with
    | .tile rot dir t k => tileLocs s.issue.k (s.ptile rot t) dir k.toNat bits
    | .latch _ _ => []

/-- The landing destination of a vector destination field at a width. -/
def State.vd (s : State) (d : VDst) (bits : Nat) : LandDst :=
  match d with
  | .tile rot dir t k => .tile dir (BitVec.ofNat 4 (s.ptile rot t)) k bits
  | .off => .none

/-- Accumulator quarter row as its number in the core's array. -/
def State.accIx (s : State) (r : AccRef) : Nat := s.physAcc r.a.toNat * 512 + r.row.toNat * 4 + r.q.toNat

/-- The storage words of an accumulator quarter row (R81, R83). -/
def accWords (p i : Nat) : List (Nat × Nat × Nat) :=
  (List.range 16).map (fun j => (p / 128, 1, coreLoc p (i * 128 + 8 * j)))

/-- An accumulator that the tile split does not give to the context (R144). -/
def State.accBad (s : State) (a : BitVec 2) : Bool := s.isplit && decide (2 ≤ a.toNat)

/-- The token of an accumulator is with the V slots (R48, R321). -/
def State.tokV (s : State) (a : BitVec 2) : Bool := s.ic.regs.tok.getLsbD a.toNat

/-! ### What a slot would land (R218, item 7) -/

/-- Whether two destinations, taken after rotation, share a bit (R52). -/
def LandDst.meets : LandDst → LandDst → Bool
  | .scal m, .scal n => decide (m = n)
  | .pred m, .pred n => decide (m = n)
  | .acc i, .acc j => decide (i = j)
  | .mp m, .mp n => decide (m = n)
  | .scale m, .scale n => decide (m = n)
  | .scale m, .scaleEl n _ => decide (m = n)
  | .scaleEl m _, .scale n => decide (m = n)
  | .scaleEl m i, .scaleEl n j => decide (m = n) && decide (i = j)
  | .tile d1 t k w, .tile d2 u l x =>
    decide (t = u) &&
      ((List.range (w / 32)).any (fun i => (List.range (x / 32)).any (fun j =>
        decide (cellOf d1 k.toNat i = cellOf d2 l.toNat j))))
  | _, _ => false

end Sys2Proof.Machine
end

