-- ==== Sys2Proof/Machine/Control.lean ====
section
/-!
DEFINITION. The C slot (R253, R256 to R261): transfers, hardware loops, suspension, fusion; and fetching bundles from
instruction memory. What a C-slot instruction asks of the context is kept in the issue record and takes effect at the end of
its bundle (R157, R257).
-/

namespace Sys2Proof.Machine

/-! ### Fetch (R202) -/

/-- The presence byte at an offset. -/
def presAt (im : List Byte) (pc : Nat) : Nat := (im.getD pc 0#8).toNat

/-- Skip padding: a zero presence byte continues at the next line; fuel bounds the lines of an image. -/
def skipPad (im : List Byte) (len : Nat) : Nat → Nat → Nat
  | 0, pc => pc
  | n + 1, pc =>
    if len ≤ pc then pc
    else if presAt im pc = 0 then skipPad im len n ((pc / 64 + 1) * 64)
    else pc

/-- Where the bundle for an offset begins. -/
def fetchPc (im : List Byte) (len pc : Nat) : Nat := skipPad im len 3073 pc

/-- The bytes from an offset to the end of its line. -/
def lineRest (im : List Byte) (pc : Nat) : List Byte := (im.drop pc).take (64 - pc % 64)

/-- Offset after the bundle at an offset. -/
def afterPc (im : List Byte) (pc : Nat) : Nat := pc + bundleLen (presAt im pc)

/-- Positions of the first and the last of n bundles from an offset; none past the image's end (R258). -/
def bodyOf (im : List Byte) (len : Nat) : Nat → Nat → Option Nat
  | 0, _ => none
  | n + 1, pc =>
    let q := fetchPc im len pc
    if len ≤ q then none
    else match n with
      | 0 => some q
      | _ => bodyOf im len n (afterPc im q)

/-- Image of the core in issue and its length. -/
def State.image (s : State) : List Byte × Nat := (s.icore.imem, s.imglen s.ic.crew)

/-! ### Loops (R258 to R260) -/

/-- Continue past the bundle at position e: iterations of the loops that end there are counted, innermost first; next is
the offset after it (R259). -/
def advance (e next : Nat) : List LoopSt → List LoopSt × Nat
  | [] => ([], next)
  | l :: ls =>
    if l.last.toNat = e then
      if 1 < l.left then ({ l with iter := l.iter + 1, left := l.left - 1 } :: ls, l.first.toNat)
      else advance e next ls
    else (l :: ls, next)

/-- A position lies inside a loop's body. -/
def LoopSt.holds (im : List Byte) (l : LoopSt) (pc : Nat) : Bool :=
  decide (l.first.toNat ≤ pc) && decide (pc < afterPc im l.last.toNat)

/-- The loops that a taken transfer leaves active: those whose body holds the target, and the ones around them
(R260). -/
def keepLoops (im : List Byte) (pc : Nat) : List LoopSt → List LoopSt
  | [] => []
  | l :: ls => if l.holds im pc then l :: ls else keepLoops im pc ls

/-- The context in issue belongs to a group in lock-step (R159, R161). -/
def State.lockStep (s : State) : Bool :=
  match s.icore.fuse with
  | some f => !f.dec
  | none => false

/-- A transfer traps when its target lies outside the image (R257), or when it leaves the outermost loop of a fused group. -/
def badTarget (t : Word) (s : State) : Bool :=
  let (im, len) := s.image
  decide (len ≤ t.toNat) ||
    (s.lockStep && decide (s.ic.regs.loops ≠ []) &&
      decide (keepLoops im (fetchPc im len t.toNat) s.ic.regs.loops = []))

/-- Ask the end of the bundle for a control effect. -/
def State.ask (s : State) (c : Ctl) : State := { s with issue := { s.issue with ctl := c } }

/-- A taken transfer (R256, R257). -/
def transfer (p : Pr) (nres : Nat) (target : State → Word) (also : State → State) (s : State) :
    Host.Outcome State Fault Refusal :=
  slotOp .c p nres noReads (fun t => trapIf (badTarget (target t) t) .illegalState) noWaits
    (fun t => (also t).ask (.goto ((target t).setWidth 18))) s

/-- PC + SignExtend(off, 20) (R256). -/
def relTarget (off : BitVec 20) (s : State) : Word := s.issue.pc.setWidth 64 + off.signExtend 64

def execBr (p : Pr) (off : BitVec 20) (s : State) := transfer p 0 (relTarget off) id s

/-- CALL lands PC + n in s27 (R256). -/
def execCall (p : Pr) (off : BitVec 20) (s : State) :=
  transfer p 1 (relTarget off)
    (fun t => t.land .c (.scal 27#5) (BitVec.ofNat 1024 (t.issue.pc.toNat + t.issue.len)) 1) s

def execRet (p : Pr) (a : SSrc) (s : State) := transfer p 0 (fun t => t.ss a) id s
def execJmpi (p : Pr) (a : SSrc) (s : State) := transfer p 0 (fun t => t.ss a) id s

/-- The body of a LOOP: first and last bundle; none where it runs past the image or past the last body bundle of the
innermost active loop (R258). -/
def loopBody (l : Nat) (s : State) : Option (Nat × Nat) :=
  let (im, len) := s.image
  let a := s.issue.pc.toNat + s.issue.len
  match bodyOf im len l a with
  | none => none
  | some e =>
    match s.ic.regs.loops with
    | x :: _ => if x.last.toNat < e then none else some (fetchPc im len a, e)
    | [] => some (fetchPc im len a, e)

/-- LOOP with its count (R258). -/
def loopOp (p : Pr) (l : BitVec 8) (count : State → Nat) (x : Ext) (s : State) :
    Host.Outcome State Fault Refusal :=
  slotOp .c p 0 noReads
    (fun t => trapIf (decide (3 ≤ t.ic.regs.loops.length) || decide (2 ^ 32 - 1 < count t) ||
      (loopBody (l.toNat + 1) t).isNone) .illegalState)
    noWaits
    (fun t =>
      match loopBody (l.toNat + 1) t with
      | none => t
      | some (f, e) =>
        t.ask (.loop { hdr := t.issue.pc, first := BitVec.ofNat 18 f, last := BitVec.ofNat 18 e, iter := 0,
                       left := count t, rings := ringsOf x })) s

def execLoopImm (p : Pr) (l : BitVec 8) (n : BitVec 11) (x : Ext) (s : State) := loopOp p l (fun _ => n.toNat) x s
def execLoopReg (p : Pr) (l : BitVec 8) (a : SSrc) (x : Ext) (s : State) :=
  loopOp p l (fun t => (t.ss a).toNat) x s

/-- LBRK (R260). -/
def execLbrk (p : Pr) (s : State) : Host.Outcome State Fault Refusal :=
  slotOp .c p 0 noReads (fun t => trapIf (decide (t.ic.regs.loops = [])) .illegalState) noWaits (fun t => t.ask .brk) s

/-- YIELD: the merge stage's rule of R155 applies after the bundle. -/
def execYield (p : Pr) (s : State) : Host.Outcome State Fault Refusal :=
  slotOp .c p 0 noReads noTraps noWaits (fun t => { t with issue := { t.issue with yld := true } }) s

/-! ### Suspension (R147) -/

/-- Physical address and number of records of a crew's continuation queue (R138). -/
def Crew.queueAt (c : Crew) : Nat × Nat := (bf (lrw c.lr 18) 51 6 * 64, 2 ^ (bf (lrw c.lr 18) 3 0 + 4))

/-- STATE of a continuation record (R145, R146). -/
def State.recState (s : State) (a : Nat) : Nat := bf (s.read64 (a + 8)) 41 38

/-- A record of a crew's queue holds an uncorrectable word: nothing of it is read, so that it is neither EMPTY nor READY to anyone until it
is written (R80; log entry 69). -/
def State.recUe (s : State) (c : Crew) (i : Nat) : Bool := s.ueAt (memLocs (c.queueAt.1 + 64 * i) 64)

/-- The lowest-numbered EMPTY slot that no suspension has reserved (R147). -/
def State.freeRec (s : State) (c : Crew) : Option Nat :=
  let (a, n) := c.queueAt
  (List.range n).find? (fun i => !c.reserved.contains i && decide (s.recState (a + 64 * i) = 0) && !s.recUe c i)

/-- The queue slot that a suspension of the context in issue would reserve; the one that a SUSP of its bundle has reserved already. -/
def State.suspSlot (s : State) : Option Nat :=
  match s.issue.ctl, s.crew? s.ic.crew with
  | .susp q, _ => some q.qslot
  | _, some c => s.freeRec c
  | _, none => none

/-- The queue slot of a suspension is reserved at its issue, so that none of another core takes it while the bundle waits for its last
cycle (R147, R157); a trap that suppresses the bundle undoes it. -/
def State.reserve (s : State) (q : Nat) : State :=
  s.modCrew s.ic.crew (fun w => { w with reserved := if w.reserved.contains q then w.reserved else w.reserved ++ [q] })

/-- What makes a suspension illegal where it stands: loop depth, a loop of more than 2^23 − 1 iterations, fusion (R147). -/
def suspBad (s : State) : Bool :=
  let ls := s.ic.regs.loops
  decide (2 ≤ ls.length) || ls.any (fun l => decide (2 ^ 23 - 1 < l.iter + l.left)) || s.lockStep

/-- Causes of a suspension (R147). -/
def suspTraps (s : State) : List SlotTrap :=
  trapIf (suspBad s) .illegalState ++ trapIf s.suspSlot.isNone .cqFull

/-- SUSP in its two forms (R147, R261). -/
def suspOp (p : Pr) (any : Bool) (s : State) : Host.Outcome State Fault Refusal :=
  slotOp .c p 0 noReads suspTraps noWaits
    (fun t => (t.reserve (t.suspSlot.getD 0)).ask
      (.susp { qslot := t.suspSlot.getD 0, waiting := false, any := any, cc := .eq, scope := .core, sv := 0, addr := 0 })) s

def execSusp (p : Pr) (s : State) := suspOp p false s
def execSuspAny (p : Pr) (s : State) := suspOp p true s

/-- HALT (R150, R261). -/
def execHalt (p : Pr) (s : State) : Host.Outcome State Fault Refusal :=
  slotOp .c p 0 noReads noTraps noWaits (fun t => t.ask .halt) s

/-- TRAP: the cause of R168, item 9, with INFO the immediate (R261). -/
def execTrap (p : Pr) (k : BitVec 20) (s : State) : Host.Outcome State Fault Refusal :=
  slotOp .c p 0 noReads (fun _ => [⟨.trap, 0, k.setWidth 64⟩]) noWaits id s

/-! ### Fusion (R159 to R161) -/

/-- The cores of the pair or quad instance that holds a core (R85). -/
def fuseCores (quad : Bool) (p : Nat) : List Nat :=
  if quad then (List.range 4).map (fun i => p / 4 * 4 + i) else (List.range 2).map (fun i => p / 2 * 2 + i)

/-- A context waits in FUSE, or has been parked while it did and waits on after RESUME; with the size. -/
def Ctx.fuses (c : Ctx) : Option Bool :=
  match c.mode, c.was with
  | .fuseWait q, _ => some q
  | .trapped, .fuseWait q | .debug, .fuseWait q | .group, .fuseWait q => some q
  | _, _ => Option.none

/-- A core has issued a FUSE that waits, with its size (R149, R159). -/
def State.fuseWaits (s : State) (p : Nat) : Option Bool := ((s.ctx p 0).fuses).or (s.ctx p 1).fuses

/-- Illegal uses of FUSE (R159). -/
def fuseBad (quad : Bool) (s : State) : Bool :=
  let k := s.issue.k
  let other := (s.ctx k (1 - s.issue.r)).mode
  let cores := fuseCores quad k
  let mem := match s.crew? s.ic.crew with
    | some c => c.members
    | none => []
  decide (other ≠ .empty) || cores.any (fun p => !mem.contains p) ||
    cores.any (fun p => decide (s.fuseWaits p = some (!quad))) || s.icore.fuse.isSome

def fuseOp (p : Pr) (quad : Bool) (s : State) : Host.Outcome State Fault Refusal :=
  slotOp .c p 0 noReads (fun t => trapIf (fuseBad quad t) .illegalState) noWaits (fun t => t.ask (.fuse quad)) s

def execFusePair (p : Pr) (s : State) := fuseOp p false s
def execFuseQuad (p : Pr) (s : State) := fuseOp p true s

/-- DECPL: illegal outside lock-step (R161). -/
def execDecpl (p : Pr) (s : State) : Host.Outcome State Fault Refusal :=
  slotOp .c p 0 noReads (fun t => trapIf (!t.lockStep) .illegalState) noWaits
    (fun t => { t with issue := { t.issue with dec := true } }) s

/-- REJOIN: illegal when not decoupled (R161). -/
def execRejoin (p : Pr) (s : State) : Host.Outcome State Fault Refusal :=
  slotOp .c p 0 noReads
    (fun t => trapIf (match t.icore.fuse with
      | some f => !f.dec
      | none => true) .illegalState)
    noWaits (fun t => t.ask .rejoin) s

end Sys2Proof.Machine
end

