-- ==== Sys2Proof/Machine/Num.lean ====
section
/-!
DEFINITION. Exact values, the number formats and the one rounding of R233 to R252, with the arithmetic that the
instructions compute exactly before they round once.
-/

namespace Sys2Proof.Machine

/-- An exact value: a NaN, an infinity, or the rational ± n / d, where a zero keeps its sign. -/
inductive Num
  | nan
  | inf (neg : Bool)
  | fin (neg : Bool) (n d : Nat)
  deriving DecidableEq, Repr

/-- Two to an integer power as a fraction. -/
def pow2 (e : Int) : Nat × Nat := if 0 ≤ e then (2 ^ e.toNat, 1) else (1, 2 ^ (-e).toNat)

/-- ± m × 2^e. -/
def Num.dyadic (neg : Bool) (m : Nat) (e : Int) : Num := .fin neg (m * (pow2 e).1) (pow2 e).2

/-- An integer as a value. -/
def Num.ofInt (i : Int) : Num := .fin (decide (i < 0)) i.natAbs 1

/-- Parameters of a binary floating-point format (R233). -/
structure Fmt where
  ebits : Nat
  fbits : Nat
  bias : Nat
  hasInf : Bool
  deriving DecidableEq, Repr

namespace Fmt
def f32 : Fmt := ⟨8, 23, 127, true⟩
def bf16 : Fmt := ⟨8, 7, 127, true⟩
def f16 : Fmt := ⟨5, 10, 15, true⟩
def e4m3 : Fmt := ⟨4, 3, 7, false⟩
def e5m2 : Fmt := ⟨5, 2, 15, true⟩

/-- The sign bit's weight. -/
def signBit (f : Fmt) : Nat := 2 ^ (f.ebits + f.fbits)
/-- The code of positive infinity in the formats that have one. -/
def infCode (f : Fmt) : Nat := (2 ^ f.ebits - 1) * 2 ^ f.fbits
/-- The largest finite magnitude's code. -/
def maxCode (f : Fmt) : Nat := if f.hasInf then f.infCode - 1 else f.signBit - 2
/-- The default NaN (R233): the quiet pattern, or 0x7F in E4M3. -/
def nanCode (f : Fmt) : Nat := if f.hasInf then f.infCode + 2 ^ (f.fbits - 1) else f.signBit - 1
end Fmt

/-- The binary format of a floating-point type. -/
def fmtOf : Ty → Option Fmt
  | .f32 => some .f32
  | .bf16 => some .bf16
  | .f16 => some .f16
  | .e4m3 => some .e4m3
  | .e5m2 => some .e5m2
  | _ => none

/-- FloatValue (R233, R234, R252). -/
def floatValue (f : Fmt) (c : Nat) : Num :=
  let neg := decide (c / f.signBit % 2 = 1)
  let mag := c % f.signBit
  let e := mag / 2 ^ f.fbits
  let m := mag % 2 ^ f.fbits
  if f.hasInf && decide (mag = f.infCode) then .inf neg
  else if decide (f.maxCode < mag) then .nan
  else if e = 0 then .dyadic neg m (1 - f.bias - f.fbits)
  else .dyadic neg (2 ^ f.fbits + m) ((e : Int) - f.bias - f.fbits)

/-- T[f] of R238: 2^(f/4) with 16 fraction bits. -/
def lnsT (f : Nat) : Nat :=
  match f with
  | 0 => 65536
  | 1 => 77936
  | 2 => 92682
  | _ => 110218

/-- T[f] × 2^(i − 16) for q = 4i + f by floor division (R237, R238). -/
def lnsPow (neg : Bool) (q : Int) : Num := .dyadic neg (lnsT (q % 4).toNat) (q / 4 - 16)

/-- LnsValue (R237, R252): the table value. -/
def lnsValue (c : Nat) : Num :=
  let s := decide (c / 32 % 2 = 1)
  let m := c % 32
  if m = 0 then (if s then .nan else .fin false 0 1) else lnsPow s ((m : Int) - 16)

/-- LnsProduct (R238, R252). -/
def lnsProduct (a b : Nat) : Num :=
  if a % 32 = 0 ∨ b % 32 = 0 then .fin false 0 1
  else lnsPow (decide (a / 32 % 2 ≠ b / 32 % 2)) ((a % 32 : Nat) + (b % 32 : Nat) - 32 : Int)

/-- UE8M8Value (R240, R252). -/
def ue8m8Value (c : Nat) : Num :=
  let e := c / 256 % 256
  let m := c % 256
  if e = 0 then .fin false 0 1
  else if e = 255 then .nan
  else .dyadic false (256 + m) ((e : Int) - 127 - 8)

/-- An n-bit code as a signed integer. -/
def toSigned (n c : Nat) : Int := if c / 2 ^ (n - 1) % 2 = 1 then (c % 2 ^ n : Nat) - (2 ^ n : Nat) else (c % 2 ^ n : Nat)

/-- The integer that a code of an integer type holds (R236). -/
def intOf (ty : Ty) (c : Nat) : Int :=
  if ty.isSigned then toSigned (8 * ty.size) c else (c % 2 ^ (8 * ty.size) : Nat)

/-- The exact value of an element code (R234, R236, R237). -/
def valueOf (ty : Ty) (c : Nat) : Num :=
  match fmtOf ty with
  | some f => floatValue f c
  | none => if ty = .lns6 then lnsValue c else .ofInt (intOf ty c)

/-! ### Exact arithmetic (R288) -/

def Num.neg : Num → Num
  | .nan => .nan
  | .inf s => .inf (!s)
  | .fin s n d => .fin (!s) n d

def Num.abs : Num → Num
  | .nan => .nan
  | .inf _ => .inf false
  | .fin _ n d => .fin false n d

def Num.isNan : Num → Bool
  | .nan => true
  | _ => false

def Num.isFinite : Num → Bool
  | .fin .. => true
  | _ => false

/-- Sum. An exact zero sum of operands of opposite sign is −0 toward negative and +0 otherwise (R235). -/
def Num.add (down : Bool) : Num → Num → Num
  | .nan, _ => .nan
  | _, .nan => .nan
  | .inf s, .inf t => if s = t then .inf s else .nan
  | .inf s, _ => .inf s
  | _, .inf t => .inf t
  | .fin s n d, .fin t m e =>
    if s = t then .fin s (n * e + m * d) (d * e)
    else if m * d < n * e then .fin s (n * e - m * d) (d * e)
    else if n * e < m * d then .fin t (m * d - n * e) (d * e)
    else .fin down 0 1

/-- Product; 0 × ∞ is invalid. -/
def Num.mul : Num → Num → Num
  | .nan, _ => .nan
  | _, .nan => .nan
  | .inf s, .inf t => .inf (s != t)
  | .inf s, .fin t n _ => if n = 0 then .nan else .inf (s != t)
  | .fin s n _, .inf t => if n = 0 then .nan else .inf (s != t)
  | .fin s n d, .fin t m e => .fin (s != t) (n * m) (d * e)

/-- Quotient as IEEE 754 gives it. -/
def Num.div : Num → Num → Num
  | .nan, _ => .nan
  | _, .nan => .nan
  | .inf _, .inf _ => .nan
  | .inf s, .fin t _ _ => .inf (s != t)
  | .fin s _ _, .inf t => .fin (s != t) 0 1
  | .fin s n d, .fin t m e =>
    if m = 0 then (if n = 0 then .nan else .inf (s != t)) else .fin (s != t) (n * e) (d * m)

/-- Signed numerator of a finite value over its denominator. -/
def snum (s : Bool) (n : Nat) : Int := if s then -(n : Int) else n

/-- a < b by value, false when either is a NaN. -/
def Num.lt : Num → Num → Bool
  | .nan, _ => false
  | _, .nan => false
  | .inf s, .inf t => s && !t
  | .inf s, _ => s
  | _, .inf t => !t
  | .fin s n d, .fin t m e => decide (snum s n * e < snum t m * d)

/-- a = b by value, false when either is a NaN. -/
def Num.eqv : Num → Num → Bool
  | .nan, _ => false
  | _, .nan => false
  | .inf s, .inf t => s == t
  | .inf _, _ => false
  | _, .inf _ => false
  | .fin s n d, .fin t m e => decide (snum s n * e = snum t m * d)

/-- a ≤ b by value, false when either is a NaN. -/
def Num.le (a b : Num) : Bool := a.lt b || a.eqv b

/-- The sign of a value. -/
def Num.isNeg : Num → Bool
  | .nan => false
  | .inf s => s
  | .fin s _ _ => s

/-- a < b with −0 below +0 (R281, R290). -/
def Num.ltz (a b : Num) : Bool := a.lt b || (a.eqv b && a.isNeg && !b.isNeg)

/-! ### Rounding (R242, R243) -/

/-- Rounding modes of R242; stochastic carries its 16-bit draw. -/
inductive Mode
  | ne
  | rz
  | rd
  | sr (draw : Nat)
  deriving DecidableEq, Repr

def Mode.ofRnd : Rnd → Mode
  | .ne => .ne
  | .rz => .rz
  | .rd => .rd

def Mode.isDown : Mode → Bool
  | .rd => true
  | _ => false

/-- Whether a magnitude between quotient q and q + 1 goes up: rem / den is the fraction, and sticky says that the true
fraction is a little larger. -/
def roundUp (mode : Mode) (neg : Bool) (q rem den : Nat) (sticky : Bool) : Bool :=
  let inexact := decide (rem ≠ 0) || sticky
  match mode with
  | .ne => decide (den < 2 * rem) || (decide (2 * rem = den) && (sticky || decide (q % 2 = 1)))
  | .rz => false
  | .rd => neg && inexact
  | .sr d => decide (d < rem * 65536 / den)

/-- floor(log2(n / d)) for positive n and d. -/
def floorLog2 (n d : Nat) : Int :=
  let e : Int := (Nat.log2 n : Int) - Nat.log2 d
  if n * (pow2 (-e)).1 < d * (pow2 (-e)).2 then e - 1 else e

/-- The magnitude code of n / d in a format, extended without bound upwards, and whether it is inexact. -/
def roundMag (f : Fmt) (mode : Mode) (neg : Bool) (n d : Nat) (sticky : Bool) : Nat × Bool :=
  let e := max (floorLog2 n d) (1 - f.bias)
  let sc := pow2 ((f.fbits : Int) - e)
  let num := n * sc.1
  let den := d * sc.2
  let q := num / den
  let rem := num % den
  let q' := if roundUp mode neg q rem den sticky then q + 1 else q
  ((e + f.bias - 1).toNat * 2 ^ f.fbits + q', decide (rem ≠ 0) || sticky)

/-- The code of an overflow (R242, case 3). -/
def overflowCode (f : Fmt) (mode : Mode) (sat neg isInf : Bool) : Nat :=
  let s := if neg then f.signBit else 0
  let top := if f.hasInf then s + f.infCode else f.nanCode
  if sat then s + f.maxCode
  else match mode with
    | .ne | .sr _ => top
    | .rz => if isInf then top else s + f.maxCode
    | .rd => if isInf || neg then top else s + f.maxCode

/-- RoundTo for the binary formats: the code and the flags it raises (R242, R250). -/
def roundFloat (f : Fmt) (mode : Mode) (sat : Bool) (v : Num) (sticky : Bool) : Nat × Flags :=
  match v with
  | .nan => (f.nanCode, 0#7)
  | .inf s =>
    let c := overflowCode f mode sat s true
    (c, flagIf (!f.hasInf || sat) flagNX ||| flagIf sat flagSAT)
  | .fin s n d =>
    let sg := if s then f.signBit else 0
    if n = 0 && !sticky then (sg, 0#7)
    else
      let (m, inexact) := roundMag f mode s n d sticky
      if f.maxCode < m then
        (overflowCode f mode sat s false, roundFlags true false true sat)
      else (sg + m, roundFlags inexact (decide (m < 2 ^ f.fbits)) false false)

/-- Bit-by-bit integer square root, from the b-th result bit down. -/
def isqrtAux (n : Nat) : Nat → Nat → Nat
  | 0, r => r
  | b + 1, r =>
    let t := r + 2 ^ b
    isqrtAux n b (if t * t ≤ n then t else r)

/-- floor(√n). -/
def isqrt (n : Nat) : Nat := isqrtAux n (Nat.log2 n / 2 + 1) 0

/-- 2^(k/4) × 2^200, rounded down: the nominal LNS6 magnitudes for R239's stochastic rule. -/
def nominalLns (k : Int) : Nat :=
  let p := pow2 (k + 800)
  isqrt (isqrt p.1)

/-- The magnitude code of n / d in LNS6, extended without bound upwards, and whether it is that value (R239). The stochastic rule takes zero
and the codes from 1 as the magnitudes there are (R243), so a power of two below the least of them is drawn like any other value. -/
def lnsMag (mode : Mode) (neg : Bool) (n d : Nat) : Int × Bool :=
  let k8 := floorLog2 (n ^ 8) (d ^ 8)
  let p := pow2 k8
  let exact := decide (n ^ 8 * p.2 = d ^ 8 * p.1) && decide (k8 % 2 = 0)
  let fl := k8 / 2 + 16
  let m := match mode with
    | .ne => (k8 + 1) / 2 + 16
    | .rz => fl
    | .rd => if neg && !exact then fl + 1 else fl
    | .sr dr =>
      if exact && decide (1 ≤ fl) then fl
      else
        let lo : Int := if fl < 1 then 0 else fl
        let a := if lo = 0 then 0 else nominalLns (lo - 16)
        let b := nominalLns (if lo = 0 then 1 - 16 else lo + 1 - 16)
        let v := n * 2 ^ 200 / d
        if decide (dr < (v - a) * 65536 / (b - a)) then (if lo = 0 then 1 else lo + 1) else lo
  (m, exact && decide (m = fl))

/-- RoundTo for LNS6 (R239, R242). -/
def roundLns (mode : Mode) (sat : Bool) (v : Num) : Nat × Flags :=
  let ovf (s isInf : Bool) : Nat :=
    let top := (if s then 32 else 0) + 31
    if sat then top
    else match mode with
      | .ne | .sr _ => 0x20
      | .rz => if isInf then 0x20 else top
      | .rd => if isInf || s then 0x20 else top
  match v with
  | .nan => (0x20, 0#7)
  | .inf s => (ovf s true, flagNX ||| flagIf sat flagSAT)
  | .fin s n d =>
    if n = 0 then (0, 0#7)
    else
      let (m, exact) := lnsMag mode s n d
      if m < 1 then (0, roundFlags true true false false)
      else if 31 < m then (ovf s false, roundFlags true false true sat)
      else ((if s then 32 else 0) + m.toNat, roundFlags (!exact) false false false)

/-- The integer nearest to a value under a mode, and whether a fraction was discarded. -/
def roundInt (mode : Mode) (s : Bool) (n d : Nat) : Int × Bool :=
  let q := n / d
  let rem := n % d
  let q' := if roundUp mode s q rem d false then q + 1 else q
  (if s then -(q' : Int) else q', decide (rem ≠ 0))

/-- Least and greatest value of an integer type. -/
def intRange (ty : Ty) : Int × Int :=
  let w := 8 * ty.size
  if ty.isSigned then (-(2 ^ (w - 1) : Nat), (2 ^ (w - 1) : Nat) - 1) else (0, (2 ^ w : Nat) - 1)

/-- Wrap an integer to a type, or clamp it under SAT; only a clamp sets a flag (R236, R288). -/
def fitInt (ty : Ty) (sat : Bool) (i : Int) : Nat × Flags :=
  let (lo, hi) := intRange ty
  let w := 8 * ty.size
  if sat then
    if i < lo then ((lo % (2 ^ w : Nat)).toNat, flagSAT)
    else if hi < i then ((hi % (2 ^ w : Nat)).toNat, flagSAT)
    else ((i % (2 ^ w : Nat)).toNat, 0#7)
  else ((i % (2 ^ w : Nat)).toNat, 0#7)

/-- RoundTo for the integer types (R242, R249). -/
def roundToInt (ty : Ty) (mode : Mode) (sat : Bool) (v : Num) : Nat × Flags :=
  let (lo, hi) := intRange ty
  let w := 8 * ty.size
  match v with
  | .nan => (0, flagNV)
  | .inf s =>
    if sat then (((if s then lo else hi) % (2 ^ w : Nat)).toNat, flagNV ||| flagSAT) else (0, flagNV)
  | .fin s n d =>
    let (i, inexact) := roundInt mode s n d
    let (c, fl) := fitInt ty sat i
    (c, fl ||| flagIf inexact flagNX)

/-- RoundTo (R242, R252) into any element type but .b64, which takes no conversion and gives zero. -/
def roundTo (ty : Ty) (mode : Mode) (sat : Bool) (v : Num) : Nat × Flags :=
  match fmtOf ty with
  | some f => roundFloat f mode sat v false
  | none => if ty = .lns6 then roundLns mode sat v else roundToInt ty mode sat v

/-- DefaultNaN (R233, R252). -/
def defaultNan (ty : Ty) : Nat :=
  match fmtOf ty with
  | some f => f.nanCode
  | none => if ty = .lns6 then 0x20 else 0

/-- One conversion between element types (R249): a widening floating-point conversion passes an infinity whatever SAT
holds. -/
def convert (st dt : Ty) (mode : Mode) (sat : Bool) (c : Nat) : Nat × Flags :=
  match fmtOf st, fmtOf dt with
  | some f, some g =>
    let wide := decide (f.ebits + f.fbits < g.ebits + g.fbits)
    roundFloat g mode (sat && !wide) (floatValue f c) false
  | _, _ => roundTo dt mode sat (valueOf st c)

/-! ### FP32 helpers for the matrix array, the sequencer and the atomics: nearest even, no flags -/

def f32Value (c : Nat) : Num := floatValue .f32 c

/-- RoundNE into FP32 (R252). -/
def roundNE32 (v : Num) : Nat := (roundFloat .f32 .ne false v false).1

def f32Add (a b : Nat) : Nat := roundNE32 ((f32Value a).add false (f32Value b))
def f32Sub (a b : Nat) : Nat := roundNE32 ((f32Value a).add false (f32Value b).neg)
def f32Mul (a b : Nat) : Nat := roundNE32 ((f32Value a).mul (f32Value b))
def f32Div (a b : Nat) : Nat := roundNE32 ((f32Value a).div (f32Value b))

/-- One level of a pairwise sum. -/
def pairUp (op : Nat → Nat → Nat) : List Nat → List Nat
  | a :: b :: r => op a b :: pairUp op r
  | l => l

/-- Pairwise levels until one element is left; n levels suffice for 2^n elements (R187, R299). -/
def treeFold (op : Nat → Nat → Nat) : Nat → List Nat → Nat
  | 0, l => l.headD 0
  | n + 1, l => treeFold op n (pairUp op l)

/-- Tree32 and TreeN at RND 0: five levels of pairwise sums for 32 lanes (R187, R328). -/
def tree32 (l : List Nat) : Nat := treeFold f32Add 5 l

/-- Application of a UE8M8 scale to an exact element value (R241): the exact product that is then rounded once. -/
def applyScale (sc : Nat) (v : Num) : Num :=
  if sc / 256 % 256 = 0 then .fin false 0 1
  else if sc / 256 % 256 = 255 then .nan
  else v.mul (ue8m8Value sc)

/-- ATOM's fmax.f32 (R281): −0 below +0, a NaN gives the other, two NaNs the default NaN. -/
def f32Max (a b : Nat) : Nat :=
  match f32Value a, f32Value b with
  | .nan, .nan => 0x7FC00000
  | .nan, _ => b
  | _, .nan => a
  | x, y => if x.ltz y then b else a

end Sys2Proof.Machine
end

