-- ==== Sys2Proof/Machine/Translate.lean ====
section
/-!
DEFINITION. Address resolution (R11 to R20, R29 to R34), Sv57 walks (R35 to R40, R116, R117), TLBs (R114), page records
(R126) and the side logs' entries (R106, R122).
-/

namespace Sys2Proof.Machine

/-! ### Kinds of access -/

/-- Read permission is needed (R31, R39). -/
def akReads : AK → Bool
  | .load | .atomic | .copySrc | .scale | .waitRead | .sigAdd | .prefetch => true
  | .store | .copyDst | .sigWrite => false

/-- Write permission is needed (R31, R39). -/
def akWrites : AK → Bool
  | .store | .atomic | .copyDst | .sigWrite | .sigAdd => true
  | _ => false

/-- Bit of KINDS (R128). The table has six kinds; the wait read of a WAITA counts as a load, a signal's write as a copy's write
and a signal's addition as an atomic (DESIGN CHOICE, log entry 51). -/
def akBit : AK → Nat
  | .load | .waitRead | .prefetch => 0
  | .store => 1
  | .atomic | .sigAdd => 2
  | .copySrc => 3
  | .copyDst | .sigWrite => 4
  | .scale => 5

/-- The windows of the aperture (R14). -/
inductive Win | loc | scratch | active | shadow
  deriving DecidableEq, Repr

/-- The table of R19, without the near forms and SLD. -/
def winOk (k : AK) (w : Win) : Bool :=
  match w with
  | .loc => decide (k = .copySrc ∨ k = .copyDst ∨ k = .scale)
  | .scratch => true
  | .active => decide (k = .load ∨ k = .copySrc ∨ k = .scale)
  | .shadow => decide (k = .load ∨ k = .store ∨ k = .copySrc ∨ k = .copyDst ∨ k = .scale)

/-! ### The aperture (R13 to R20) -/

/-- Physical clusters that hold members, in logical order (R17). -/
def Crew.clusters (c : Crew) : List Nat := (List.range 16).filter (fun x => c.members.any (fun p => decide (clusterOf p = x)))

/-- What an access binds to at issue (R12, R18): its parts, and the weight-seam half it is bound to. -/
structure Bound where
  parts : List Part
  half : Option (Nat × Nat)
  deriving DecidableEq, Repr

/-- One part whose place is fixed. -/
def onePart (va : Word) (n : Nat) (c : ACls) : List Part := [⟨0, va, n, c, none, false⟩]

/-- A weight view of a cluster: owned by the crew, inside its 192 MiB (R14, R65). -/
def State.bindView (s : State) (crew : BitVec 16) (cl : Nat) (shadow : Bool) (va : Word) (off n : Nat) : Option Bound :=
  let c := s.cluster cl
  if c.owner ≠ crew ∨ 0xC000000 < off + n then none
  else
    let h := b2n (c.act != shadow)
    some ⟨onePart va n (.phys (halfBase cl h + off)), some (cl, h)⟩

/-- The start of the aperture. -/
def apBase : Nat := 0x00FF000000000000

/-- Resolution of an extent that starts at offset o of the aperture (R14 to R20). -/
def State.bindAp (s : State) (k : Nat) (c : Crew) (ak : AK) (va : Word) (n : Nat) : Option Bound :=
  let o := va.toNat - apBase
  if o < 0xC0000 then
    if o + n ≤ 0xC0000 ∧ winOk ak .loc then some ⟨onePart va n .loc, none⟩ else none
  else if 0x100000000 ≤ o ∧ o < 0x110000000 then
    let x := (o - 0x100000000) / 0x100000
    let b := o % 0x100000
    if x ≤ c.size ∧ b + n ≤ 0xC0000 ∧ winOk ak .scratch then
      some ⟨onePart va n (.phys (spadBase (c.phys x) + b)), none⟩
    else none
  else if 0x200000000 ≤ o ∧ o < 0x20C000000 then
    if winOk ak .active then s.bindView c.id (clusterOf k) false va (o - 0x200000000) n else none
  else if 0x210000000 ≤ o ∧ o < 0x21C000000 then
    if winOk ak .shadow then s.bindView c.id (clusterOf k) true va (o - 0x210000000) n else none
  else if 0x300000000 ≤ o ∧ o < 0x500000000 then
    let x := (o - 0x300000000) / 0x20000000
    let sh := decide (o / 0x10000000 % 2 = 1)
    match c.clusters[x]? with
    | some cl => if winOk ak (if sh then .shadow else .active) then s.bindView c.id cl sh va (o % 0x10000000) n else none
    | none => none
  else none

/-! ### The heap window (R29 to R33) -/

/-- The heap window is active and holds an address. -/
def inHeap (x : Xlat) (a : Nat) : Bool := wb x.hctl 0 && decide (x.hb.toNat ≤ a) && decide (a < x.hb.toNat + x.hl.toNat)

/-- The next edge of the heap window above an address, or the end of an extent. -/
def heapEdge (x : Xlat) (a stop : Nat) : Nat :=
  if !wb x.hctl 0 then stop
  else if a < x.hb.toNat then min stop x.hb.toNat
  else if a < x.hb.toNat + x.hl.toNat then min stop (x.hb.toNat + x.hl.toNat)
  else stop

/-- An extent outside the aperture, split at the edges of the heap window (R33); at most three parts. -/
def splitHeap (x : Xlat) (va : Word) (n : Nat) : Nat → Nat → List Part
  | 0, _ => []
  | f + 1, o =>
    if n ≤ o then []
    else
      let a := va.toNat + o
      let e := heapEdge x a (va.toNat + n)
      let c : ACls := if inHeap x a then .phys ((a + x.ho.toNat) % 2 ^ 64) else .paged
      ⟨o, va + BitVec.ofNat 64 o, e - a, c, none, false⟩ :: splitHeap x va n f (o + (e - a))

/-- The window permits the kind (R31). -/
def heapOk (x : Xlat) (k : AK) : Bool := (!akReads k || wb x.hctl 1) && (!akWrites k || wb x.hctl 2)

/-- Resolution of an extent at issue (R11, R12, R19, R20, R31, R33): none is an address trap. -/
def State.bindX (s : State) (k : Nat) (crew : BitVec 16) (x : Xlat) (ak : AK) (va : Word) (n : Nat) : Option Bound :=
  let a := va.toNat
  if 2 ^ 56 < a + n then none
  else if apBase ≤ a then
    match s.crew? crew with
    | some c => s.bindAp k c ak va n
    | none => none
  else if apBase < a + n then none
  else
    let ps := splitHeap x va n 4 0
    if ps.any (fun p => decide (p.cls ≠ .paged)) && !heapOk x ak then none else some ⟨ps, none⟩

/-- Resolution for the context in issue. -/
def State.bind (s : State) (ak : AK) (va : Word) (n : Nat) : Option Bound :=
  s.bindX s.issue.k s.ic.crew s.ic.xl ak va n

/-- The hold of an access bound to a half: while the clear runs, while the core's arrival flag is set, and for a store while
stream reads of the half are undelivered (R65, R67, R68). -/
def State.halfWait (s : State) (k : Nat) (h : Option (Nat × Nat)) (store : Bool) : Option Wait :=
  match h with
  | none => none
  | some (cl, i) =>
    let c := s.cluster cl
    if c.clr || (s.core k).swapArr then some .swap
    else if store && decide (0 < (if i = 0 then c.reads0 else c.reads1)) then some .swap
    else none

/-! ### Page-table walks (R35 to R40, R116, R117) -/

/-- ASID of a TLB_ROOT value. -/
def rootAsid (r : Word) : BitVec 16 := BitVec.ofNat 16 (bf r 59 44)

/-- Root table of a TLB_ROOT value. -/
def rootPa (r : Word) : Nat := bf r 39 0 * 4096

/-- The leaf of a walk with the address of its entry and log2 of its page's size, or a cause of R117 with log2 of the size
of the page that faults: a leaf's own, else 4 KiB. -/
inductive WalkEnd
  | leaf (pte : Word) (ea : Nat) (bits : Nat)
  | fault (cause : Nat) (bits : Nat)
  deriving DecidableEq, Repr

/-- A leaf's page: log2 of its size where level, N and the low PPN bits agree with the table of R38. -/
def leafBits (l : Nat) (e : Word) : Option Nat :=
  let ppn := bf e 49 10
  let n := wb e 63
  match l with
  | 0 => if n then (if ppn % 16 = 8 then some 16 else none) else some 12
  | 1 => if n then none else if ppn % 2 ^ 9 = 0 then some 21 else none
  | 2 => if n then (if ppn % 2 ^ 21 = 2 ^ 20 then some 33 else none) else if ppn % 2 ^ 18 = 0 then some 30 else none
  | _ => none

/-- First byte of a leaf's page. -/
def leafBase (e : Word) (bits : Nat) : Nat := bf e 49 10 * 4096 / 2 ^ bits * 2 ^ bits

/-- Place of an address under a leaf. -/
def leafPa (e : Word) (bits va : Nat) : Nat := leafBase e bits + va % 2 ^ bits

/-- Checks 6 to 12 of a leaf, in the order of R40; held says that the bypass ranges of reduced service are held (R396). -/
def leafCheck (held : Bool) (va : Nat) (l : Nat) (e : Word) (ea : Nat) (k : AK) : WalkEnd :=
  match leafBits l e with
  | none => .fault 3 12
  | some bits =>
    let base := leafBase e bits
    let m := bf e 62 61
    let slots := inSlots base (2 ^ bits)
    if wb e 2 && !wb e 1 then .fault 3 bits
    else if m = 1 ∨ m = 2 then .fault 4 bits
    else if (m = 3 && !(decide (bits = 16) && slots)) || (slots && decide (m ≠ 3)) then .fault 3 bits
    else if !inHbm base (2 ^ bits) && !slots then .fault 5 bits
    else if held && inHeld (leafPa e bits va) 1 then .fault 5 bits
    else if !wb e 4 then .fault 2 bits
    else if (akReads k && !wb e 1) || (akWrites k && !wb e 2) then .fault 2 bits
    else .leaf e ea bits

/-- A walk from a table of level l: its end, the entries it read from memory, and the pointers it passed with their
levels (R40). A table in a held bypass range is outside the physical map in reduced service (R396). rd gives an entry: none where it holds an uncorrectable error; the flag says that the walk cache gave it. -/
def walkLevels (held : Bool) (rd : Nat → Nat → Option (Word × Bool)) (va : Nat) (k : AK) :
    Nat → Nat → WalkEnd × List Nat × List (Nat × Word)
  | 0, _ => (.fault 3 12, [], [])
  | l + 1, tab =>
    let ea := tab + 8 * (va / 2 ^ (12 + 9 * l) % 512)
    if held && inHeld ea 8 then (.fault 5 12, [], []) else
    match rd l ea with
    | none => (.fault 7 12, [ea], [])
    | some (e, hit) =>
      let here := if hit then [] else [ea]
      if !wb e 0 then (.fault 1 12, here, [])
      else if bf e 60 54 ≠ 0 then (.fault 3 12, here, [])
      else if bf e 53 50 ≠ 0 then (.fault 5 12, here, [])
      else if bf e 3 1 = 0 then
        if l = 0 ∨ wb e 63 ∨ wb e 7 ∨ wb e 6 ∨ wb e 4 ∨ bf e 62 61 ≠ 0 then (.fault 3 12, here, [])
        else if !inHbm (bf e 49 10 * 4096) 4096 then (.fault 5 12, here, [])
        else
          let (w, rs, ps) := walkLevels held rd va k l (bf e 49 10 * 4096)
          (w, here ++ rs, (l, e) :: ps)
      else (leafCheck held va l e ea k, here, [])

/-- Entry of a die's walk cache for a level and an address (R114). -/
def walkEnt (d : Die) (asid : BitVec 16) (va l : Nat) : Option TlbEnt :=
  (d.walkc.find? (fun x => decide (x.1 = l) && decide (x.2.asid = asid) &&
    decide (x.2.va = va / 2 ^ (12 + 9 * l)))).map (·.2)

/-- The word of a walk-cache entry in the array of TLBs and walk caches: the model's place (log entry 21). -/
def walkLoc (d : Nat) (e : TlbEnt) : Nat × Nat × Nat := (d, 11, coreLoc (d * 128) (8 * (8192 + e.place)))

/-- The pointer that a die's walk cache gives: an entry with an uncorrectable error gives none (R80). -/
def State.walkCached (s : State) (d : Nat) (asid : BitVec 16) (va l : Nat) : Option Word :=
  match walkEnt (s.die d) asid va l with
  | some e => if s.ueAt [walkLoc d e] then none else some e.pte
  | none => none

/-- The walk of an address under a TLB_ROOT value, by the walker of a die. -/
def State.walk (s : State) (d : Nat) (root : Word) (va : Nat) (k : AK) : WalkEnd × List Nat × List (Nat × Word) :=
  if !inHbm (rootPa root) 4096 then (.fault 5 12, [], [])
  else
    let rd (l ea : Nat) : Option (Word × Bool) :=
      match s.walkCached d (rootAsid root) va l with
      | some e => some (e, true)
      | none => if s.ueAt (memLocs ea 8) then none else some (s.read64 ea, false)
    walkLevels s.head.held rd va k 5 (rootPa root)

/-! ### TLBs (R114) -/

/-- TLB of a unit: 0 the L slot, 1 to 4 the queues ce0 to ce3, 5 the scale path. -/
def Tlbs.unit (t : Tlbs) (u : Nat) : List TlbEnt :=
  match u with
  | 0 => t.l | 1 => t.c0 | 2 => t.c1 | 3 => t.c2 | 4 => t.c3 | _ => t.sc

/-- The set of an entry among a number of sets: the low bits of its page's number (DESIGN CHOICE, log entry 10). -/
def TlbEnt.set (sets : Nat) (e : TlbEnt) : Nat := e.va / 2 ^ e.bits % sets

/-- Two entries are of one page under one ASID. -/
def TlbEnt.same (x e : TlbEnt) : Bool := decide (x.asid = e.asid) && decide (x.va = e.va) && decide (x.bits = e.bits)

/-- Put an entry in front of a TLB of some sets and ways (R114), in a free way of its set; a full set loses its oldest
entry (log entry 10). -/
def tlbPut (sets ways : Nat) (e : TlbEnt) (l : List TlbEnt) : List TlbEnt :=
  let rest := l.filter (fun x => !x.same e)
  let mine := (rest.filter (fun x => decide (x.set sets = e.set sets))).take (ways - 1)
  { e with place := e.set sets * ways + freeWay ways (mine.map (fun x => x.place % ways)) } ::
    rest.filter (fun x => decide (x.set sets ≠ e.set sets) || mine.contains x)

/-- The TLBs of a core with a translation in a unit's and in the core's: 32, 16 and 8 entries fully associative, 1,024 in 128
sets of 8 ways (R114). -/
def Tlbs.put (t : Tlbs) (u : Nat) (e : TlbEnt) : Tlbs :=
  let t := { t with core := tlbPut 128 8 e t.core }
  match u with
  | 0 => { t with l := tlbPut 1 32 e t.l }
  | 1 => { t with c0 := tlbPut 1 16 e t.c0 }
  | 2 => { t with c1 := tlbPut 1 16 e t.c1 }
  | 3 => { t with c2 := tlbPut 1 16 e t.c2 }
  | 4 => { t with c3 := tlbPut 1 16 e t.c3 }
  | _ => { t with sc := tlbPut 1 8 e t.sc }

/-- The word of an entry in the array of TLBs and walk caches: a core's units first, then its core TLB; a cluster's TLB with its
first core (the model's places, log entry 21). -/
def unitLoc (k u : Nat) (e : TlbEnt) : Nat × Nat × Nat :=
  (dieOf k, 11, coreLoc k (8 * ((match u with | 0 => 0 | 1 => 32 | 2 => 48 | 3 => 64 | 4 => 80 | _ => 96) + e.place)))
def coreTlbLoc (k : Nat) (e : TlbEnt) : Nat × Nat × Nat := (dieOf k, 11, coreLoc k (8 * (128 + e.place)))
def clusterTlbLoc (k : Nat) (e : TlbEnt) : Nat × Nat × Nat := (dieOf k, 11, coreLoc (k / 16 * 16) (8 * (2048 + e.place)))

/-- An entry serves a lookup: its page holds the address, its ASID matches or it is global, and it permits the kind;
a write needs D = 1 (R114, R116). -/
def TlbEnt.serves (e : TlbEnt) (asid : BitVec 16) (va : Nat) (k : AK) : Bool :=
  decide (e.va / 2 ^ e.bits = va / 2 ^ e.bits) && (wb e.pte 5 || decide (e.asid = asid)) &&
    (!akReads k || wb e.pte 1) && (!akWrites k || (wb e.pte 2 && wb e.pte 7))

/-- The levels of a lookup: the unit's, the core's and the cluster's TLB, each with the places of its entries. -/
def State.tlbLevels (s : State) (k u : Nat) : List (List TlbEnt × (TlbEnt → Nat × Nat × Nat)) :=
  let t := (s.core k).tlbs
  [(t.unit u, unitLoc k u), (t.core, coreTlbLoc k), ((s.cluster (clusterOf k)).tlb, clusterTlbLoc k)]

/-- An entry covers an address under an ASID. -/
def TlbEnt.covers (e : TlbEnt) (asid : BitVec 16) (va : Nat) : Bool :=
  decide (e.va / 2 ^ e.bits = va / 2 ^ e.bits) && (wb e.pte 5 || decide (e.asid = asid))

/-- A write that finds the entry discards it and walks again: D = 0 (R116). -/
def TlbEnt.clean (e : TlbEnt) (asid : BitVec 16) (va : Nat) (ak : AK) : Bool := e.covers asid va && akWrites ak && !wb e.pte 7

/-- Lookup in the unit's, the core's and the cluster's TLB, with the word read; an entry with an uncorrectable error serves
nothing (R80), and a write that comes upon an entry with D = 0 on its way finds none behind it (R116). -/
def State.tlbHit (s : State) (k u : Nat) (root : Word) (va : Nat) (ak : AK) : Option (TlbEnt × (Nat × Nat × Nat)) :=
  let asid := rootAsid root
  (firstSome (fun (x : List TlbEnt × (TlbEnt → Nat × Nat × Nat)) =>
    (x.1.find? (fun e => (e.clean asid va ak || (e.serves asid va ak && !(s.head.held && inHeld (leafPa e.pte e.bits va) 1))) &&
      !s.ueAt [x.2 e])).map (fun e => (e, x.2 e))) (s.tlbLevels k u)).filter (fun x => !x.1.clean asid va ak)

/-- The entry that translates an address for a kind of access. -/
def State.tlbFind (s : State) (k u : Nat) (root : Word) (va : Nat) (ak : AK) : Option TlbEnt := (s.tlbHit k u root va ak).map (·.1)

/-- Physical address that a cached leaf gives. -/
def TlbEnt.pa (e : TlbEnt) (va : Nat) : Nat := leafPa e.pte e.bits va

/-- Bytes from an address to the end of the page that an entry covers. -/
def TlbEnt.room (e : TlbEnt) (va : Nat) : Nat := 2 ^ e.bits - va % 2 ^ e.bits

/-- The pieces of a paged extent that the TLBs translate: physical address and length; none where one misses. Fuel bounds
the pages. -/
def State.tlbPieces (s : State) (k u : Nat) (root : Word) (ak : AK) : Nat → Nat → Nat → Option (List (Nat × Nat))
  | 0, _, _ => none
  | f + 1, va, n =>
    if n = 0 then some []
    else
      match s.tlbFind k u root va ak with
      | none => none
      | some e =>
        let m := min n (e.room va)
        (s.tlbPieces k u root ak f (va + m) (n - m)).map (fun l => (e.pa va, m) :: l)

/-- A place that the heap window gives lies in a held bypass range (R396). -/
def State.heldAt (s : State) (a n : Nat) : Bool := s.head.held && inHeld a n

/-- Where a part lies: its physical pieces; none where it is paged and not translated yet, or lies in a held range. -/
def State.pieces (s : State) (k u : Nat) (root : Word) (ak : AK) (p : Part) : Option (List (Nat × Nat)) :=
  match p.cls with
  | .loc => some [(spadBase k + p.va.toNat % 0x100000, p.len)]
  | .phys a => if s.heldAt a p.len then none else some [(a, p.len)]
  | .paged => s.tlbPieces k u root ak 4 p.va.toNat p.len

/-! ### Page records (R126) -/

/-- The fault of a faulting byte, with no record yet. -/
def fltKey (va : Nat) (cause : Nat) : FltKey := { vpn := BitVec.ofNat 45 (va / 4096), cause := BitVec.ofNat 4 cause }

/-- Two faults are of one page and cause. -/
def FltKey.same (x y : FltKey) : Bool := decide (x.vpn = y.vpn) && decide (x.cause = y.cause)

/-- A fault may join the record: open, or delivered and not acknowledged; one that is closed and not yet delivered takes no more
(R126, R127). -/
def PageRec.joins (x : PageRec) (asid : BitVec 16) (key : FltKey) : Bool :=
  decide (x.asid = asid) && decide (x.vpn = key.vpn) && decide (x.cause = key.cause) && (!x.closed || x.seq.isSome)

/-- Open a page record on a die, or join the one of the same key: the fault with its record's number. None where the buffer is full. -/
def State.openRec (s : State) (d : Nat) (asid : BitVec 16) (key : FltKey) (ak : AK) (crew : BitVec 16)
    (lcore : Nat) : Option (FltKey × State) :=
  let f := (s.die d).flt
  let kb : BitVec 8 := BitVec.ofNat 8 (2 ^ akBit ak)
  match f.recs.find? (·.joins asid key) with
  | some r =>
    some ({ key with num := r.num }, s.modFlt d (fun x => { x with recs := x.recs.map (fun q =>
      if q.num = r.num ∧ q.joins asid key then { q with kinds := q.kinds ||| kb, count := q.count + 1 } else q) }))
  | none =>
    if 512 ≤ f.recs.length then none
    else
      some ({ key with num := s.nextId }, { (s.modFlt d (fun x => { x with
        recs := x.recs ++ [{ asid := asid, vpn := key.vpn, cause := key.cause, kinds := kb, count := 1, crew := crew, lcore := lcore
                             opened := s.time, closed := false, seq := none, slot := 0, num := s.nextId }],
        recsCnt := x.recsCnt + 1 })) with nextId := s.nextId + 1 })

/-! ### A walk with its effects (R116) -/

/-- Install a leaf in the unit's, the core's and the cluster's TLB: 4,096 entries in 256 sets of 16 ways (R114). -/
def State.install (s : State) (k u : Nat) (e : TlbEnt) : State :=
  let t := (s.modCore k (fun c => { c with tlbs := c.tlbs.put u e })).modCluster (clusterOf k)
    (fun c => { c with tlb := tlbPut 256 16 e c.tlb })
  t.clearUpsets ((t.tlbLevels k u).filterMap (fun x => x.1.head?.map x.2))

/-- Remove entries of the TLBs that serve unit u of core k. -/
def State.tlbDrop (s : State) (k u : Nat) (bad : TlbEnt → (Nat × Nat × Nat) → Bool) : State :=
  let f (loc : TlbEnt → Nat × Nat × Nat) (l : List TlbEnt) : List TlbEnt := l.filter (fun e => !bad e (loc e))
  (s.modCore k (fun c =>
    let t := c.tlbs
    let t := { t with core := f (coreTlbLoc k) t.core }
    { c with tlbs := (match u with
      | 0 => { t with l := f (unitLoc k u) t.l } | 1 => { t with c0 := f (unitLoc k u) t.c0 }
      | 2 => { t with c1 := f (unitLoc k u) t.c1 } | 3 => { t with c2 := f (unitLoc k u) t.c2 }
      | 4 => { t with c3 := f (unitLoc k u) t.c3 } | _ => { t with sc := f (unitLoc k u) t.sc }) })).modCluster (clusterOf k)
    (fun c => { c with tlb := f (clusterTlbLoc k) c.tlb })

/-- Before a walk, what cannot serve is discarded: an entry with D = 0 that a write finds (R116), and an entry with an
uncorrectable error, which is logged and walked for again (R80, log entry 21). -/
def State.tlbPurge (s : State) (k u : Nat) (root : Word) (va : Nat) (ak : AK) : State :=
  let covers (e : TlbEnt) : Bool := e.covers (rootAsid root) va
  let ls := if s.upsets = [] then [] else
    (s.tlbLevels k u).flatMap (fun x => (x.1.filter covers).map x.2) |>.filter (fun l => s.ueAt [l])
  let t := s.tlbDrop k u (fun e l => covers e && ((akWrites ak && !wb e.pte 7) || ls.contains l))
  if ls = [] then t else { t.meetUpsets ls none with upsets := t.upsets.filter (fun x => !ls.contains (x.die, x.array, x.loc)) }

/-- The words that a lookup of some bytes reads in the TLBs are met: a single error is corrected and logged (R81). Fuel bounds the
pages. -/
def State.tlbMeet (s : State) (k u : Nat) (root : Word) (ak : AK) (w : Origin) : Nat → Nat → Nat → State
  | 0, _, _ => s
  | f + 1, va, n =>
    if n = 0 ∨ s.upsets = [] then s
    else
      match s.tlbHit k u root va ak with
      | none => s
      | some (e, l) =>
        let m := min n (2 ^ e.bits - va % 2 ^ e.bits)
        (s.meetUpsets [l] (some w)).tlbMeet k u root ak w f (va + m) (n - m)

/-- The leaf's accessed and dirty bits for an access (R116). -/
def wantBits (e : Word) (ak : AK) : Word := e ||| 0x40#64 ||| (if akWrites ak then 0x80#64 else 0#64)

/-- Outcome of a walk for a unit. -/
inductive Walked
  | mapped
  | fault (cause : Nat) (bits : Nat)
  | dropped
  deriving DecidableEq, Repr

/-- Put a pointer entry of a level in front of a walk cache of 64 sets of 16 ways (R114): as tlbPut. -/
def walkPut (l : List (Nat × TlbEnt)) (lv : Nat) (e : TlbEnt) : List (Nat × TlbEnt) :=
  let set (x : Nat × TlbEnt) : Nat := x.2.va % 64
  let rest := l.filter (fun y => !(decide (y.1 = lv) && decide (y.2.asid = e.asid) && decide (y.2.va = e.va)))
  let mine := (rest.filter (fun y => decide (set y = e.va % 64))).take 15
  (lv, { e with place := e.va % 64 * 16 + freeWay 16 (mine.map (fun y => y.2.place % 16)) }) ::
    rest.filter (fun y => decide (set y ≠ e.va % 64) || mine.contains y)

/-- The pointers of a walk enter the walk cache (R114). -/
def State.cachePtrs (s : State) (d : Nat) (asid : BitVec 16) (va : Nat) (ps : List (Nat × Word)) : State :=
  ps.foldl (fun t p =>
    let u := t.modDie d (fun x => { x with walkc := walkPut x.walkc p.1 { asid := asid, va := va / 2 ^ (12 + 9 * p.1), bits := 12 + 9 * p.1, pte := p.2 } })
    u.clearUpsets (((u.die d).walkc.head?.map (fun y => walkLoc d y.2)).toList)) s

/-- The walk cache is read by a walk: a single error is corrected and logged, an entry with an uncorrectable one is dropped
(R80, R81, log entry 21). -/
def State.walkMeet (s : State) (d : Nat) (asid : BitVec 16) (va : Nat) : State :=
  if s.upsets = [] then s
  else [1, 2, 3, 4].foldl (fun t l =>
    match walkEnt (t.die d) asid va l with
    | none => t
    | some e =>
      let bad := t.ueAt [walkLoc d e]
      let u := t.meetUpsets [walkLoc d e] none
      if !bad then u
      else { u with upsets := u.upsets.filter (fun x => decide ((x.die, x.array, x.loc) ≠ walkLoc d e)) }.modDie d (fun x => { x with
        walkc := x.walkc.filter (fun y => !(decide (y.1 = l) && decide (y.2 = e))) })) s

/-- Walk for an access of unit u on core k: the leaf's bits are set at its home copy, the leaf and the pointers are installed; a
prefetch that meets A = 0 or any fault is dropped (R39, R116). A walk that ends in a fault installs nothing (R117). -/
def State.pageWalk (s : State) (k u : Nat) (root : Word) (va : Nat) (ak : AK) : State × Walked :=
  let d := dieOf k
  let s0 := (s.tlbPurge k u root va ak).walkMeet d (rootAsid root) va
  let (w, rs, ps) := s0.walk d root va ak
  let s1 := s0.meetUpsets (rs.flatMap (fun a => memLocs a 8)) none
  match w with
  | .fault c b => (s1, if ak = .prefetch then .dropped else .fault c b)
  | .leaf e ea bits =>
    let s2 := s1.cachePtrs d (rootAsid root) va ps
    if ak = .prefetch then
      if wb e 6 then (s2.install k u { asid := rootAsid root, va := va / 2 ^ bits * 2 ^ bits, bits := bits, pte := e }, .mapped)
      else (s2, .dropped)
    else
      let x := wantBits e ak
      let s3 := if x = e then s2 else s2.write64 ea x
      (s3.install k u { asid := rootAsid root, va := va / 2 ^ bits * 2 ^ bits, bits := bits, pte := x }, .mapped)

/-! ### The walk queue (R115) -/

/-- The request of a walk: ASID and page. -/
def walkKey (root : Word) (va : Nat) : BitVec 16 × Nat := (rootAsid root, va / 4096)

/-- A request is of a page under an ASID. -/
def WalkReq.of (x : WalkReq) (key : BitVec 16 × Nat) : Bool := decide (x.asid = key.1) && decide (x.page = key.2)

/-- Position of a request at a die's walker, in order of arrival; a new one would stand at the end. -/
def State.walkPos (s : State) (d : Nat) (key : BitVec 16 × Nat) : Nat := ((s.die d).walks.takeWhile (fun x => !x.of key)).length

/-- The request runs, or may run at once: the walker runs 256 walks. -/
def State.walkRuns (s : State) (d : Nat) (key : BitVec 16 × Nat) : Bool := decide (s.walkPos d key < 256)

/-- The request finds the walker and its queue of 1,024 full, and no walk in flight to join. -/
def State.walkFull (s : State) (d : Nat) (key : BitVec 16 × Nat) : Bool :=
  decide (1280 ≤ (s.die d).walks.length) && !(s.die d).walks.any (·.of key)

/-- A request arrives: it joins a walk of its page in flight, or the end of the queue. -/
def State.askWalk (s : State) (d : Nat) (key : BitVec 16 × Nat) (agent : WalkFor) : State :=
  if (s.die d).walks.any (·.of key) then
    if agent = .far then s
    else s.modDie d (fun x => { x with walks := x.walks.map (fun y =>
      if y.of key && !(y.agent :: y.also).contains agent then { y with also := y.also ++ [agent] } else y) })
  else if s.walkFull d key then s
  else s.modDie d (fun x => { x with walks := x.walks ++ [⟨key.1, key.2, agent, []⟩] })

/-- A walk ends. -/
def State.endWalk (s : State) (d : Nat) (key : BitVec 16 × Nat) : State :=
  s.modDie d (fun x => { x with walks := x.walks.filter (fun y => !y.of key) })

/-! ### Side logs (R106, R122) -/

/-- Two extents share a byte. -/
def overlap (a n b m : Nat) : Bool := decide (a < b + m) && decide (b < a + n) && decide (0 < n) && decide (0 < m)

/-- Every side-log entry of a core. -/
def Engines.logs (e : Engines) : List LogEnt := e.logL ++ e.log0 ++ e.log1 ++ e.log2 ++ e.log3

/-- A pending entry of some log overlaps an extent of virtual addresses under an ASID. -/
def logHits (l : List LogEnt) (root : Word) (va n : Nat) : Bool :=
  l.any (fun e => decide (rootAsid e.root = rootAsid root) && overlap e.va.toNat e.len va n)

/-- Capacity of a side log (R122). -/
def logCap (u : Nat) : Nat := if u = 0 then 64 else 256

/-! ### Loading the heap window (R29, R30) -/

/-- The checks of R30 on a combination of window registers. -/
def Xlat.windowOk (x : Xlat) : Bool :=
  decide (0x10000 ≤ x.hl.toNat) && decide (x.hb.toNat + x.hl.toNat ≤ apBase) &&
    inHbm ((x.hb.toNat + x.ho.toNat) % 2 ^ 64) x.hl.toNat

/-- EN stays only where the combination passes; a refusal sets BAD (R30). -/
def Xlat.checked (x : Xlat) : Xlat :=
  if wb x.hctl 0 && !x.windowOk then { x with hctl := (x.hctl &&& 6#64) ||| 8#64 } else x

/-- TLB_ROOT as it reads: MODE is fixed, reserved bits are zero (R35). -/
def rootReg (v : Word) : Word := (v &&& 0x0FFFF0FFFFFFFFFF#64) ||| 0xA000000000000000#64

/-- The translation registers that a launch record loads (R29, R35). -/
def Crew.xlat (c : Crew) : Xlat :=
  Xlat.checked
    { hb := lrw c.lr 6 &&& 0x00FFFFFFFFFF0000#64, hl := lrw c.lr 7 &&& 0x0000FFFFFFFF0000#64
      ho := lrw c.lr 8 &&& 0xFFFFFFFFFFFF0000#64, hctl := lrw c.lr 9 &&& 7#64, root := rootReg (lrw c.lr 5) }

/-- A crew with the translation words of its launch record as memory holds them now: a placement and a pickup read them again, so that
a write to the record takes effect there (R29, R32, R35). A word with an uncorrectable error keeps what was read before. -/
def State.recordNow (s : State) (w : Crew) : Crew :=
  match w.lrAt with
  | none => w
  | some a => { w with lr := (List.range w.lr.length).map (fun i =>
      if 5 ≤ i ∧ i ≤ 9 ∧ !s.ueAt (memLocs (a + 8 * i) 8) then s.read64 (a + 8 * i) else lrw w.lr i) }

end Sys2Proof.Machine
end

