-- ==== Sys2Proof/Machine/Far.lean ====
section
/-!
DEFINITION. Far accesses after their issue (R59 to R61, R90, R97 to R99, R106, R119, R121): the order they wait for, their
performance at the home copy, their faults; publishes, refreshes and barriers (R91 to R96); and conditions for contexts wherever
they are (R406).
-/

namespace Sys2Proof.Machine

/-! ### Conditions for a context, wherever it is (R168, R406) -/

/-- Where a resident context stands: core and slot, by its serial number. -/
def State.findCtx (s : State) (crew : BitVec 16) (uid : Nat) : Option (Nat × Nat) :=
  match s.crew? crew with
  | none => none
  | some w =>
    firstSome (fun p => firstSome (fun r =>
      let c := s.ctx p r
      if c.mode ≠ .empty ∧ c.uid = uid then some (p, r) else none) [0, 1]) w.members

/-- Image id of a crew. -/
def Crew.image (w : Crew) : BitVec 32 := BitVec.ofNat 32 (bf (lrw w.lr 0) 63 32)

/-- The record that R406 writes for a halted context. -/
def haltedRec (s : State) (w : Crew) (e : Ended) (k : Nat) (c : Cond) : TrapRec :=
  { cause := c.cause, slots := 0, lcore := e.lcore, rslot := e.r, async := true, halted := true, image := w.image,
    pc := e.pc, tick := e.tick, time := s.time, addr := c.addr, info := c.info, seq := 0
    resume := some ⟨k, e.r, e.uid, w.id, e.lcore, e.pc⟩ }

/-- Change the saved context of a serial number. -/
def Saved.post (uid : Nat) (c : Cond) (v : Saved) : Saved :=
  let f (x : Ctx) : Ctx := if x.mode ≠ .empty ∧ x.uid = uid then { x with conds := x.conds ++ [c] } else x
  { v with core := { v.core with c0 := f v.core.c0, c1 := f v.core.c1 } }

/-- A saved member holds a context. -/
def Saved.has (uid : Nat) (v : Saved) : Bool :=
  [v.core.c0, v.core.c1].any (fun x => decide (x.mode ≠ .empty) && decide (x.uid = uid))

/-- postFor posts a condition for the context that issued something: it waits for the next boundary of a resident context, is kept
with a suspended context's record or in a save block, and is recorded at once for a halted context (R406). -/
def State.postFor (s : State) (o : Origin) (c : Cond) : State :=
  match s.findCtx o.crew o.uid with
  | some (k, r) => s.postCond k r c
  | none =>
    match s.crew? o.crew with
    | none => s
    | some w =>
      if w.saved.any (·.has o.uid) then
        s.modCrew o.crew (fun x => { x with saved := x.saved.map (·.post o.uid c) })
      else
        match w.uids.find? (fun e => decide (e.2 = o.uid)), w.ended.find? (fun e => decide (e.uid = o.uid)) with
        | some (q, _), _ => s.modCrew o.crew (fun x => { x with kept := x.kept ++ [(q, c)] })
        | none, some e => s.postTrap o.crew (haltedRec s w e o.k c)
        | none, none => s

/-! ### Far accesses -/

/-- The access kind of a far access. -/
def farAk (f : FarKind) : AK :=
  match f with
  | .load => .load | .scale _ => .scale | .store => .store | .atom _ _ _ => .atomic | .prefetch => .prefetch
  | .waitRead => .waitRead

/-- The TLB that serves it. -/
def farUnit (f : FarKind) : Nat :=
  match f with
  | .scale _ => 5
  | _ => 0

/-- It writes. -/
def farWrites (f : FarKind) : Bool :=
  match f with
  | .store | .atom _ _ _ => true
  | _ => false

/-- It is a read in the sense of R93: a refresh comes after it. -/
def farReads (f : FarKind) : Bool :=
  match f with
  | .load | .scale _ | .waitRead => true
  | .atom _ _ res => res
  | .store | .prefetch => false

def State.far? (s : State) (k id : Nat) : Option FarAcc := (s.core k).far.find? (fun a => decide (a.id = id))

def State.dropFar (s : State) (k id : Nat) : State :=
  s.modCore k (fun c => { c with far := c.far.filter (fun a => decide (a.id ≠ id)) })

def State.modFar (s : State) (k id : Nat) (f : FarAcc → FarAcc) : State :=
  s.modCore k (fun c => { c with far := c.far.map (fun a => if a.id = id then f a else a) })

/-- The first byte that no TLB translates; none where all of it is translated. -/
def State.firstMiss (s : State) (k u : Nat) (root : Word) (ak : AK) : Nat → Nat → Nat → Option Nat
  | 0, _, _ => none
  | f + 1, va, n =>
    if n = 0 then none
    else
      match s.tlbFind k u root va ak with
      | none => some va
      | some e =>
        let m := min n (e.room va)
        s.firstMiss k u root ak f (va + m) (n - m)

/-- The first untranslated byte of some parts, with its part: of a paged part, or of a part of the heap window in a held range. -/
def State.partsMiss (s : State) (k u : Nat) (root : Word) (ak : AK) (ps : List Part) : Option (Part × Nat) :=
  firstSome (fun p =>
    if p.flt ≠ none then none
    else
      match p.cls with
      | .paged => (s.firstMiss k u root ak 4 p.va.toNat p.len).map (fun v => (p, v))
      | .phys b => if s.heldAt b p.len then some (p, p.va.toNat) else none
      | .loc => none) ps

/-- The first untranslated byte of an access, with its part. -/
def State.farMiss (s : State) (a : FarAcc) : Option (Part × Nat) := s.partsMiss a.who.k (farUnit a.kind) a.root (farAk a.kind) a.parts

/-- The page that an access's next walk is for. -/
def State.farKey (s : State) (a : FarAcc) : Option (BitVec 16 × Nat) :=
  match s.farMiss a with
  | some (p, va) => if p.cls = .paged then some (walkKey a.root va) else none
  | none => none

/-- The class of what lies n bytes further on. -/
def ACls.shift (n : Nat) : ACls → ACls
  | .phys a => .phys (a + n)
  | c => c

/-- Cut a part at a faulting page: the bytes before it, the page's bytes with their fault, the bytes behind; unrec says that
the fault still waits for a record. -/
def cutPart (p : Part) (va bits : Nat) (key : FltKey) (unrec : Bool) : List Part :=
  let lead := va - p.va.toNat
  let m := min (p.len - lead) (2 ^ bits - va % 2 ^ bits)
  [({ p with len := lead } : Part), { p with off := p.off + lead, va := BitVec.ofNat 64 va, len := m, cls := p.cls.shift lead, flt := some key, unrec := unrec },
   { p with off := p.off + lead + m, va := BitVec.ofNat 64 (va + m), len := p.len - lead - m, cls := p.cls.shift (lead + m) }].filter
    (fun q => decide (q.len ≠ 0))

/-- A fault of a page of an access. It opens or joins a page record, and the access is held from then on. Where the record
buffer is full the fault waits in its unit (R126): a read stays held and walks again, the bytes of a write go to the side
log with the fault unrecorded (R119). -/
def State.farFault (s : State) (a : FarAcc) (p : Part) (va bits cause : Nat) : State :=
  let key := fltKey va cause
  let cut (key : FltKey) (unrec : Bool) (q : Part) : List Part := if q = p then cutPart p va bits key unrec else [q]
  match s.openRec (dieOf a.who.k) (rootAsid a.root) key (farAk a.kind) a.who.crew a.who.lcore with
  | some (key, u) => u.modFar a.who.k a.id (fun x => { x with held := true, parts := x.parts.flatMap (cut key false) })
  | none =>
    if farReads a.kind then s.modFar a.who.k a.id (fun x => { x with held := true })
    else s.modFar a.who.k a.id (fun x => { x with held := true, parts := x.parts.flatMap (cut key true) })

/-- A prefetch that is dropped counts in PF_DROP (R119). -/
def State.pfDrop (s : State) (k : Nat) : State :=
  s.modCore k (fun c => { c with cnt := { c.cnt with pfDrop := c.cnt.pfDrop + 1 } })

/-- A walk for a far access ends: its leaf is installed, its fault recorded, or the prefetch dropped (R116, R119, R121). -/
def State.farWalk (s : State) (a : FarAcc) : State :=
  let k := a.who.k
  match s.farMiss a with
  | none => s
  | some (p, va) =>
    let w := if p.cls = .paged then s.pageWalk k (farUnit a.kind) a.root va (farAk a.kind)
      else (s, if a.kind = .prefetch then .dropped else .fault 5 12)
    match w with
    | (t, .mapped) => t
    | (t, .dropped) => (t.pfDrop k).dropFar k a.id
    | (t, .fault c bits) => t.farFault a p va bits c

/-- The other accesses of the die's cores that joined a walk end theirs with it (R115). -/
def State.joined (s : State) (d : Nat) (key : BitVec 16 × Nat) : State :=
  (List.range 128).foldl (fun t i =>
    ((t.core (d * 128 + i)).far.filter (fun a => decide (t.farKey a = some key))).foldl (fun u a => u.farWalk a) t) s

/-- A walk ends for everyone who has asked for it: the leaf is installed for each unit, whose access finds a fault by walking itself, and
the far accesses that wait for the page end their walks with it (R115). -/
def State.finishWalk (s : State) (d : Nat) (y : WalkReq) : State :=
  let t := (y.agent :: y.also).foldl (fun u x => match x with
    | .unit k n root va ak => (u.pageWalk k n root va ak).1
    | .far | .seq => u) (s.endWalk d (y.asid, y.page))
  t.joined d (y.asid, y.page)

/-- The walk of a page that is asked for ends. -/
def State.closeWalk (s : State) (d : Nat) (key : BitVec 16 × Nat) : State :=
  match (s.die d).walks.find? (·.of key) with
  | some y => s.finishWalk d y
  | none => s

/-- A walk's end frees its place; so does the end of the last access that asked for it. Behind 256 requests, those that no far access of
the die's cores asks for any more are over, and the walks that run for other units end. -/
def State.pruneWalks (s : State) (d : Nat) (key : BitVec 16 × Nat) : State :=
  if s.walkRuns d key then s
  else
    let t := s.modDie d (fun x => { x with walks := x.walks.filter (fun y => decide (y.agent ≠ .far) || decide (y.also ≠ []) ||
      (List.range 128).any (fun i => (s.core (d * 128 + i)).far.any (fun a => decide (s.farKey a = some (y.asid, y.page))))) })
    if t.walkRuns d key then t
    else ((t.die d).walks.take 256).foldl (fun u y => if y.agent = .far ∧ y.also = [] then u else u.finishWalk d y) t

/-- A unit or the sequencer asks for the walk that it found no room for (R115). -/
def State.askReq (s : State) (d : Nat) (q : Option WalkReq) : State :=
  match q with
  | some y => (s.pruneWalks d (y.asid, y.page)).askWalk d (y.asid, y.page) y.agent
  | none => s

/-- The walk that an access needs is asked for (R115). -/
def State.askFar (s : State) (a : FarAcc) : State :=
  match s.farKey a with
  | some key => (s.pruneWalks (dieOf a.who.k) key).askWalk (dieOf a.who.k) key .far
  | none => s

/-- Issue a far access of the context in issue: it gets a number, and its walk is asked for. A read and a prefetch wait for the refreshes
pending (R93, R280); a store does not, for which the rule gives no order (DESIGN CHOICE, log entry 52). -/
def State.issueFar (s : State) (f : FarKind) (va : Word) (size : Nat) (data : Row) (ps : List Part) : Nat × State :=
  let (id, s1) := s.fresh
  let a : FarAcc :=
    { id := id, who := s.origin, kind := f, va := va, size := size, data := data, parts := ps, root := s.ic.xl.root,
      after := if farReads f || decide (f = .prefetch) then s.ic.refs.map (·.id) else [], tick := s.ic.regs.tick }
  (id, (s1.modIk (fun c => { c with far := c.far ++ [a] })).askFar a)

/-! ### Order -/

/-- The physical pieces of an access with their offsets; none where a part is not translated or has faulted. -/
def State.farPieces (s : State) (a : FarAcc) : Option (List (Nat × Nat × Nat)) :=
  a.parts.foldl (fun o p =>
    match o, p.flt, s.pieces a.who.k (farUnit a.kind) a.root (farAk a.kind) p with
    | some l, none, some ps =>
      some (l ++ (ps.foldl (fun (x : Nat × List (Nat × Nat × Nat)) q => (x.1 + q.2, x.2 ++ [(x.1, q.1, q.2)])) (p.off, [])).2)
    | _, _, _ => none) (some [])

/-- Two parts share a byte by their addresses, or by the offsets in their pages. -/
def Part.meets (p q : Part) : Bool := overlap p.va.toNat p.len q.va.toNat q.len
def Part.mayMeet (p q : Part) : Bool :=
  overlap (p.va.toNat % 4096) p.len (q.va.toNat % 4096) q.len ||
    overlap (p.va.toNat % 4096 + 4096) p.len (q.va.toNat % 4096) q.len ||
    overlap (p.va.toNat % 4096) p.len (q.va.toNat % 4096 + 4096) q.len

/-- What two accesses have still to do may share a byte: by their addresses, by their places, or, while a place is unknown,
by the offsets in their pages. -/
def State.mayShare (s : State) (a b : FarAcc) : Bool :=
  a.parts.any (fun p => b.parts.any (fun q => p.meets q)) ||
    (match s.farPieces a, s.farPieces b with
     | some l, some m => l.any (fun x => m.any (fun y => overlap x.2.1 x.2.2 y.2.1 y.2.2))
     | _, _ => a.parts.any (fun p => b.parts.any (fun q => p.mayMeet q)))

/-- A near store of the same context issued before the access and not yet landed reaches its bytes (R90). -/
def State.nearBefore (s : State) (a : FarAcc) : Bool :=
  let c := s.ctx a.who.k a.who.r
  decide (c.uid = a.who.uid) &&
    c.landing.any (fun e =>
      match e.dst with
      | .spad bs =>
        decide ((e.due - a.tick).toNat ≤ 1) && (match s.farPieces a with
          | some l => bs.any (fun b => l.any (fun x => overlap x.2.1 x.2.2 (spadBase a.who.k + b.1) 1))
          | none => false)
      | _ => false)

/-- An access may be performed now: the refreshes before it have been performed (R93), and so have the earlier accesses
of its context to bytes that it shares (R90, R112); a read waits for the core's pending side-log entries on its bytes
(R106). -/
def State.farFree (s : State) (a : FarAcc) : Bool :=
  let k := a.who.k
  let c := s.ctx k a.who.r
  (decide (c.uid ≠ a.who.uid) || c.refs.all (fun r => !a.after.contains r.id)) &&
    (s.core k).far.all (fun b => decide (a.id ≤ b.id) || decide (b.who.uid ≠ a.who.uid) || decide (b.kind = .prefetch) ||
      !s.mayShare a b) &&
    !s.nearBefore a &&
    (farWrites a.kind || !logHits ((s.core k).eng.logs.filter (fun e => decide (e.src < a.id))) a.root a.va.toNat a.size)

/-- A far load that waits at a POP or a landing: it has faulted, so that its context is held until it completes, or stands behind a
side-log entry (R106, R119, R120, R131). -/
def State.farHeld (s : State) (k id : Nat) : Bool :=
  match s.far? k id with
  | none => false
  | some a =>
    a.held || a.parts.any (fun p => p.flt.isSome) ||
      logHits ((s.core k).eng.logs.filter (fun e => decide (e.src < a.id))) a.root a.va.toNat a.size

/-! ### Full latent seams (R24 to R26) -/

/-- Touch every slot under some pieces; none where one finds its die full. -/
def State.touchAll (s : State) (l : List (Nat × Nat × Nat)) (agent : Option Nat) : Option State :=
  l.foldl (fun o x => match o with
    | some t => t.touch x.2.1 x.2.2 agent
    | none => none) (some s)

/-- The places under the parts of an access that have not faulted: part, address of the first byte, physical place. -/
def State.partPlaces (s : State) (a : FarAcc) : List (Part × Nat × Nat × Nat) :=
  (a.parts.filter (fun p => p.cls = .paged ∧ p.flt = none)).flatMap (fun p =>
    match s.pieces a.who.k (farUnit a.kind) a.root (farAk a.kind) p with
    | some ps => (ps.foldl (fun (x : Nat × List (Part × Nat × Nat × Nat)) q => (x.1 + q.2, x.2 ++ [(p, x.1, q.1, q.2)])) (p.va.toNat, [])).2
    | none => [])

/-- The first page of an access whose slot its die has no frame for (R25). -/
def State.fullPage (s : State) (agent : Option Nat) : List (Part × Nat × Nat × Nat) → Option (Part × Nat)
  | [] => none
  | (p, va, pa, n) :: l =>
    match s.touch pa n agent with
    | some t => t.fullPage agent l
    | none => some (p, va)

/-- A SEAM_FULL fault of the first page of an access whose slot cannot be placed, and of that page alone (R25, R121, R126). -/
def State.seamFull (s : State) (a : FarAcc) : State :=
  match s.fullPage (some a.who.k) (s.partPlaces a) with
  | some (p, va) => s.farFault a p va 16 6
  | none => s

/-! ### Pieces of wide accesses (R87) -/

/-- The runs of doublewords that a mask names, as first byte and length. -/
def maskRuns (m : BitVec 16) : List (Nat × Nat) :=
  (List.range 16).foldl (fun l i =>
    if !m.getLsbD i then l
    else match l.getLast? with
      | some (o, n) => if o + n = 8 * i then l.dropLast ++ [(o, n + 8)] else l ++ [(8 * i, 8)]
      | none => [(8 * i, 8)]) []

/-- What a mask takes of a part, by its offsets in the extent. -/
def Part.cut (p : Part) (m : BitVec 16) : List Part :=
  if m = 0xFFFF#16 then [p]
  else (maskRuns m).filterMap (fun r =>
    let lo := max p.off r.1
    let hi := min (p.off + p.len) (r.1 + r.2)
    if lo < hi then
      some { p with off := lo, va := p.va + BitVec.ofNat 64 (lo - p.off), len := hi - lo, cls := p.cls.shift (lo - p.off) }
    else none)

/-! ### Reading through the snapshot cache (R59, R60) -/

/-- The core's own scratchpad has no lines in its snapshot cache (R59). -/
def ownSpad (k a : Nat) : Bool := decide (spadBase k ≤ a) && decide (a < spadBase k + 0x100000)

/-- The bytes of a line of the core's snapshot cache. -/
def snapLine (l : List SnapEnt) (line : Nat) : Option Row := (snapEnt? l line).map (·.data)

/-- A hit reads words of the array: an error there is logged as CE, without a write-back, and an uncorrectable one invalidates
the line, which is then fetched again (R81). BITPOS of such a CE with more than one position is not given: it holds 127 here, as for an
error logged as UE (DESIGN CHOICE, log entry 65). -/
def State.snapMeet (s : State) (k line o n : Nat) (w : Option Origin) : State :=
  match snapEnt? (s.core k).snap line with
  | none => s
  | some e =>
    let us := s.upsetsAt (snapLocs k e o n)
    if us = [] then s
    else
      let t := us.foldl (fun x u => x.logErr u.die u.array 1 u.loc (match u.flipped with
        | [p] => p
        | _ => 127) (Config.syndrome u.flipped) w) s
      if us.any (fun u => decide (1 < u.flipped.length)) then
        { t with upsets := t.upsets.filter (fun u => !(snapLocs k e 0 128).contains (u.die, u.array, u.loc)) }.modCore k
          (fun c => { c with snap := c.snap.filter (fun x => decide (x.line ≠ line)) })
      else t

/-- Doublewords under n bytes of a line from offset o. -/
def dwMask (o n : Nat) : BitVec 16 :=
  BitVec.ofNat 16 (((List.range 16).filter (fun i => decide (8 * i < o + n) && decide (o < 8 * i + 8))).map (2 ^ ·)).sum

/-- Bring doublewords of a line into the snapshot cache, from the home copy where they have not arrived: those needed, and of
the others those that more names, which in the cache arrive in any order (R60, R87). One that is uncorrectable at home does
not arrive. The line's recency is renewed. -/
def State.snapFill (s : State) (k line : Nat) (need more : BitVec 16) (w : Option Origin) : State :=
  let e := (snapEnt? (s.core k).snap line).getD ⟨line, 0, 0, 0⟩
  let dw (i : Nat) : List (Nat × Nat × Nat) := memLocs (line * 128 + 8 * i) 8
  let get := (List.range 16).filter (fun i => (need ||| more).getLsbD i && !e.has.getLsbD i && (need.getLsbD i || !s.ueAt (dw i)))
  let t := if s.upsets = [] then s else s.meetUpsets (get.flatMap dw) w
  let ok := get.filter (fun i => !s.ueAt (dw i))
  let v := if ok.length = 16 then ofBytes 1024 (s.read (line * 128) 128)
    else ok.foldl (fun r i => rowPatch r (8 * i) (s.read (line * 128 + 8 * i) 8)) e.data
  let u := t.modCore k (fun c => { c with
    snap := snapInsert c.snap line (e.has ||| BitVec.ofNat 16 (ok.map (2 ^ ·)).sum) v })
  let u := [0, 1, 2, 3].foldl (fun x i =>
    if ok.any (fun j => decide (j / 4 = i)) then x.elide (some (dieOf k)) (line * 128 + 32 * i) 32 else x) u
  match (u.core k).snap with
  | x :: _ => u.clearUpsets (ok.flatMap (fun i => snapLocs k x (8 * i) 8))
  | [] => u

/-- Bytes at the home copy; none where a word is uncorrectable. -/
def State.homeRead (s : State) (a n : Nat) (w : Origin) : Option (List Byte) × State :=
  let ls := memLocs a n
  (if s.ueAt ls then none else some (s.read a n), (s.meetUpsets ls (some w)).elide (some (dieOf w.k)) a n)

/-- Bytes of a far load of core k at a place, line by line through the snapshot cache; none where a word that is read is
uncorrectable. more is what else of a line arrives, fuel bounds the lines. -/
def State.snapRead (s : State) (k : Nat) (w : Origin) (more : BitVec 16) : Nat → Nat → Nat → Option (List Byte) × State
  | 0, _, _ => (some [], s)
  | f + 1, a, n =>
    if n = 0 then (some [], s)
    else if ownSpad k a then s.homeRead a n w
    else
      let o := a % 128
      let m := min n (128 - o)
      let t := (s.snapMeet k (a / 128) o m (some w)).snapFill k (a / 128) (dwMask o m) more (some w)
      let e := (snapEnt? (t.core k).snap (a / 128)).getD ⟨0, 0, 0, 0⟩
      let (r, u) := t.snapRead k w more f (a + m) (n - m)
      ((match r with
        | some bs => if dwMask o m &&& ~~~e.has = 0 then some (((toBytes 128 e.data).drop o).take m ++ bs) else none
        | none => none), u)

/-- The pieces of a load, each at its offset in the value; none where a word is uncorrectable. -/
def State.loadPieces (s : State) (k : Nat) (w : Origin) (more : BitVec 16) (l : List (Nat × Nat × Nat)) (v : Row) : Option Row × State :=
  l.foldl (fun x p => match x with
    | (none, t) => (none, t)
    | (some r, t) =>
      (match t.snapRead k w more 3 p.2.1 p.2.2 with
       | (some bs, u) => (some (rowPatch r p.1 bs), u)
       | (none, u) => (none, u))) (some v, s)

/-- The same at the home copy. -/
def State.homePieces (s : State) (w : Origin) (l : List (Nat × Nat × Nat)) (v : Row) : Option Row × State :=
  l.foldl (fun x p => match x with
    | (none, t) => (none, t)
    | (some r, t) =>
      (match t.homeRead p.2.1 p.2.2 w with
       | (some bs, u) => (some (rowPatch r p.1 bs), u)
       | (none, u) => (none, u))) (some v, s)

/-- A far store's bytes reach any line that holds them (R60). -/
def State.snapUpdate (s : State) (k pa : Nat) (bs : List Byte) : State :=
  let t := s.modCore k (fun c => { c with snap := snapStore c.snap pa bs })
  t.clearUpsets ((s.core k).snap.flatMap (fun e =>
    let lo := max pa (e.line * 128)
    let hi := min (pa + bs.length) (e.line * 128 + 128)
    if lo < hi then snapLocs k e (lo - e.line * 128) (hi - lo) else []))

/-! ### Delivery -/

/-- Fill the entry of qld, or the landing, that waits for an access; the words of a landing's place are written (R80, R84). -/
def State.deliver (s : State) (w : Origin) (id : Nat) (v : Row) (e : Option QErr) : State :=
  if (s.ctx w.k w.r).uid ≠ w.uid then s
  else
    (s.modCtx w.k w.r (fun c => { c with
      qld := c.qld.map (fun q => if q.id = id then { q with val := some v, err := e } else q)
      landing := c.landing.map (fun l => if l.wait = some id then { l with wait := none, val := v, err := e } else l)
      waitRd := c.waitRd.map (fun x => if x.id = id then { x with val := if e.isNone then some (v.setWidth 64) else none, err := e } else x) })).clearUpsets
      (((s.ctx w.k w.r).landing.filter (fun l => decide (l.wait = some id))).flatMap (fun l => landLocs w.k w.r l.place))

/-- The failure of an access by an uncorrectable word: the record names the PC of the load (R81). -/
def ueErr (a : FarAcc) : QErr := ⟨.eccUe, a.va, 0, false, a.who.pc⟩

/-- The refusal of an access by the driver (R131). -/
def abortErr (a : FarAcc) : QErr := ⟨.faultAbort, a.va, 0, false, a.who.pc⟩

/-- Storage words under some pieces. -/
def pieceLocs (l : List (Nat × Nat × Nat)) : List (Nat × Nat × Nat) := l.flatMap (fun x => memLocs x.2.1 x.2.2)

/-- The doublewords that this event moves of an access: all of it up to 8 bytes, which is one point (R87). -/
def State.moveOf (s : State) (a : FarAcc) (f : Move → BitVec 16) : BitVec 16 := if a.size ≤ 8 then 0xFFFF else f s.move

/-- The choice of an event is used up by a wide access. -/
def State.movedBy (s : State) (a : FarAcc) : State := if a.size ≤ 8 then s else s.moved

/-- Doublewords of a load are read, through the snapshot cache, or, for the wait read of a WAITA, at the home copy. Once all have
been read, the data is delivered at once (R121); an uncorrectable word fails the load. -/
def State.performLoad (s : State) (a : FarAcc) : State :=
  let k := a.who.k
  let m := s.moveOf a (·.rd)
  let s0 := (a.parts.foldl (fun t p => if p.cls = .paged then
      t.tlbMeet k (farUnit a.kind) a.root (farAk a.kind) a.who 4 p.va.toNat p.len else t) s).movedBy a
  match s.farPieces { a with parts := a.parts.flatMap (·.cut m) } with
  | none => s
  | some l =>
    let later := if m = 0xFFFF then [] else a.parts.flatMap (·.cut (~~~m))
    match if a.kind = .waitRead then s0.homePieces a.who l a.got else s0.loadPieces k a.who s.move.rd l a.got with
    | (none, t) => (t.dropFar k a.id).deliver a.who a.id 0#1024 (some (ueErr a))
    | (some v, t) =>
      if later = [] then (t.dropFar k a.id).deliver a.who a.id v none
      else t.modFar k a.id (fun x => { x with parts := later, got := v })

/-- A load, scale load or wait read that is free and whole is performed; SEAM_FULL faults; anything else waits. -/
def State.loadNow (s : State) (a : FarAcc) : State :=
  if !s.farFree a then s
  else
    match s.farPieces a with
    | none => s
    | some l =>
      match s.touchAll l (some a.who.k) with
      | some t => t.performLoad a
      | none => s.seamFull a

/-! ### Atomics (R97, R98, R281) -/

/-- The new value of an atomic on n-byte operands (R281). -/
def atomNew (op : AOp) (dw : Bool) (old b c : Word) : Word :=
  let n := if dw then 64 else 32
  let o : Word := if dw then old else (old.setWidth 32).setWidth 64
  let x : Word := if dw then b else (b.setWidth 32).setWidth 64
  let y : Word := if dw then c else (c.setWidth 32).setWidth 64
  let lts (u v : Word) : Bool := decide (toSigned n u.toNat < toSigned n v.toNat)
  match op with
  | .add => o + x
  | .and => o &&& x
  | .or => o ||| x
  | .xor => o ^^^ x
  | .min => if lts x o then x else o
  | .max => if lts o x then x else o
  | .minu => if x.ult o then x else o
  | .maxu => if o.ult x then x else o
  | .swap => x
  | .cas => if o = y then x else o
  | .fadd => BitVec.ofNat 64 (f32Add o.toNat x.toNat)
  | .fmax => BitVec.ofNat 64 (f32Max o.toNat x.toNat)

/-- The old value as an atomic delivers it (R281). -/
def atomOld (dw : Bool) (old : Word) : Word := if dw then old else (old.setWidth 32).signExtend 64

/-- Die of the home copy of a place. -/
def homeDie (a : Nat) : Nat := (memLoc a).1

/-- An atomic at its home copy, for an access number that orders the sums of exact mode; the old value and the state.
None where the ordered-sum buffer is full (R98). -/
def State.atomAt (s : State) (w : Origin) (id : Nat) (op : AOp) (dw : Bool) (pa : Nat) (b c : Word) :
    Option (Word × State) :=
  let n := if dw then 8 else 4
  let old : Word := ofBytes 64 (s.read pa n)
  if op = .fadd ∧ s.exact? w.crew then
    let d := homeDie pa
    if 2048 ≤ (s.die d).ordsum.length then none
    else
      some (old, { (s.modDie d (fun x => { x with ordsum := x.ordsum ++
        [⟨w.crew, w.lcore, pa, b.setWidth 32, id, s.nextId⟩] })) with nextId := s.nextId + 1 })
  else
    let bs := toBytes n (atomNew op dw old b c)
    some (old, ((s.write pa bs).snapUpdate w.k pa bs).elide (some (dieOf w.k)) pa n)

/-- Operand and compare value of an atomic. -/
def FarAcc.opB (a : FarAcc) : Word := a.data.extractLsb' 0 64
def FarAcc.opC (a : FarAcc) : Word := a.data.extractLsb' 64 64

/-- An atomic with a result that is free: read, write and delivery in one point; the read of an uncorrectable word fails
it. -/
def State.atomNow (s : State) (a : FarAcc) (op : AOp) (dw : Bool) : State :=
  if !s.farFree a || logHits (s.core a.who.k).eng.logL a.root a.va.toNat a.size then s
  else
    match s.farPieces a with
    | some [(o, pa, n)] =>
      let l := [(o, pa, n)]
      if s.ueAt (pieceLocs l) then
        ((s.meetUpsets (pieceLocs l) (some a.who)).dropFar a.who.k a.id).deliver a.who a.id 0#1024 (some (ueErr a))
      else
        match s.touchAll l (some a.who.k) with
        | none => s.seamFull a
        | some t =>
          match ((t.tlbMeet a.who.k 0 a.root .atomic a.who 4 a.va.toNat a.size).meetUpsets (pieceLocs l) (some a.who)).atomAt a.who a.id op dw pa a.opB a.opC with
          | none => s
          | some (old, u) =>
            (u.dropFar a.who.k a.id).deliver a.who a.id ((atomOld dw old).setWidth 1024) none
    | _ => s

/-! ### Writes and the side log (R106, R119, R121 to R124) -/

/-- The entry that a faulting part of a write leaves in the L unit's log. -/
def logOf (a : FarAcc) (p : Part) (id : Nat) : LogEnt :=
  { id := id, src := a.id, who := a.who, va := p.va, cls := p.cls, len := p.len, root := a.root, flt := p.flt
    unrec := p.unrec
    kind := (match a.kind with
      | .atom op dw _ => .red op dw
      | _ => .store)
    data := (match a.kind with
      | .atom _ _ _ => a.data
      | _ => a.data >>> (8 * p.off)) }

/-- Append an entry to a unit's log. -/
def State.addLog (s : State) (k u : Nat) (e : LogEnt) : State :=
  s.modEng k (fun x => x.setLog u (x.log u ++ [e]))

/-- A far store writes its pieces at home and updates the core's snapshot lines (R60). -/
def State.storePieces (s : State) (k : Nat) (data : Row) (l : List (Nat × Nat × Nat)) : State :=
  l.foldl (fun t x =>
    let bs := ((toBytes 128 data).drop x.1).take x.2.2
    ((t.write x.2.1 bs).snapUpdate k x.2.1 bs).elide (some (dieOf k)) x.2.1 x.2.2) s

/-- An atomic without a result at its place: an uncorrectable word is neither used nor changed, and its context gets the
condition (R80; log entry 21). None where the ordered-sum buffer is full. -/
def State.reduce (s : State) (w : Origin) (id : Nat) (op : AOp) (dw : Bool) (va : Word) (pa : Nat) (b c : Word) : Option State :=
  let ls := memLocs pa (if dw then 8 else 4)
  if s.ueAt ls then some ((s.meetUpsets ls (some w)).postFor w ⟨.eccUe, va, 0, none⟩)
  else ((s.meetUpsets ls (some w)).atomAt w id op dw pa b c).map (·.2)

/-- A part of a write must go to the log: it has faulted, or overlaps a pending entry of the unit (R106, R119). -/
def State.mustLog (s : State) (a : FarAcc) (p : Part) : Bool :=
  p.flt.isSome || logHits (s.core a.who.k).eng.logL a.root p.va.toNat p.len

/-- One part of a write, which lies in one page: it goes to the log, or it is performed. None where it cannot yet be either. -/
def State.writePart (s : State) (a : FarAcc) (p : Part) : Option State :=
  let k := a.who.k
  if s.mustLog a p then
    if logCap 0 ≤ (s.core k).eng.logL.length then none
    else
      let (id, t) := s.fresh
      some (t.addLog k 0 (logOf a p id))
  else
    match s.pieces k 0 a.root (farAk a.kind) p with
    | none => none
    | some ps =>
      let l := (ps.foldl (fun (x : Nat × List (Nat × Nat × Nat)) q => (x.1 + q.2, x.2 ++ [(x.1, q.1, q.2)])) (p.off, [])).2
      match s.touchAll l (some k) with
      | none => none
      | some t0 =>
        let t := if p.cls = .paged then t0.tlbMeet k 0 a.root (farAk a.kind) a.who 4 p.va.toNat p.len else t0
        match a.kind, l with
        | .atom op dw _, [(_, pa, _)] => t.reduce a.who a.id op dw p.va pa a.opB a.opC
        | _, _ => some (t.storePieces k a.data l)

/-- A part that has not faulted, page by page (R121, R122): an untranslated page counts as 4 KiB. Fuel bounds the pages. -/
def State.pageParts (s : State) (k : Nat) (root : Word) (ak : AK) : Nat → Part → List Part
  | 0, p => [p]
  | f + 1, p =>
    let va := p.va.toNat
    let m := match p.cls with
      | .paged => (match s.tlbFind k 0 root va ak with
        | some e => e.room va
        | none => 4096 - va % 4096)
      | _ => p.len
    if p.flt.isSome || decide (p.len ≤ m) then [p]
    else { p with len := m } :: s.pageParts k root ak f { p with off := p.off + m, va := p.va + BitVec.ofNat 64 m, len := p.len - m, cls := p.cls.shift m }

/-- A store, or an atomic without a result, that is free: every page's part is performed or logged (R119, R121), of a wide one the
doublewords that move (R87). -/
def State.writeNow (s : State) (a : FarAcc) : State :=
  let k := a.who.k
  if !s.farFree a then s
  else if (s.fullPage (some k) (s.partPlaces a)).isSome then s.seamFull a
  else
    let m := s.moveOf a (·.wr)
    let ps := a.parts.flatMap (s.pageParts k a.root (farAk a.kind) 3)
    let now := ps.flatMap (fun p => if s.mustLog a p then [p] else p.cut m)
    let later := if m = 0xFFFF then [] else ps.flatMap (fun p => if s.mustLog a p then [] else p.cut (~~~m))
    match now.foldl (fun o p => match o with
        | some t => t.writePart a p
        | none => none) (some (s.movedBy a)) with
    | some t => if later = [] then t.dropFar k a.id else t.modFar k a.id (fun x => { x with parts := later })
    | none => s

/-! ### Walks for far accesses (R116, R119, R121) -/

/-- The access walks: among the walks that run; behind them it waits in the queue, or asks for its walk. -/
def State.farWalkEnd (s : State) (a : FarAcc) : State :=
  match s.farKey a with
  | none => s.farWalk a
  | some key =>
    let t := s.pruneWalks (dieOf a.who.k) key
    let d := dieOf a.who.k
    if !t.walkRuns d key then t.askFar a
    else if (t.die d).walks.any (·.of key) then t.closeWalk d key
    else t.farWalk a

/-! ### The events -/

/-- Run an access event on an access that exists. -/
def onFar (k id : Nat) (f : FarAcc → State → State) (s : State) : Host.Outcome State Fault Refusal :=
  match s.far? k id with
  | some a => .next (f a s)
  | none => .next s

/-- FAR_LOAD_COMPLETE (R61): an LDQ, VLDQ or SCLD. -/
def execFarLoadComplete (k id : Nat) (s : State) : Host.Outcome State Fault Refusal :=
  onFar k id (fun a t => match a.kind with
    | .load | .scale _ => t.loadNow a
    | _ => t) s

/-- ATOM_RESULT_ARRIVE (R97, R255). -/
def execAtomResultArrive (k id : Nat) (s : State) : Host.Outcome State Fault Refusal :=
  onFar k id (fun a t => match a.kind with
    | .atom op dw true => t.atomNow a op dw
    | _ => t) s

/-- FAR_WRITE_PERFORM (R60, R90, R97): an STF, VSTF or ATOM without a result. -/
def execFarWritePerform (k id : Nat) (s : State) : Host.Outcome State Fault Refusal :=
  onFar k id (fun a t => match a.kind with
    | .store | .atom _ _ false => t.writeNow a
    | _ => t) s

/-- WAIT_READ_RETURN: the first wait read of the context's WAITA returns (R283). -/
def execWaitReadReturn (k r : Nat) (s : State) : Host.Outcome State Fault Refusal :=
  match (s.ctx k r).waitRd with
  | some w => onFar k w.id (fun a t => t.loadNow a) s
  | none => .next s

/-- PREFETCH_LINE_FILL (R24, R280): the line is filled, or the prefetch of an unplaced slot dropped. -/
def execPrefetchLineFill (k id : Nat) (s : State) : Host.Outcome State Fault Refusal :=
  onFar k id (fun a t =>
    match a.kind, t.farPieces a with
    | .prefetch, some ((_, pa, _) :: _) =>
      if !t.farFree a then t
      else if (slotsUnder pa 1).any (fun n => (t.frame? n).isNone) then (t.pfDrop k).dropFar k id
      else ((t.tlbMeet k 0 a.root .prefetch a.who 4 a.va.toNat 1).snapFill k (pa / 128) 0 t.move.rd (some a.who)).dropFar k id
    | _, _ => t) s

/-! ### Publish and refresh (R91 to R94) -/

/-- The writes that a publish of a core covers at its issue, by number (R91): near stores and far writes of both contexts, entries
of the side logs, RST and RATOM. -/
def Core.covered (c : Core) : List Nat :=
  c.c0.nearStores ++ c.c1.nearStores ++ (c.far.filter (fun a => farWrites a.kind)).map (·.id) ++ c.eng.logs.map (·.id) ++
    (c.eng.rm.filter (fun q => match q.kind with
      | .load | .loadRow => false
      | _ => true)).map (·.id)

/-- The covered near stores of a context that have not landed stand at their landing tick, where the publish performs them as it completes
(State.flushNear; log entry 11). -/
def Ctx.nearDone (x : Ctx) (l : List Nat) : Bool := x.landing.all (fun e => !(e.stores && l.contains e.id) || x.landsHere e)

/-- None of the covered writes is still under way. -/
def Core.pubDone (c : Core) (l : List Nat) : Bool :=
  c.far.all (fun a => !l.contains a.id) && c.eng.logs.all (fun e => !l.contains e.id && !l.contains e.src) &&
    c.eng.rm.all (fun q => !l.contains q.id) && c.c0.nearDone l && c.c1.nearDone l

/-- A publish of the context in issue begins. -/
def State.startPub (s : State) (kind : PubKind) (sc : Scope) : Nat × State :=
  let (id, s1) := s.fresh
  (id, s1.modIc (fun c => { c with pubs := c.pubs ++ [⟨id, kind, sc, s.icore.covered⟩] }))

/-- The far reads of a context that a refresh comes after (R93). -/
def State.readsOf (s : State) (k : Nat) (uid : Nat) : List Nat :=
  ((s.core k).far.filter (fun a => decide (a.who.uid = uid) && farReads a.kind)).map (·.id) ++
    ((s.core k).eng.rm.filter (fun q => decide (q.who.uid = uid) && q.qrm)).map (·.id)

/-- A refresh of the context in issue begins, behind further events. -/
def State.startRef (s : State) (sc : Scope) (more : List Nat) : Nat × State :=
  let (id, s1) := s.fresh
  (id, s1.modIc (fun c => { c with refs := c.refs ++ [⟨id, sc, s.readsOf s.issue.k s.ic.uid ++ more⟩] }))

/-- Everything that a refresh comes after is over. -/
def State.refReady (s : State) (k r : Nat) (f : Refresh) : Bool :=
  let c := s.core k
  c.far.all (fun a => !f.after.contains a.id) && c.eng.rm.all (fun q => !f.after.contains q.id) &&
    (s.ctx k r).pubs.all (fun p => !f.after.contains p.id)

/-! ### Ordered sums and barriers (R95, R96, R98, R99) -/

/-- Two cores lie in one instance of a scope (R85). -/
def sameInst (sc : Scope) (p q : Nat) : Bool :=
  match sc with
  | .core => decide (p = q)
  | .pair => decide (p / 2 = q / 2)
  | .quad => decide (p / 4 = q / 4)
  | .cluster => decide (p / 16 = q / 16)
  | .die => decide (p / 128 = q / 128)
  | .pkg | .fabric => true

/-- Put a sum entry in order: logical core, then issue order. -/
def sumInsert (e : OrdSum) : List OrdSum → List OrdSum
  | [] => [e]
  | x :: l =>
    if e.lcore < x.lcore ∨ (e.lcore = x.lcore ∧ e.order < x.order) then e :: x :: l else x :: sumInsert e l

/-- Apply ordered sums: every target meets its addends in ascending logical core and issue order. A target with an
uncorrectable error is left as it is (R80; log entry 21). -/
def State.applySums (s : State) (l : List OrdSum) : State :=
  (l.foldl (fun a e => sumInsert e a) []).foldl (fun t e =>
    let u := t.meetUpsets (memLocs e.pa 4) none
    if t.ueAt (memLocs e.pa 4) then u
    else u.write e.pa (leBytes 4 (f32Add (leNat (u.read e.pa 4)) e.addend.toNat))) s

/-- Take the entries of a crew that a test picks out of both dies' buffers and apply them. -/
def State.drainSums (s : State) (pick : OrdSum → Bool) : State :=
  let mine := s.dies.flatMap (fun d => d.ordsum.filter pick)
  { s.applySums mine with
      dies := (s.applySums mine).dies.map (fun d => { d with ordsum := d.ordsum.filter (fun e => !pick e) }) }

/-- Release the contexts of a completed generation: each performs its refresh and resumes; a context of a participant that
waits behind its fellow arrives in the next one (R95). The refresh is performed at once: R93 states a wait for earlier far reads of
REF and PHASE alone (DESIGN CHOICE, log entry 53). A waiting context that a trap has parked stays parked, and RESUME finds
it past its barrier (R96). -/
def State.releaseBar (s : State) (sc : Scope) (crew : BitVec 16) (p : Nat) : State :=
  [0, 1].foldl (fun t r =>
    let c := t.ctx p r
    if c.crew ≠ crew then t
    else match c.mode with
      | .barrier x true =>
        if x = sc then (t.refresh p).modCtx p r (fun y => { y with mode := .running, yieldCnt := 0, stallCnt := 0 }) else t
      | .trapped | .debug | .group =>
        if c.was = .barrier sc true then (t.refresh p).modCtx p r (fun y => { y with was := .running }) else t
      | _ => t) s

/-- A context whose publish is over arrives unless its logical core's flag is set. -/
def State.arrive (s : State) (k r : Nat) : State :=
  let c := s.ctx k r
  match c.mode, s.crew? c.crew with
  | .barrier sc false, some w =>
    let n := w.lcore k
    if c.pubs.any (fun p => decide (p.kind = .pbar)) || w.arrived.any (fun a => decide (a.1 = sc) && decide (a.2.1 = n)) then s
    else
      let t := (s.modCrew c.crew (fun x => { x with arrived := x.arrived ++ [(sc, n, s.nextId)] })).modCtx k r
        (fun x => { x with mode := .barrier sc true })
      { t with nextId := t.nextId + 1 }
  | _, _ => s

/-- Complete the barrier generation of an instance if every participant has arrived (R95, R98); contexts that waited for
it then arrive in the next, which may complete in turn. -/
def State.barrierStep (s : State) (sc : Scope) (crew : BitVec 16) (k : Nat) : Nat → State
  | 0 => s
  | f + 1 =>
    match s.crew? crew with
    | none => s
    | some w =>
      let ps := w.members.filter (sameInst sc k)
      let flag (p : Nat) := w.arrived.find? (fun a => decide (a.1 = sc) && decide (a.2.1 = w.lcore p))
      if ps.all (fun p => (flag p).isSome) then
        let s1 := s.drainSums (fun e => decide (e.crew = crew) && ps.any (fun p =>
          decide (w.lcore p = e.lcore) && (match flag p with
            | some a => decide (e.stamp < a.2.2)
            | none => false)))
        let s2 := s1.modCrew crew (fun x => { x with arrived := x.arrived.filter (fun a =>
          !(decide (a.1 = sc) && ps.any (fun p => decide (w.lcore p = a.2.1)))) })
        let s3 := ps.foldl (fun t p => t.releaseBar sc crew p) s2
        let s4 := ps.foldl (fun t p => (t.arrive p 0).arrive p 1) s3
        s4.barrierStep sc crew k f
      else s

end Sys2Proof.Machine
end

