-- ==== Sys2Proof/Machine/Finish.lean ====
section
/-!
DEFINITION. The end of a bundle: token moves, control effects, suspension, halting, fusion (R147, R150, R151, R155,
R157, R159, R161, R256 to R260); breakpoints (R171) and the
watchdogs (R163).
-/

namespace Sys2Proof.Machine

/-! ### Leaving a resident slot -/

/-- Far reads of a context that are discarded with it; its writes and prefetches go on. -/
def dropReads (uid : Nat) (l : List FarAcc) : List FarAcc :=
  l.filter (fun a => decide (a.who.uid ≠ uid) || farWrites a.kind || decide (a.kind = .prefetch))

/-- The members of a group that are still in it (R161). -/
def State.stillIn (s : State) (k : Nat) (quad : Bool) : List Nat := (fuseCores quad k).filter (fun p => (s.core p).fuse.isSome)

/-- The resident context of a core that runs one context: the occupied slot, slot 0 when there is none. -/
def State.onlyCtx (s : State) (k : Nat) : Nat := if (s.ctx k 0).mode = .empty then 1 else 0

/-- Lock-step resumes when every remaining member waits in REJOIN (R161). -/
def State.checkRejoin (s : State) (k : Nat) (quad : Bool) : State :=
  let ps := s.stillIn k quad
  if ps.all (fun p => decide ((s.ctx p (s.onlyCtx p)).mode = .rejoinWait)) then
    ps.foldl (fun t p => (t.modCtx p (t.onlyCtx p) (fun x => { x with mode := .running, stallCnt := 0 })).modCore p
      (fun c => { c with fuse := some ⟨quad, false⟩ })) s
  else s

/-- A member leaves its group when its context halts or suspends (R161). -/
def State.leaveGroup (s : State) (k : Nat) : State :=
  match (s.core k).fuse with
  | none => s
  | some f => (s.modCore k (fun c => { c with fuse := none })).checkRejoin k f.quad

/-- A slot that its context has left: the slot's counters and debug registers stay, and its registers read as the context
left them until another context is loaded (DESIGN CHOICE, log entry 18). -/
def Ctx.vacate (c : Ctx) : Ctx :=
  { Ctx.none with
    uid := c.uid, regs := c.regs, crew := c.crew, xl := c.xl, wdog := c.wdog, dsel := c.dsel, dbrk := c.dbrk, holdFlt := c.holdFlt
    holdSlog := c.holdSlog, holdSync := c.holdSync, mergeDeny := c.mergeDeny }

/-- The writes that a publish of the core's contexts, of one that has left it, or of a report covers. -/
def Core.inPubs (c : Core) : List Nat := (c.c0.pubs ++ c.c1.pubs ++ c.orphans).flatMap (·.covers) ++ c.eng.sq.flatMap (·.after)

/-- End a context as HALT does: pending results are discarded, its publishes go on, its slot becomes free, and what a record
of R406 would name of it is kept (R150). Its near stores that a publish of the core covers are performed first (R91; log entry 11). -/
def State.endCtx (s0 : State) (k r : Nat) (pc : BitVec 18) (tick : Word) : State :=
  let c := s0.ctx k r
  let s := s0.flushNear k (s0.core k).inPubs (fun x _ => decide (x.uid = c.uid))
  let n := match s.crew? c.crew with
    | some w => w.lcore k
    | none => 0
  let s1 := s.modCrew c.crew (fun w => { w with ended := w.ended ++ [⟨c.uid, n, r, pc, tick⟩] })
  let s2 := s1.modCore k (fun x => { x with far := dropReads c.uid x.far, orphans := x.orphans ++ c.pubs })
  (s2.modCtx k r Ctx.vacate).leaveGroup k

/-- Latches are zeroed: a group switch (R208). -/
def State.zeroLatches (s : State) (k r : Nat) : State := s.modRegs k r (fun g => { g with rings := Rings.zero })

/-- Begin a suspension after its bundle, which reserved its queue slot: the publish of R107 begins, and the near stores of the context,
which it covers, are performed (R91; log entry 11); pending results, queues and reads are discarded (R147), and the latches are zeroed
(R208). -/
def State.startSusp (s0 : State) (k r : Nat) (q : Susp) : State :=
  let c := s0.ctx k r
  let s := s0.flushNear k c.nearStores (fun x _ => decide (x.uid = c.uid))
  let (id, s1) := s.fresh
  let s2 := s1.modCore k (fun x => { x with far := dropReads c.uid x.far })
  ((s2.modCtx k r (fun x => { x with
    mode := .suspending q, landing := [], qld := [], qas := [], qrm := [], refs := [], waitRd := none,
    pubs := x.pubs ++ [⟨id, .susp, .pkg, (s.core k).covered⟩], yieldCnt := 0, stallCnt := 0 })).zeroLatches k r).leaveGroup k

/-- A queue slot that a WAITA has reserved beside a HALT is not written. -/
def State.unreserve (s : State) (crew : BitVec 16) (p : Option LPark) : State :=
  match p with
  | some (.susp q) => s.modCrew crew (fun w => { w with reserved := w.reserved.filter (fun i => decide (i ≠ q.qslot)) })
  | _ => s

/-! ### Fusion (R159, R161) -/

/-- The group completes when its last member waits in FUSE; one that is parked there is waited for (R159). -/
def State.checkFuse (s : State) (k : Nat) (quad : Bool) : State :=
  let ps := fuseCores quad k
  if ps.all (fun p => decide ((s.ctx p (s.onlyCtx p)).mode = .fuseWait quad)) then
    ps.foldl (fun t p =>
      let r := t.onlyCtx p
      ((t.modCtx p r (fun x => { x with mode := .running, stallCnt := 0 })).zeroLatches p r).modCore p
        (fun c => { c with fuse := some ⟨quad, false⟩ })) s
  else s

/-! ### The control effect (R257 to R261) -/

/-- PC and loops after a bundle that does not leave its slot. -/
def nextLoops (im : List Byte) (len : Nat) (i : Issue) (ls : List LoopSt) : List LoopSt × Nat :=
  let e := i.pc.toNat
  match i.ctl with
  | .goto pc => (keepLoops im (fetchPc im len pc.toNat) ls, pc.toNat)
  | .loop l =>
    if l.left = 0 then advance l.last.toNat (afterPc im l.last.toNat) ls else (l :: ls, l.first.toNat)
  | .brk =>
    (match ls with
     | l :: rest => advance l.last.toNat (afterPc im l.last.toNat) rest
     | [] => ([], e + i.len))
  | _ => advance e (e + i.len) ls

/-- What the bundle asks of the mode of its context: HALT before anything else, then the suspensions, fusion and a
barrier. -/
def State.ctlMode (s : State) (k r : Nat) (i : Issue) : State :=
  match i.ctl, i.park with
  | .halt, p => (s.unreserve (s.ctx k r).crew p).endCtx k r i.pc ((s.ctx k r).regs.tick - 1)
  | .susp q, _ => s.startSusp k r q
  | _, some (.susp q) => s.startSusp k r q
  | .fuse q, _ => (s.modCtx k r (fun x => { x with mode := .fuseWait q })).checkFuse k q
  | .rejoin, _ =>
    (match (s.core k).fuse with
     | some f => ((s.modCtx k r (fun x => { x with mode := .rejoinWait })).zeroLatches k r).checkRejoin k f.quad
     | none => s)
  | _, some (.barrier sc) => s.modCtx k r (fun x => { x with mode := .barrier sc false })
  | _, none => s

/-- The end of the bundle in issue. -/
def State.endBundle (s : State) : State :=
  let i := s.issue
  let k := i.k
  let r := i.r
  let im := (s.core k).imem
  let len := s.imglen (s.ctx k r).crew
  let s1 := i.post.foldl (fun t e => landDst t k r e.1 e.2) s
  let other := decide ((s.ctx k (1 - r)).mode ≠ .empty)
  let (ls, pc) := nextLoops im len i (s1.ctx k r).regs.loops
  let tok (g : Regs) : BitVec 4 := i.toks.foldl (fun t e =>
    let m : BitVec 4 := BitVec.ofNat 4 (2 ^ e.1.toNat)
    if e.2 then t ||| m else t &&& ~~~m) g.tok
  let s2 := s1.modCtx k r (fun x => { x with
    regs := { x.regs with pc := BitVec.ofNat 18 pc, tick := x.regs.tick + 1, loops := ls, tok := tok x.regs },
    stallCnt := 0, skipBrk := false,
    yieldCnt := if i.yld then 0 else if other then x.yieldCnt + 1 else x.yieldCnt })
  let s3 := s2.modCore k (fun c => { c with
    bankPaid := 0,
    ta := (match i.cfg with | some p => p.1 | none => c.ta),
    tb := (match i.cfg with | some p => p.2 | none => c.tb),
    ascfg := i.asc.getD c.ascfg,
    yielder := if i.yld && other && c.fuse.isNone then some r else c.yielder })
  let s4 := if i.dec then
      (s3.zeroLatches k r).modCore k (fun c => { c with fuse := c.fuse.map (fun f => { f with dec := true }) })
    else s3
  let s5 := if (s4.ctx k r).stepOne then
      (s4.modCtx k r (fun x => { x with stepOne := false })).postCond k r ⟨.debug, 0, 0, none⟩
    else s4
  s5.ctlMode k r i

/-! ### Going on waiting (R95, R159, R161, R170) -/

/-- A context that goes on waiting has its wait looked at again: what it waits for may have come while it was parked. A PBAR whose
publish is over arrives, a FUSE or REJOIN may be the last of its group. -/
def State.waitOn (s : State) (k r : Nat) : State :=
  let c := s.ctx k r
  match c.mode with
  | .barrier sc _ => (s.arrive k r).barrierStep sc c.crew k 4
  | .fuseWait q => s.checkFuse k q
  | .rejoinWait =>
    (match (s.core k).fuse with
     | some f => s.checkRejoin k f.quad
     | none => s)
  | _ => s

/-- RESUME: the parked context, and what it takes with it of its group, go on. -/
def State.resumeTrap (s : State) (k r : Nat) : State :=
  (k :: s.groupOf k).foldl (fun t p => (t.waitOn p 0).waitOn p 1) (s.returnTrap k r)

/-! ### Breakpoints (R171) -/

/-- An enabled breakpoint of CX_DBRK names the offset. -/
def breakHit (b : Word) (pc : Nat) : Bool :=
  (wb b 63 && decide (bf b 49 32 = pc)) || (wb b 62 && decide (bf b 17 0 = pc))

/-! ### Watchdogs (R163) and boundaries of waiting contexts -/

/-- The windows of CX_WDOG: ticks and cycles. -/
def wdogYield (w : Word) : Nat := 2 ^ min 40 (max 10 (bf w 5 0))
def wdogStall (w : Word) : Nat := 2 ^ min 40 (max 16 (bf w 37 32))

/-- A condition of cause WATCHDOG. -/
def wdogCond (info : Word) : Cond := ⟨.watchdog, 0, info, none⟩

/-- Offset of the bundle that a resident context issues next: padding is skipped (R169, R202). -/
def State.nextPc (s : State) (k r : Nat) : BitVec 18 :=
  BitVec.ofNat 18 (fetchPc (s.core k).imem (s.imglen (s.ctx k r).crew) (s.ctx k r).regs.pc.toNat)

/-- Park a member of a lock-step group because another one trapped (R162). -/
def State.parkGroup (s : State) (k r : Nat) : State :=
  match (s.ctx k r).mode with
  | .running | .barrier _ _ => s.park k r 0#8 true ⟨.group, 0, 0⟩ (s.nextPc k r)
  | _ => s

/-- A trap of a member in lock-step parks every other one at the same boundary (R162). -/
def State.groupStop (s : State) (k : Nat) : State :=
  ((s.groupOf k).filter (fun p => decide (p ≠ k))).foldl (fun t p => (t.parkGroup p 0).parkGroup p 1) s

/-- The record of a stall watchdog that expires while its context suspends: written at once, and nothing parks (R406). -/
def State.suspRec (s : State) (k r : Nat) : State :=
  let c := s.ctx k r
  match s.crew? c.crew with
  | none => s
  | some w =>
    s.postTrap c.crew
      { cause := .watchdog, slots := 0, lcore := w.lcore k, rslot := r, async := true, halted := false, image := w.image,
        pc := s.nextPc k r, tick := c.regs.tick, time := s.time, addr := 0, info := 1, seq := 0, resume := none }

/-- The yield watchdog of a context reaches its window. -/
def State.yieldDue (s : State) (k r : Nat) : Bool :=
  let c := s.ctx k r
  decide (c.mode = .running) && decide ((s.ctx k (1 - r)).mode ≠ .empty) && decide (wdogYield c.wdog ≤ c.yieldCnt)

/-- The stall watchdog of a context reaches its window. -/
def State.stallDue (s : State) (k r : Nat) : Bool :=
  let c := s.ctx k r
  (match c.mode with
   | .running | .barrier _ _ | .fuseWait _ | .rejoinWait | .suspending _ => true
   | _ => false) && decide (wdogStall c.wdog ≤ c.stallCnt)

def State.expireYield (s : State) (k r : Nat) : State :=
  if s.yieldDue k r then (s.modCtx k r (fun x => { x with yieldCnt := 0 })).postCond k r (wdogCond 0) else s

def State.expireStall (s : State) (k r : Nat) : State :=
  if s.stallDue k r then
    let t := s.modCtx k r (fun x => { x with stallCnt := 0 })
    match (s.ctx k r).mode with
    | .suspending _ => t.suspRec k r
    | _ => t.postCond k r (wdogCond 1)
  else s

/-- The watchdog of a context that waits in PBAR, FUSE or REJOIN is taken where the context stands (R163), with the oldest
condition named first (R168); without one, conditions wait for the next bundle. A lock-step group stops with it (R162). -/
def State.waitingTrap (s : State) (k r : Nat) : State :=
  let c := s.ctx k r
  if !c.conds.any (fun q => decide (q.cause = .watchdog)) then s
  else
    match c.mode, c.conds with
    | .barrier _ _, q :: l | .fuseWait _, q :: l | .rejoinWait, q :: l =>
      ((s.modCtx k r (fun x => { x with conds := l })).park k r 0#8 true ⟨q.cause, q.addr, q.info⟩
        (q.pc.getD (s.nextPc k r))).groupStop k
    | _, _ => s

/-- Both watchdogs of a context at a cycle, and the boundary of a waiting one. -/
def State.watchdogs (s : State) (k r : Nat) : State := ((s.expireYield k r).expireStall k r).waitingTrap k r

/-- YIELD_WATCHDOG_EXPIRE. -/
def execYieldWatchdogExpire (k r : Nat) (s : State) : Host.Outcome State Fault Refusal := .next (s.expireYield k r)

/-- STALL_WATCHDOG_EXPIRE. -/
def execStallWatchdogExpire (k r : Nat) (s : State) : Host.Outcome State Fault Refusal :=
  .next ((s.expireStall k r).waitingTrap k r)

end Sys2Proof.Machine
end

