-- ==== Sys2Proof/Machine/Memory.lean ====
section
/-!
DEFINITION. The L slot (R272 to R283): near loads and stores, gathers, far accesses, queues, atomics, publishes, refreshes,
barriers and waits.
-/

namespace Sys2Proof.Machine

/-- First wait of a list. -/
def firstWait : List (Option Wait) → Option Wait := firstSome id

/-- A wait when a condition holds. -/
def waitIf (b : Bool) (w : Wait) : Option Wait := if b then some w else none

/-- Bytes of a load size. -/
def ldBytes : LdSz → Nat
  | .b | .bs => 1
  | .h | .hs => 2
  | .w | .ws => 4
  | .d => 8

/-- Bytes of a store size. -/
def szBytes : Sz → Nat
  | .b => 1 | .h => 2 | .w => 4 | .d => 8

/-- A loaded value extended to 64 bits (R273). -/
def ldExt (z : LdSz) (v : Word) : Word :=
  match z with
  | .b => (v.setWidth 8).setWidth 64
  | .h => (v.setWidth 16).setWidth 64
  | .w => (v.setWidth 32).setWidth 64
  | .d => v
  | .bs => (v.setWidth 8).signExtend 64
  | .hs => (v.setWidth 16).signExtend 64
  | .ws => (v.setWidth 32).signExtend 64

/-- Effective address: base + Imm(disp, w) (R272). -/
def State.ea (s : State) (b : SSrc) (low w : Nat) (x : Ext) : Word := s.ss b + immVal low w x

/-! ### Near forms (R272 to R275, R55, R56) -/

/-- A near access of n bytes is in the local window and aligned. -/
def nearOk (va : Word) (n : Nat) : Bool :=
  decide (apBase ≤ va.toNat) && decide (va.toNat + n ≤ apBase + 0xC0000) && decide (va.toNat % n = 0)

/-- Offset in the scratchpad. -/
def nearOff (va : Word) : Nat := va.toNat - apBase

/-- Address trap of a near form. -/
def nearTrap (va : Word) (n : Nat) : List SlotTrap := trapAt (!nearOk va n) .address va

/-- A near load waits while a refresh of its context is pending (R93). -/
def nearWait (s : State) : Option Wait := waitIf (decide (s.ic.refs ≠ [])) .pub

/-- Land a near load: an uncorrectable word is met at the landing tick, and the record names the load's PC (R81). -/
def State.landLoad (s : State) (d : LandDst) (bs : List (Nat × Nat)) (v : Row) : State :=
  let ls := bs.flatMap (fun x => memLocs (spadBase s.issue.k + x.1) x.2)
  let e : Option QErr := if s.ueAt ls then some ⟨.eccUe, 0, 0, false, s.issue.pc⟩ else none
  (s.meetUpsets ls (some s.origin)).enterLanding
    { due := s.ic.regs.tick + 4, slot := .l, dst := d, val := v, fl := 0#7, wait := none, tileWord := false, err := e }

/-- LD (R273). -/
def execLd (p : Pr) (z : LdSz) (d : SDst) (b : SSrc) (k : BitVec 24) (x : Ext) (s : State) :
    Host.Outcome State Fault Refusal :=
  slotOp .l p 1 noReads (fun t => nearTrap (t.ea b k.toNat 24 x) (ldBytes z)) nearWait
    (fun t =>
      let o := nearOff (t.ea b k.toNat 24 x)
      t.landLoad (dstLand d) [(o, ldBytes z)] ((ldExt z (ofBytes 64 (t.nearRead o (ldBytes z)))).setWidth 1024)) s

/-- Bytes to be written from an offset of the scratchpad. -/
def spadBytes (o : Nat) (bs : List Byte) : List (Nat × Byte) := (List.range bs.length).map (fun i => (o + i, bs.getD i 0#8))

/-- A near store waits while a far access of its context that is to reach its bytes before it stands behind a pending refresh, by itself or
through others whose bytes it shares: R90 keeps the writes in order and R93 the read, so that nothing but a freeze for the refresh is left
(DEDUCED, log entry 78). -/
def State.storeAfter (s : State) (bs : List (Nat × Nat)) : Option Wait :=
  let own := (s.icore.far.filter (fun a => decide (a.who.uid = s.ic.uid) && decide (a.kind ≠ .prefetch)))
  let behind (a : FarAcc) (x : List (Nat × Nat) × Bool) : List (Nat × Nat) × Bool :=
    match s.farPieces a with
    | some l =>
      if l.any (fun p => x.1.any (fun q => overlap p.2.1 p.2.2 q.1 q.2)) then
        (l.map (·.2) ++ x.1, x.2 || s.ic.refs.any (fun f => a.after.contains f.id))
      else x
    | none => x
  waitIf (decide (s.ic.refs ≠ []) && (own.foldr behind (bs.map (fun b => (spadBase s.issue.k + b.1, b.2)), false)).2) .pub

/-- ST (R273): the bytes land at T + 2. -/
def execSt (p : Pr) (z : Sz) (a b : SSrc) (k : BitVec 24) (x : Ext) (s : State) : Host.Outcome State Fault Refusal :=
  slotOp .l p 1 noReads (fun t => nearTrap (t.ea b k.toNat 24 x) (szBytes z))
    (fun t => t.storeAfter [(nearOff (t.ea b k.toNat 24 x), szBytes z)])
    (fun t => t.landStore (spadBytes (nearOff (t.ea b k.toNat 24 x)) (toBytes (szBytes z) (t.ss a)))) s

/-- VLD (R274). -/
def execVld (p : Pr) (d : VDst) (b : SSrc) (k : BitVec 17) (x : Ext) (s : State) : Host.Outcome State Fault Refusal :=
  slotOp .l p 1 noReads (fun t => vdTraps d t ++ nearTrap (t.ea b k.toNat 17 x) 128) nearWait
    (fun t =>
      let o := nearOff (t.ea b k.toNat 17 x)
      t.landLoad (t.vd d 1024) [(o, 128)] (ofBytes 1024 (t.nearRead o 128))) s

/-- VST (R274). -/
def execVst (p : Pr) (a : VSrc) (b : SSrc) (k : BitVec 17) (x : Ext) (s : State) : Host.Outcome State Fault Refusal :=
  slotOp .l p 1 (vsWords a 1024) (fun t => vsTraps a t ++ nearTrap (t.ea b k.toNat 17 x) 128)
    (fun t => t.storeAfter [(nearOff (t.ea b k.toNat 17 x), 128)])
    (fun t => t.landStore (spadBytes (nearOff (t.ea b k.toNat 17 x)) (toBytes 128 (t.vs a)))) s

/-- Elements of a gather or scatter (R275). -/
def gatherN (z : Sz) : Nat := if z = .d then 16 else 32

/-- Element addresses of a gather or scatter (R275). -/
def State.gatherVa (s : State) (z : Sz) (b : SSrc) (ix : VSrc) : List Word :=
  (List.range (gatherN z)).map (fun i => s.ss b + (cell (s.vs ix) i).setWidth 64)

/-- Address traps of a gather: the first element at fault. -/
def gatherTraps (z : Sz) (b : SSrc) (ix : VSrc) (s : State) : List SlotTrap :=
  match (s.gatherVa z b ix).find? (fun v => !nearOk v (szBytes z)) with
  | some v => [⟨.address, v, 0⟩]
  | none => []

/-- Distinct lines in the most heavily addressed bank (R54, R56). -/
def bankLoad (os : List Nat) : Nat :=
  let ls := (os.map (· / 128)).eraseDups
  ((List.range 24).map (fun b => (ls.filter (fun l => l % 24 = b)).length)).foldl max 0

/-- Freeze cycles of a gather that are still to be inserted (R56). -/
def gatherWait (z : Sz) (b : SSrc) (ix : VSrc) (s : State) : Option Wait :=
  waitIf (decide (s.icore.bankPaid + 1 < bankLoad ((s.gatherVa z b ix).map nearOff))) .bank

/-- VLDG (R275). -/
def execVldg (p : Pr) (z : Sz) (d : VDst) (b : SSrc) (ix : VSrc) (s : State) : Host.Outcome State Fault Refusal :=
  slotOp .l p 1 (vsWords ix 1024) (fun t => vdTraps d t ++ vsTraps ix t ++ gatherTraps z b ix t)
    (fun t => firstWait [nearWait t, gatherWait z b ix t])
    (fun t =>
      let os := (t.gatherVa z b ix).map nearOff
      t.landLoad (t.vd d 1024) (os.map (fun o => (o, szBytes z)))
        (ofBytes 1024 (os.flatMap (fun o => t.nearRead o (szBytes z))))) s

/-- VSTS (R275): where elements overlap, the higher one remains. -/
def execVsts (p : Pr) (z : Sz) (a : VSrc) (b : SSrc) (ix : VSrc) (s : State) : Host.Outcome State Fault Refusal :=
  slotOp .l p 1 (fun t => vsWords ix 1024 t ++ vsWords a 1024 t)
    (fun t => vsTraps a t ++ vsTraps ix t ++ gatherTraps z b ix t)
    (fun t => firstWait [t.storeAfter ((t.gatherVa z b ix).map (fun v => (nearOff v, szBytes z))), gatherWait z b ix t])
    (fun t =>
      let bs := toBytes 128 (t.vs a)
      let n := szBytes z
      let os := (t.gatherVa z b ix).map nearOff
      t.landStore ((List.range os.length).flatMap (fun i => spadBytes (os.getD i 0) ((bs.drop (n * i)).take n)))) s

/-! ### Far loads and stores (R276 to R280) -/

/-- Address traps of a far form: alignment, class (R11, R19, R276). -/
def farTrap (ak : AK) (va : Word) (n al : Nat) (s : State) : List SlotTrap :=
  trapAt (decide (va.toNat % al ≠ 0) || (s.bind ak va n).isNone) .address va

/-- The parts that an access binds to. -/
def State.boundParts (s : State) (ak : AK) (va : Word) (n : Nat) : List Part :=
  match s.bind ak va n with
  | some b => b.parts
  | none => []

/-- The hold of a far access whose walk finds the walk queue full (R115): neither a fault's nor a full side log's, so that its cycles count
in HOLD_SYNC (R118, R137). -/
def State.walkWait (s : State) (u : Nat) (ak : AK) (va : Word) (n : Nat) : Option Wait :=
  match s.partsMiss s.issue.k u s.ic.xl.root ak (s.boundParts ak va n) with
  | some (p, v) =>
    let d := dieOf s.issue.k
    let key := walkKey s.ic.xl.root v
    waitIf (decide (p.cls = .paged) && (s.pruneWalks d key).walkFull d key) .sync
  | none => none

/-- The hold of a weight-view access (R65, R67, R68). -/
def State.boundWait (s : State) (ak : AK) (va : Word) (n : Nat) (store : Bool) : Option Wait :=
  match s.bind ak va n with
  | some b => s.halfWait s.issue.k b.half store
  | none => none

/-- The entries of a queue as the bundle's later slots count them: one that a POP of the bundle takes is gone, even if that POP still
waits (R89, R364, R399). -/
def State.qlen (s : State) (q : RQ) (n : Nat) : Nat := if s.issue.popped = some q then n - 1 else n

/-- An entry of qld is appended. -/
def State.pushQld (s : State) (e : QEnt) : State := s.modIc (fun c => { c with qld := c.qld ++ [e] })

/-- A far load into qld (R277). -/
def farLoad (p : Pr) (n al : Nat) (kind : QKind) (va : State → Word) (s : State) : Host.Outcome State Fault Refusal :=
  slotOp .l p 0 noReads
    (fun t => trapIf (decide (32 ≤ t.ic.qld.length)) .illegalState ++ farTrap .load (va t) n al t)
    (fun t => firstWait [t.boundWait .load (va t) n false, t.walkWait 0 .load (va t) n])
    (fun t =>
      let (id, u) := t.issueFar .load (va t) n 0#1024 (t.boundParts .load (va t) n)
      u.pushQld ⟨id, kind, none, none⟩) s

def execLdq (p : Pr) (z : LdSz) (b : SSrc) (k : BitVec 24) (x : Ext) (s : State) :=
  farLoad p (ldBytes z) (ldBytes z) (.scal z) (fun t => t.ea b k.toNat 24 x) s

def execVldq (p : Pr) (b : SSrc) (k : BitVec 17) (x : Ext) (s : State) :=
  farLoad p 128 8 .row (fun t => t.ea b k.toNat 17 x) s

/-- What a far store or an atomic waits for: a pending publish, the swap of a weight-seam half, a full side log, a full walk queue
(R68, R92, R115, R124). -/
def State.storeWait (s : State) (ak : AK) (va : Word) (n : Nat) (logs : Bool) : Option Wait :=
  firstWait [waitIf (decide (s.ic.pubs ≠ [])) .pub, s.boundWait ak va n true,
    waitIf (logs && decide (logCap 0 ≤ s.icore.eng.logL.length)) .slog, s.walkWait 0 ak va n]

/-- A far store (R279). -/
def farStore (p : Pr) (n al : Nat) (reads : State → List (Nat × Nat × Nat)) (more : State → List SlotTrap)
    (va : State → Word) (data : State → Row) (s : State) : Host.Outcome State Fault Refusal :=
  slotOp .l p 0 reads (fun t => more t ++ farTrap .store (va t) n al t) (fun t => t.storeWait .store (va t) n true)
    (fun t => (t.issueFar .store (va t) n (data t) (t.boundParts .store (va t) n)).2) s

def execStf (p : Pr) (z : Sz) (a b : SSrc) (k : BitVec 24) (x : Ext) (s : State) :=
  farStore p (szBytes z) (szBytes z) noReads noTraps (fun t => t.ea b k.toNat 24 x)
    (fun t => (t.ss a).setWidth 1024) s

def execVstf (p : Pr) (a : VSrc) (b : SSrc) (k : BitVec 17) (x : Ext) (s : State) :=
  farStore p 128 8 (vsWords a 1024) (vsTraps a) (fun t => t.ea b k.toNat 17 x) (fun t => t.vs a) s

/-- A result queue of the context in issue. -/
def State.queue (s : State) (q : RQ) : List QEnt :=
  match q with
  | .qld => s.ic.qld
  | .qas => s.ic.qas
  | .qrm => s.ic.qrm

/-- Remove the head of a result queue. -/
def State.popQueue (s : State) (q : RQ) : State :=
  s.modIc (fun c =>
    match q with
    | .qld => { c with qld := c.qld.drop 1 }
    | .qas => { c with qas := c.qas.drop 1 }
    | .qrm => { c with qrm := c.qrm.drop 1 })

/-- The head has failed and no record has named it (R405). -/
def headTrap (q : List QEnt) : List SlotTrap :=
  match q with
  | e :: _ =>
    (match e.err with
     | some x => if x.reported then [] else [⟨x.cause, x.addr, x.info⟩]
     | none => [])
  | [] => []

/-- The kind of the head does not match TD, or there is no head (R278). -/
def headBad (q : List QEnt) (row : Bool) : Bool :=
  match q with
  | e :: _ => decide (e.kind = .row) != row
  | [] => true

/-- The value that a POP lands: zero for a reported failure (R278, R405). -/
def popVal (q : List QEnt) : Row :=
  match q with
  | e :: _ =>
    if e.err.isSome then 0#1024
    else match e.kind with
      | .row => e.val.getD 0#1024
      | .scal z => (ldExt z ((e.val.getD 0#1024).setWidth 64)).setWidth 1024
  | [] => 0#1024

/-- A head that has not arrived: the core freezes, or the context is held for a fault (R255, R119). -/
def headWait (q : List QEnt) (s : State) : Option Wait :=
  match q with
  | e :: _ =>
    if e.val.isSome || e.err.isSome then none
    else if s.farHeld s.issue.k e.id then some .flt else some .far
  | [] => none

/-- POP (R278). -/
def execPop (p : Pr) (q : RQ) (d : SDst ⊕ VDst) (s : State) : Host.Outcome State Fault Refusal :=
  slotOp .l p 1 noReads
    (fun t =>
      (match d with
       | .inl _ => []
       | .inr v => vdTraps v t) ++
      trapIf (headBad (t.queue q) d.isRight) .illegalState ++ headTrap (t.queue q))
    (fun t => headWait (t.queue q) t)
    (fun t =>
      let dst := match d with
        | .inl x => dstLand x
        | .inr v => t.vd v 1024
      (t.popQueue q).land .l dst (popVal (t.queue q)) 1) s

/-- A prefetch does nothing: an aperture window, or the heap window without RD (R19, R31). -/
def pfhIdle (va : Word) (s : State) : Bool :=
  decide (apBase ≤ va.toNat) || (inHeap s.ic.xl va.toNat && !wb s.ic.xl.hctl 1)

/-- PFH (R280). -/
def execPfh (p : Pr) (b : SSrc) (k : BitVec 24) (x : Ext) (s : State) : Host.Outcome State Fault Refusal :=
  slotOp .l p 0 noReads
    (fun t =>
      let va := t.ea b k.toNat 24 x
      trapAt (if apBase ≤ va.toNat then (t.bind .scale va 1).isNone else decide (2 ^ 56 ≤ va.toNat)) .address va)
    (fun t =>
      let va := t.ea b k.toNat 24 x
      if pfhIdle va t then none else t.walkWait 0 .prefetch va 1)
    (fun t =>
      let va := t.ea b k.toNat 24 x
      if pfhIdle va t then t else (t.issueFar .prefetch va 1 0#1024 (t.boundParts .prefetch va 1)).2) s

/-! ### Atomics (R281) -/

/-- Bytes of an atomic. -/
def dwBytes (dw : Bool) : Nat := if dw then 8 else 4

/-- The die of an atomic's home copy: by the TLBs, else by the page tables as they stand; none where no leaf maps it. -/
def State.sumDie (s : State) (k : Nat) (root va : Word) (c : ACls) : Option Nat :=
  match c with
  | .loc => some (dieOf k)
  | .phys a => some (homeDie a)
  | .paged =>
    match s.tlbFind k 0 root va.toNat .atomic with
    | some e => some (homeDie (e.pa va.toNat))
    | none =>
      match (s.walk (dieOf k) root va.toNat .atomic).1 with
      | .leaf pte _ bits => some (homeDie (leafPa pte bits va.toNat))
      | .fault _ _ => none

/-- The sums of exact mode that cores have issued and that are not recorded yet, each with its die: far accesses and side-log entries. -/
def State.sumsDue (s : State) : List (Option Nat) :=
  (List.range s.cores.length).flatMap (fun k =>
    let c := s.core k
    (c.far.filter (fun a => (match a.kind with
        | .atom .fadd _ _ => true
        | _ => false) && s.exact? a.who.crew)).flatMap (fun a => a.parts.map (fun p => s.sumDie k a.root p.va p.cls)) ++
      (c.eng.logL.filter (fun e => (match e.kind with
        | .red .fadd _ => true
        | _ => false) && s.exact? e.who.crew)).map (fun e => s.sumDie k e.root e.va e.cls))

/-- The buffer of ordered sums of the home die is full for a sum that issues: entries, and sums issued before it and not recorded, which
take theirs first, so that a sum that has issued finds room (R98; log entry 66). -/
def ordsumFull (op : AOp) (dw : Bool) (va : Word) (s : State) : Bool :=
  decide (op = .fadd) && s.exact? s.ic.crew &&
    (match s.boundParts .atomic va (dwBytes dw) with
     | [q] =>
       (match s.sumDie s.issue.k s.ic.xl.root q.va q.cls with
        | some d => decide (2048 ≤ (s.die d).ordsum.length + (s.sumsDue.filter (fun x => decide (x = some d))).length)
        | none => false)
     | _ => false)

/-- ATOM (R281). -/
def execAtom (p : Pr) (op : AOp) (dw : Bool) (d : SDst) (a b c : SSrc) (s : State) : Host.Outcome State Fault Refusal :=
  let res := decide (d ≠ .off)
  slotOp .l p (if res then 1 else 0) noReads
    (fun t => farTrap .atomic (t.ss a) (dwBytes dw) (dwBytes dw) t ++ trapAt (ordsumFull op dw (t.ss a) t) .ordsumFull (t.ss a))
    (fun t => t.storeWait .atomic (t.ss a) (dwBytes dw) (!res))
    (fun t =>
      let data : Row := (t.ss b).setWidth 1024 ||| ((t.ss c).setWidth 1024 <<< 64)
      let (id, u) := t.issueFar (.atom op dw res) (t.ss a) (dwBytes dw) data (t.boundParts .atomic (t.ss a) (dwBytes dw))
      if res then u.landWait .l (dstLand d) 32 id else u) s

/-! ### Publish, refresh, barriers (R282) -/

def execPub (p : Pr) (sc : Scope) (s : State) : Host.Outcome State Fault Refusal :=
  slotOp .l p 0 noReads noTraps noWaits (fun t => (t.startPub .pub sc).2) s

def execRef (p : Pr) (sc : Scope) (s : State) : Host.Outcome State Fault Refusal :=
  slotOp .l p 0 noReads noTraps noWaits (fun t => (t.startRef sc []).2) s

/-- PHASE: a publish, and a refresh behind it (R94). -/
def execPhase (p : Pr) (sc : Scope) (s : State) : Host.Outcome State Fault Refusal :=
  slotOp .l p 0 noReads noTraps noWaits
    (fun t =>
      let (id, u) := t.startPub (.phase (t.nextId + 1)) sc
      (u.startRef sc [id]).2) s

/-- PBAR: its publish begins, and the context waits after the bundle (R95). -/
def execPbar (p : Pr) (sc : Scope) (s : State) : Host.Outcome State Fault Refusal :=
  slotOp .l p 0 noReads noTraps noWaits
    (fun t =>
      let u := (t.startPub .pbar sc).2
      { u with issue := { u.issue with park := some (.barrier sc) } }) s

/-! ### WAITA (R105, R283) -/

/-- The condition of a WAITA. -/
def wcHolds (c : Wc) (a v : Word) : Bool :=
  match c with
  | .eq => a == v
  | .ne => a != v
  | .ge => !a.slt v
  | .lt => a.slt v
  | .geu => !a.ult v
  | .ltu => a.ult v

/-- The register number that a record can carry for a comparison value (R145, R283). -/
def waitSv (v : SSrc) : Option (BitVec 3) :=
  match v with
  | .reg n => if n.toNat ≤ 4 then some (n.setWidth 3) else none
  | .latch _ _ => none

/-- The wait read of a WAITA goes out to an address (R283). -/
def State.regWait (s : State) (va : Word) : State :=
  let (id, u) := s.issueFar .waitRead va 8 0#1024 (s.boundParts .waitRead va 8)
  u.modIc (fun c => { c with waitRd := some ⟨id, none, none⟩ })

/-- The value of the wait read, once it has returned. -/
def State.waitVal (s : State) : Option Word := s.ic.waitRd.bind (·.val)

/-- The WAITA has read and its condition fails: it would park. -/
def waitFails (c : Wc) (v : SSrc) (s : State) : Bool :=
  match s.waitVal with
  | some x => !wcHolds c x (s.ss v)
  | none => false

/-- Causes of a WAITA. -/
def waitTraps (c : Wc) (a v : SSrc) (s : State) : List SlotTrap :=
  farTrap .waitRead (s.ss a) 8 8 s ++
  (match s.ic.waitRd.bind (·.err) with
   | some x => [⟨x.cause, x.addr, x.info⟩]
   | none => []) ++
  (if waitFails c v s then trapIf (waitSv v).isNone .illegalState ++ suspTraps s else [])

/-- The core freezes until the wait read returns; a fault holds the context (R283). -/
def waitHold (s : State) : Option Wait :=
  match s.ic.waitRd with
  | none => some .far
  | some w => if w.val.isSome then none else if s.farHeld s.issue.k w.id then some .flt else some .far

/-- The effect of a WAITA whose wait read has returned: the refresh of R105, or the suspension of R147. The refresh is performed at
once, and does not wait for the context's earlier far reads, as R93 and R94 state of REF and PHASE alone (DESIGN CHOICE, log
entry 53). -/
def waitaEff (sc : Scope) (c : Wc) (a v : SSrc) (t : State) : State :=
  let u := t.modIc (fun x => { x with waitRd := none })
  if waitFails c v t then
    let q := t.suspSlot.getD 0
    let w := u.reserve q
    { w with issue := { w.issue with park := some (.susp
      { qslot := q, waiting := true, any := false, cc := c, scope := sc, sv := (waitSv v).getD 0, addr := t.ss a }) } }
  else u.refresh t.issue.k

/-- The wait read goes out unless the walk queue is full. -/
def State.sendWait (s : State) (va : Word) : State := if (s.walkWait 0 .waitRead va 8).isSome then s else s.regWait va

def execWaita (p : Pr) (sc : Scope) (c : Wc) (a v : SSrc) (s : State) : Host.Outcome State Fault Refusal :=
  match slotOp .l p 0 noReads (waitTraps c a v) waitHold (waitaEff sc c a v) s with
  | .next t => .next (if t.issue.res = .waits .far ∧ s.ic.waitRd = none then t.sendWait (s.ss a) else t)
  | o => o

end Sys2Proof.Machine
end

