-- ==== Sys2Proof/Machine/Integer.lean ====
section
/-!
DEFINITION. The I slot (R253, R262 to R271): integer arithmetic, bits, compares, predicates, registers and time.
-/

namespace Sys2Proof.Machine

/-- An I-slot result: one landing after n ticks. -/
def iOp (p : Pr) (d : SDst) (n : Nat) (r : State → Word) (s : State) : Host.Outcome State Fault Refusal :=
  slotOp .i p 1 noReads noTraps noWaits (fun t => t.land .i (dstLand d) ((r t).setWidth 1024) n) s

/-- An I-slot operation of two operands, the second a source or an immediate (R262). -/
def iBin (f : Word → Word → Word) (n : Nat) (p : Pr) (d : SDst) (a : SSrc) (b : SOp) (s : State) :
    Host.Outcome State Fault Refusal :=
  iOp p d n (fun t => f (t.ss a) (t.so b)) s

/-- An I-slot operation of one operand. -/
def iUn (f : Word → Word) (n : Nat) (p : Pr) (d : SDst) (a : SSrc) (s : State) : Host.Outcome State Fault Refusal :=
  iOp p d n (fun t => f (t.ss a)) s

/-! ### The results (R262 to R264) -/

def mulhS (a b : Word) : Word := ((a.signExtend 128) * (b.signExtend 128)).extractLsb' 64 64
def mulhU (a b : Word) : Word := ((a.setWidth 128) * (b.setWidth 128)).extractLsb' 64 64

/-- Quotient truncated toward zero; by zero all ones; −2^63 / −1 is −2^63 (R263). -/
def divS (a b : Word) : Word := if b = 0#64 then BitVec.allOnes 64 else a.sdiv b
def divU (a b : Word) : Word := if b = 0#64 then BitVec.allOnes 64 else a / b

/-- Remainder with the sign of the dividend; by zero the dividend (R263). -/
def remS (a b : Word) : Word := if b = 0#64 then a else a.srem b
def remU (a b : Word) : Word := if b = 0#64 then a else a % b

def minS (a b : Word) : Word := if a.slt b then a else b
def maxS (a b : Word) : Word := if a.slt b then b else a
def minU (a b : Word) : Word := if a.ult b then a else b
def maxU (a b : Word) : Word := if a.ult b then b else a

/-- Shift and rotation counts are taken modulo 64 (R262). -/
def shl64 (a b : Word) : Word := a <<< (b.toNat % 64)
def shr64 (a b : Word) : Word := a >>> (b.toNat % 64)
def sra64 (a b : Word) : Word := a.sshiftRight (b.toNat % 64)
def rotl64 (a b : Word) : Word := a.rotateLeft (b.toNat % 64)

/-- Zeros counted from bit n − 1 down to the first set bit. -/
def leadZeros (a : Word) : Nat → Nat
  | 0 => 0
  | n + 1 => if a.getLsbD n then 0 else leadZeros a n + 1

/-- Zeros counted from bit i up to the first set bit, over n bits. -/
def trailZeros (a : Word) (i : Nat) : Nat → Nat
  | 0 => 0
  | n + 1 => if a.getLsbD i then 0 else trailZeros a (i + 1) n + 1

/-- Set bits among the low n. -/
def popCount (a : Word) : Nat → Nat
  | 0 => 0
  | n + 1 => b2n (a.getLsbD n) + popCount a n

def clz64 (a : Word) : Word := BitVec.ofNat 64 (leadZeros a 64)
def ctz64 (a : Word) : Word := BitVec.ofNat 64 (trailZeros a 0 64)
def popc64 (a : Word) : Word := BitVec.ofNat 64 (popCount a 64)

/-- The carry-less product of a by the low n bits of b. -/
def clmulBits (a b : BitVec 128) : Nat → BitVec 128
  | 0 => 0#128
  | n + 1 => (if b.getLsbD n then a <<< n else 0#128) ^^^ clmulBits a b n

/-- The 128-bit carry-less product (R262). -/
def clmul128 (a b : Word) : BitVec 128 := clmulBits (a.setWidth 128) (b.setWidth 128) 64

def clmulLo (a b : Word) : Word := (clmul128 a b).extractLsb' 0 64
def clmulHi (a b : Word) : Word := (clmul128 a b).extractLsb' 64 64

/-- Position and length of a field specification, the length cut at bit 63 (R264). -/
def fieldSpec (b : Word) : Nat × Nat :=
  let p := bf b 5 0
  let l := bf b 13 8 + 1
  (p, min (p + l) 64 - p)

/-- EXTR (R264). -/
def extr64 (a b : Word) : Word :=
  let (p, l) := fieldSpec b
  (a >>> p) &&& BitVec.ofNat 64 (2 ^ l - 1)

/-- INS into an old value (R264). -/
def ins64 (old a b : Word) : Word :=
  let (p, l) := fieldSpec b
  let m : Word := BitVec.ofNat 64 ((2 ^ l - 1) * 2 ^ p)
  (old &&& ~~~m) ||| ((a <<< p) &&& m)

/-- The condition of a CMP (R266). -/
def Cc.holds (c : Cc) (a b : Word) : Bool :=
  match c with
  | .eq => a == b
  | .ne => a != b
  | .lt => a.slt b
  | .ge => !a.slt b
  | .ltu => a.ult b
  | .geu => !a.ult b

/-! ### The instructions -/

def execAdd (p : Pr) (d : SDst) (a : SSrc) (b : SOp) (s : State) := iBin (· + ·) 1 p d a b s
def execSub (p : Pr) (d : SDst) (a : SSrc) (b : SOp) (s : State) := iBin (· - ·) 1 p d a b s
def execMul (p : Pr) (d : SDst) (a : SSrc) (b : SOp) (s : State) := iBin (· * ·) 3 p d a b s
def execMulh (p : Pr) (d : SDst) (a : SSrc) (b : SOp) (s : State) := iBin mulhS 3 p d a b s
def execMulhu (p : Pr) (d : SDst) (a : SSrc) (b : SOp) (s : State) := iBin mulhU 3 p d a b s
def execDiv (p : Pr) (d : SDst) (a : SSrc) (b : SOp) (s : State) := iBin divS 12 p d a b s
def execDivu (p : Pr) (d : SDst) (a : SSrc) (b : SOp) (s : State) := iBin divU 12 p d a b s
def execRem (p : Pr) (d : SDst) (a : SSrc) (b : SOp) (s : State) := iBin remS 12 p d a b s
def execRemu (p : Pr) (d : SDst) (a : SSrc) (b : SOp) (s : State) := iBin remU 12 p d a b s
def execMin (p : Pr) (d : SDst) (a : SSrc) (b : SOp) (s : State) := iBin minS 1 p d a b s
def execMax (p : Pr) (d : SDst) (a : SSrc) (b : SOp) (s : State) := iBin maxS 1 p d a b s
def execMinu (p : Pr) (d : SDst) (a : SSrc) (b : SOp) (s : State) := iBin minU 1 p d a b s
def execMaxu (p : Pr) (d : SDst) (a : SSrc) (b : SOp) (s : State) := iBin maxU 1 p d a b s
def execAnd (p : Pr) (d : SDst) (a : SSrc) (b : SOp) (s : State) := iBin (· &&& ·) 1 p d a b s
def execOr (p : Pr) (d : SDst) (a : SSrc) (b : SOp) (s : State) := iBin (· ||| ·) 1 p d a b s
def execXor (p : Pr) (d : SDst) (a : SSrc) (b : SOp) (s : State) := iBin (· ^^^ ·) 1 p d a b s
def execAndn (p : Pr) (d : SDst) (a : SSrc) (b : SOp) (s : State) := iBin (fun x y => x &&& ~~~y) 1 p d a b s
def execShl (p : Pr) (d : SDst) (a : SSrc) (b : SOp) (s : State) := iBin shl64 1 p d a b s
def execShr (p : Pr) (d : SDst) (a : SSrc) (b : SOp) (s : State) := iBin shr64 1 p d a b s
def execSra (p : Pr) (d : SDst) (a : SSrc) (b : SOp) (s : State) := iBin sra64 1 p d a b s
def execRotl (p : Pr) (d : SDst) (a : SSrc) (b : SOp) (s : State) := iBin rotl64 1 p d a b s
def execClz (p : Pr) (d : SDst) (a : SSrc) (s : State) := iUn clz64 1 p d a s
def execCtz (p : Pr) (d : SDst) (a : SSrc) (s : State) := iUn ctz64 1 p d a s
def execPopc (p : Pr) (d : SDst) (a : SSrc) (s : State) := iUn popc64 1 p d a s
def execClmul (p : Pr) (d : SDst) (a : SSrc) (b : SOp) (s : State) := iBin clmulLo 2 p d a b s
def execClmulh (p : Pr) (d : SDst) (a : SSrc) (b : SOp) (s : State) := iBin clmulHi 2 p d a b s

/-- ADDI (R265). -/
def execAddi (p : Pr) (d : SDst) (a : SSrc) (k : BitVec 8) (x : Ext) (s : State) :=
  iUn (· + immVal k.toNat 8 x) 1 p d a s

/-- LI (R265). -/
def execLi (p : Pr) (d : SDst) (k : BitVec 14) (x : Ext) (s : State) := iOp p d 1 (fun _ => immVal k.toNat 14 x) s

def execExtr (p : Pr) (d : SDst) (a b : SSrc) (s : State) := iOp p d 1 (fun t => extr64 (t.ss a) (t.ss b)) s

/-- The register that a destination names, as INS reads it: zero for s0 or a suppressed one (R264). -/
def dstOld (d : SDst) (s : State) : Word :=
  match d with
  | .reg n => s.ic.regs.getS n
  | .off => 0#64

def execIns (p : Pr) (d : SDst) (a b : SSrc) (s : State) :=
  iOp p d 1 (fun t => ins64 (dstOld d t) (t.ss a) (t.ss b)) s

/-- A predicate result: 0 or 1, one landing at T + 1, and an entry of the I ring (R253, R266, R267). -/
def iPred (p : Pr) (pd : BitVec 3) (r : State → Bool) (s : State) : Host.Outcome State Fault Refusal :=
  slotOp .i p 1 noReads noTraps noWaits (fun t => t.land .i (.pred pd) (BitVec.ofNat 1024 (b2n (r t))) 1) s

/-- Pred of a predicate operand (R227). -/
def State.pr (s : State) (p : Pr) : Bool := s.ic.regs.getP p.n != p.neg

def execCmp (p : Pr) (pd : BitVec 3) (c : Cc) (a : SSrc) (b : SOp) (s : State) :=
  iPred p pd (fun t => Cc.holds c (t.ss a) (t.so b)) s
def execPand (p : Pr) (pd : BitVec 3) (a b : Pr) (s : State) := iPred p pd (fun t => t.pr a && t.pr b) s
def execPor (p : Pr) (pd : BitVec 3) (a b : Pr) (s : State) := iPred p pd (fun t => t.pr a || t.pr b) s
def execPxor (p : Pr) (pd : BitVec 3) (a b : Pr) (s : State) := iPred p pd (fun t => t.pr a != t.pr b) s

/-- SEL (R268). -/
def execSel (p : Pr) (d : SDst) (n : BitVec 3) (a : SSrc) (b : SOp) (s : State) :=
  iOp p d 1 (fun t => if t.ic.regs.getP n then t.ss a else t.so b) s

/-! ### Registers and time (R269 to R271) -/

/-- Level descriptor j of a launch record (R138, R139). -/
def levelDesc (l : List Word) (j : Nat) : Nat :=
  if j < 4 then bf (lrw l 10) (16 * j + 15) (16 * j) else bf (lrw l 11) (16 * (j - 4) + 15) (16 * (j - 4))

/-- Number of hierarchy levels (R138). -/
def nlev (l : List Word) : Nat := bf (lrw l 1) 55 52

/-- Domain of a level descriptor (R139). -/
def levDomain (d : Nat) : Nat := d / 2 ^ 13

/-- Extent of a level descriptor (R139). -/
def levExtent (d : Nat) : Nat := d % 1024 + 1

/-- Product of the extents of the levels from the core level up to level j − 1 (R141). -/
def extentBelow (l : List Word) (j : Nat) : Nat :=
  ((List.range j).filter (fun i => decide (1 ≤ levDomain (levelDesc l i)))).foldl
    (fun a i => a * levExtent (levelDesc l i)) 1

/-- CX_LVLj of logical core n (R141). -/
def cxLvl (l : List Word) (n j : Nat) : Word :=
  if nlev l ≤ j then 0#64
  else
    let d := levelDesc l j
    let co :=
      match levDomain d with
      | 0 => 0
      | 7 => bf (lrw l 22) 63 54
      | _ => n / extentBelow l j % levExtent d
    BitVec.ofNat 64 (co * 2 ^ 16 + d)

/-- CX_CREW (R141). -/
def State.cxCrew (s : State) (k r : Nat) : Word :=
  match s.crew? (s.ctx k r).crew with
  | some c => BitVec.ofNat 64 (c.lcore k * 2 ^ 32 + c.size * 2 ^ 24 + c.id.toNat)
  | none => 0#64

/-- The value of a register of R269 for a resident slot. -/
def State.csr (s : State) (k r : Nat) (x : Csr) : Word :=
  let c := s.ctx k r
  let n := (s.core k).cnt
  match x with
  | .fflags => c.regs.fflags.setWidth 64
  | .tick => c.regs.tick
  | .prio => c.regs.prio.setWidth 64
  | .crew => s.cxCrew k r
  | .lvl j =>
    match s.crew? c.crew with
    | some w => cxLvl w.lr (w.lcore k) j.toNat
    | none => 0#64
  | .core j =>
    match j.toNat with
    | 0 => n.frzCur | 1 => n.frzBank | 2 => n.frzSwap | 3 => n.frzPub | 4 => n.fifoStarve | 5 => n.frzFar
    | 6 => n.splitCyc | _ => n.pfDrop
  | .hold j =>
    match j.toNat with
    | 0 => c.holdFlt | 1 => c.holdSlog | 2 => c.holdSync | _ => c.mergeDeny

def execCsrr (p : Pr) (d : SDst) (x : Csr) (s : State) :=
  iOp p d 1 (fun t => t.csr t.issue.k t.issue.r x) s

/-- CSRW: the register written lands at T + 1; the landing ignores what R269 and R144 ignore. -/
def execCsrw (p : Pr) (x : Csr) (a : SSrc) (s : State) : Host.Outcome State Fault Refusal :=
  slotOp .i p 1 noReads noTraps noWaits (fun t => t.land .i (.csr x) ((t.ss a).setWidth 1024) 1) s

/-- SQR: the step register, zero for a crew that no sequencer serves (R174, R271). -/
def execSqr (p : Pr) (d : SDst) (n : BitVec 4) (s : State) :=
  iOp p d 1 (fun t => match t.seqDie t.ic.crew with
    | some _ => Tab.get t.icore.steps n.toNat
    | none => 0#64) s

def execGettime (p : Pr) (d : SDst) (s : State) := iOp p d 1 (fun t => t.time) s

end Sys2Proof.Machine
end

