-- ==== Sys2Proof/Machine/Special.lean ====
section
/-!
DEFINITION. The special functions of R302 and R303. Every result is the exact value rounded once. A square root is
compared exactly; a transcendental value is enclosed by fixed-point arithmetic with 320 fraction bits, far below the
distance of any result from a rounding boundary (log entry 14), and goes to the one rounding as a magnitude with a sticky bit.
-/

namespace Sys2Proof.Machine

/-- Fraction bits of the fixed-point enclosures. -/
def fxP : Nat := 320

/-- One in fixed point. -/
def fxOne : Int := (2 ^ fxP : Nat)

/-- Product of two fixed-point numbers, rounded down. -/
def fxMul (a b : Int) : Int := a * b / fxOne

/-- Sum of a series whose next term follows from the last one and the index; n terms. -/
def fxSeries (next : Nat → Int → Int) : Nat → Nat → Int → Int → Int
  | 0, _, _, acc => acc
  | n + 1, k, t, acc => fxSeries next n (k + 1) (next k t) (acc + t)

/-- Σ z^(2k+1) / (2k+1) over n terms: the inverse hyperbolic tangent of a small z. -/
def fxAtanhAux (z2 : Int) : Nat → Nat → Int → Int → Int
  | 0, _, _, acc => acc
  | n + 1, k, p, acc => fxAtanhAux z2 n (k + 1) (fxMul p z2) (acc + p / (2 * k + 1 : Nat))

def fxAtanh (z : Int) : Int := fxAtanhAux (fxMul z z) 110 0 z 0

/-- ln 2 = 2 atanh(1/3). -/
def fxLn2 : Int := 2 * fxAtanh (fxOne / 3)

/-- Alternating series for the inverse tangent of 1/n. -/
def fxAtanAux (z2 : Int) : Nat → Nat → Int → Int → Int
  | 0, _, _, acc => acc
  | n + 1, k, p, acc =>
    fxAtanAux z2 n (k + 1) (fxMul p z2) (if k % 2 = 0 then acc + p / (2 * k + 1 : Nat) else acc - p / (2 * k + 1 : Nat))

def fxAtanInv (n : Nat) : Int :=
  let z := fxOne / n
  fxAtanAux (fxMul z z) 80 0 z 0

/-- π / 2 by Machin's formula. -/
def fxHalfPi : Int := 2 * (4 * fxAtanInv 5 - fxAtanInv 239)

/-- e^y for 0 ≤ y < 1. -/
def fxExpSmall (y : Int) : Int := fxSeries (fun k t => fxMul t y / (k + 1 : Nat)) 80 0 fxOne 0

/-- A finite value in fixed point, rounded down in magnitude; exact when its denominator divides 2^320. -/
def fxOf (s : Bool) (n d : Nat) : Int := snum s (n * 2 ^ fxP / d)

/-- e^y for any y as a magnitude in fixed point and a power of two: y = i × ln 2 + r. -/
def fxExp (y : Int) : Int × Int :=
  let i := y / fxLn2
  (fxExpSmall (y - i * fxLn2), i)

/-- sin and cos of r for |r| below 1. -/
def fxSinSmall (r : Int) : Int :=
  let r2 := fxMul r r
  fxSeries (fun k t => -(fxMul t r2 / ((2 * k + 2) * (2 * k + 3) : Nat))) 50 0 r 0

def fxCosSmall (r : Int) : Int :=
  let r2 := fxMul r r
  fxSeries (fun k t => -(fxMul t r2 / ((2 * k + 1) * (2 * k + 2) : Nat))) 50 0 fxOne 0

/-- sin of x + q quarter turns, by reduction to the nearest multiple of π / 2. -/
def fxSinQ (x : Int) (q : Int) : Int :=
  let h := fxHalfPi
  let k := (2 * x + h) / (2 * h)
  let r := x - k * h
  match ((k + q) % 4).toNat with
  | 0 => fxSinSmall r
  | 1 => fxCosSmall r
  | 2 => -fxSinSmall r
  | _ => -fxCosSmall r

/-- A fixed-point result × 2^e as a value to be rounded with a sticky bit. -/
def fxNum (v e : Int) : Num := .dyadic (decide (v < 0)) v.natAbs (e - fxP)

/-- Round a transcendental value to nearest even: it is never representable, so NX is set (R302). -/
def roundTrans (f : Fmt) (v : Num) : Nat × Flags := roundFloat f .ne false v true

/-- Square root of n / d with 128 extra bits: the floor of the magnitude and whether it is inexact. -/
def sqrtNum (n d : Nat) : Num × Bool :=
  let k := 128 + Nat.log2 d
  let m := n * d * 4 ^ k
  let r := isqrt m
  (.fin false r (d * 2 ^ k), decide (r * r ≠ m))

/-- VEXP2 (R302, R303). -/
def spExp2 (f : Fmt) (c : Nat) : Nat × Flags :=
  match floatValue f c with
  | .nan => (f.nanCode, 0#7)
  | .inf true => (0, 0#7)
  | .inf false => (f.infCode, 0#7)
  | .fin s n d =>
    if n % d = 0 then roundFloat f .ne false (.dyadic false 1 (max (-512) (min 512 (snum s (n / d))))) false
    else
      let i := (snum s n) / d
      if 512 < i then roundFloat f .ne false (.dyadic false 1 512) true
      else if i < -512 then roundFloat f .ne false (.dyadic false 1 (-512)) true
      else
        let r := fxOf false ((snum s n - i * d).toNat) d
        roundTrans f (fxNum (fxExpSmall (fxMul r fxLn2)) i)

/-- VLOG2 (R302, R303). -/
def spLog2 (f : Fmt) (c : Nat) : Nat × Flags :=
  match floatValue f c with
  | .nan => (f.nanCode, 0#7)
  | .inf true => (f.nanCode, flagNV)
  | .inf false => (f.infCode, 0#7)
  | .fin s n d =>
    if n = 0 then (f.signBit + f.infCode, flagDZ)
    else if s then (f.nanCode, flagNV)
    else
      let e := floorLog2 n d
      let p := pow2 (-e)
      let m := fxOf false (n * p.1) (d * p.2)
      if m = fxOne then roundFloat f .ne false (.ofInt e) false
      else
        let z := (m - fxOne) * fxOne / (m + fxOne)
        let l := 2 * fxAtanh z * fxOne / fxLn2
        roundTrans f (fxNum (e * fxOne + l) 0)

/-- VRCP under RND (R302, R303). -/
def spRcp (f : Fmt) (mode : Mode) (c : Nat) : Nat × Flags :=
  match floatValue f c with
  | .nan => (f.nanCode, 0#7)
  | .inf s => ((if s then f.signBit else 0), 0#7)
  | .fin s n d =>
    if n = 0 then ((if s then f.signBit else 0) + f.infCode, flagDZ)
    else roundFloat f mode false (.fin s d n) false

/-- VRSQ (R302, R303); 1 / √(+∞) is the exact limit +0. -/
def spRsq (f : Fmt) (c : Nat) : Nat × Flags :=
  match floatValue f c with
  | .nan => (f.nanCode, 0#7)
  | .inf true => (f.nanCode, flagNV)
  | .inf false => (0, 0#7)
  | .fin s n d =>
    if n = 0 then ((if s then f.signBit else 0) + f.infCode, flagDZ)
    else if s then (f.nanCode, flagNV)
    else
      let (v, st) := sqrtNum d n
      roundFloat f .ne false v st

/-- VSQRT under RND (R302, R303). -/
def spSqrt (f : Fmt) (mode : Mode) (c : Nat) : Nat × Flags :=
  match floatValue f c with
  | .nan => (f.nanCode, 0#7)
  | .inf true => (f.nanCode, flagNV)
  | .inf false => (f.infCode, 0#7)
  | .fin s n d =>
    if n = 0 then ((if s then f.signBit else 0), 0#7)
    else if s then (f.nanCode, flagNV)
    else
      let (v, st) := sqrtNum n d
      roundFloat f mode false v st

/-- VSIN (q = 0) and VCOS (q = 1) (R302, R303). -/
def spSin (q : Int) (f : Fmt) (c : Nat) : Nat × Flags :=
  match floatValue f c with
  | .nan => (f.nanCode, 0#7)
  | .inf _ => (f.nanCode, flagRANGE)
  | .fin s n d =>
    if 65536 * d < n then (f.nanCode, flagRANGE)
    else if n = 0 then
      (if q = 0 then ((if s then f.signBit else 0), 0#7) else roundFloat f .ne false (.fin false 1 1) false)
    else roundTrans f (fxNum (fxSinQ (fxOf s n d) q) 0)

/-- A value just below one, for results that round to one. -/
def nearOne (s : Bool) : Num := .fin s (2 ^ 200 - 1) (2 ^ 200)

/-- VTANH (R302, R303). -/
def spTanh (f : Fmt) (c : Nat) : Nat × Flags :=
  match floatValue f c with
  | .nan => (f.nanCode, 0#7)
  | .inf s => roundFloat f .ne false (.fin s 1 1) false
  | .fin s n d =>
    if n = 0 then ((if s then f.signBit else 0), 0#7)
    else if 64 * d < n then roundTrans f (nearOne s)
    else
      let (m, i) := fxExp (2 * fxOf false n d)
      let e := m * (2 ^ i.toNat : Nat)
      roundTrans f (if s then (fxNum ((e - fxOne) * fxOne / (e + fxOne)) 0).neg
        else fxNum ((e - fxOne) * fxOne / (e + fxOne)) 0)

/-- VSIGM (R302, R303). -/
def spSigm (f : Fmt) (c : Nat) : Nat × Flags :=
  match floatValue f c with
  | .nan => (f.nanCode, 0#7)
  | .inf true => (0, 0#7)
  | .inf false => roundFloat f .ne false (.fin false 1 1) false
  | .fin s n d =>
    if n = 0 then roundFloat f .ne false (.fin false 1 2) false
    else if 200 * d < n then
      roundTrans f (if s then .dyadic false 1 (-280) else nearOne false)
    else
      let (m, i) := fxExp (fxOf (!s) n d)
      let e := if 0 ≤ i then m * (2 ^ i.toNat : Nat) else m / (2 ^ (-i).toNat : Nat)
      roundTrans f (fxNum (fxOne * fxOne / (fxOne + e)) 0)

end Sys2Proof.Machine
end

