-- ==== Sys2Proof/Machine/Vector.lean ====
section
/-!
DEFINITION. The V slots (R284 to R307): lane arithmetic, logic, movement, reductions, scans, special functions and
accumulator rows.
-/

namespace Sys2Proof.Machine

/-- The slot that a V instruction stands in. -/
def vslot (h : VH) : SlotId := if h.u1 then .v1 else .v0

/-- Element i of a vector of elements of sz bytes (R284). -/
def elt (sz : Nat) (v : Row) (i : Nat) : Nat := v.toNat / 2 ^ (8 * sz * i) % 2 ^ (8 * sz)

/-- The n elements of a vector. -/
def elts (sz n : Nat) (v : Row) : List Nat := (List.range n).map (elt sz v)

/-- Elements of sz bytes as a number, element 0 lowest. -/
def packNat (sz : Nat) : List Nat → Nat
  | [] => 0
  | c :: l => c % 2 ^ (8 * sz) + 2 ^ (8 * sz) * packNat sz l

/-- Elements as a row. -/
def packRow (sz : Nat) (l : List Nat) : Row := BitVec.ofNat 1024 (packNat sz l)

/-- Number of elements of a V operand (R284). -/
def lanes (h : VH) : Nat := h.w.bits / (8 * h.ty.size)

/-- Codes with flags as a row and the flags of all lanes. -/
def packFl (sz : Nat) (l : List (Nat × Flags)) : Row × Flags := (packRow sz (l.map (·.1)), orFlags (l.map (·.2)))

/-- The frame of a V instruction that writes a vector: its sources are read at tick T, one result lands n ticks later. -/
def vOp (h : VH) (d : VDst) (n : Nat) (srcs : List VSrc) (more : State → List SlotTrap) (r : State → Row × Flags)
    (s : State) : Host.Outcome State Fault Refusal :=
  slotOp (vslot h) h.p 1 (fun t => srcs.flatMap (fun a => vsWords a h.w.bits t))
    (fun t => vdTraps d t ++ srcs.flatMap (fun a => vsTraps a t) ++ more t) noWaits
    (fun t => t.landF (vslot h) (t.vd d h.w.bits) (lowBits h.w.bits (r t).1) n (r t).2) s

/-- Lane by lane on one operand. -/
def vUn (h : VH) (n : Nat) (f : Nat → Nat × Flags) (d : VDst) (a : VSrc) (s : State) :
    Host.Outcome State Fault Refusal :=
  vOp h d n [a] noTraps (fun t => packFl h.ty.size ((elts h.ty.size (lanes h) (t.vsw h.w a)).map f)) s

/-- Two lists of elements lane by lane. -/
def zipLanes (f : Nat → Nat → Nat × Flags) (a b : List Nat) : List (Nat × Flags) := List.zipWith f a b

/-- Lane by lane on two operands. -/
def vBin (h : VH) (n : Nat) (f : Nat → Nat → Nat × Flags) (d : VDst) (a b : VSrc) (s : State) :
    Host.Outcome State Fault Refusal :=
  vOp h d n [a, b] noTraps (fun t =>
    packFl h.ty.size (zipLanes f (elts h.ty.size (lanes h) (t.vsw h.w a)) (elts h.ty.size (lanes h) (t.vsw h.w b)))) s

/-- D read as a source at tick T; a suppressed one reads zero (R284). -/
def dstRow (d : VDst) (h : VH) (s : State) : Row :=
  match d with
  | .tile rot dir t k => s.vsw h.w (.tile rot dir t k)
  | .off => 0#1024

/-- D as a source operand, for its storage words. -/
def dstSrc (d : VDst) : List VSrc :=
  match d with
  | .tile rot dir t k => [.tile rot dir t k]
  | .off => []

/-! ### Latencies (R286) -/

/-- VADD, VSUB, VRND. -/
def latAdd (ty : Ty) : Nat := if ty.isF then 3 else 2

/-- VMUL, VFMA, VFMS. -/
def latMul (ty : Ty) : Nat := if ty = .f32 then 4 else if ty.isF then 3 else 2

/-! ### Arithmetic (R288, R289) -/

/-- Round one floating-point lane; NV when a NaN comes of operands that are none. -/
def fLane (ty : Ty) (rnd : Rnd) (sat : Bool) (ops : List Num) (v : Num) : Nat × Flags :=
  let (c, f) := roundTo ty (Mode.ofRnd rnd) sat v
  (c, f ||| flagIf (v.isNan && !ops.any Num.isNan) flagNV)

/-- a + b. -/
def laneAdd (ty : Ty) (rnd : Rnd) (sat : Bool) (a b : Nat) : Nat × Flags :=
  if ty.isN then fitInt ty sat (intOf ty a + intOf ty b)
  else
    let x := valueOf ty a
    let y := valueOf ty b
    fLane ty rnd sat [x, y] (x.add (decide (rnd = .rd)) y)

/-- a − b. -/
def laneSub (ty : Ty) (rnd : Rnd) (sat : Bool) (a b : Nat) : Nat × Flags :=
  if ty.isN then fitInt ty sat (intOf ty a - intOf ty b)
  else
    let x := valueOf ty a
    let y := valueOf ty b
    fLane ty rnd sat [x, y] (x.add (decide (rnd = .rd)) y.neg)

/-- VMUL.lns6: the product of codes without rounding (R289). -/
def lnsMul (rnd : Rnd) (sat : Bool) (a b : Nat) : Nat × Flags :=
  if a % 64 = 0x20 ∨ b % 64 = 0x20 then (0x20, 0#7)
  else if a % 32 = 0 ∨ b % 32 = 0 then (0, 0#7)
  else
    let m : Int := (a % 32 : Nat) + (b % 32 : Nat) - 16
    let sg := decide (a / 32 % 2 ≠ b / 32 % 2)
    if m < 1 then (0, flagUF ||| flagNX)
    else if 31 < m then roundLns (Mode.ofRnd rnd) sat (.fin sg (2 ^ 40) 1)
    else ((if sg then 32 else 0) + m.toNat, 0#7)

/-- a × b. -/
def laneMul (ty : Ty) (rnd : Rnd) (sat : Bool) (a b : Nat) : Nat × Flags :=
  if ty.isN then fitInt ty sat (intOf ty a * intOf ty b)
  else if ty = .lns6 then lnsMul rnd sat a b
  else
    let x := valueOf ty a
    let y := valueOf ty b
    fLane ty rnd sat [x, y] (x.mul y)

/-- a × b ± d, rounded once. -/
def laneFma (neg : Bool) (ty : Ty) (rnd : Rnd) (sat : Bool) (a b d : Nat) : Nat × Flags :=
  if ty.isN then
    fitInt ty sat (intOf ty a * intOf ty b + (if neg then -(intOf ty d) else intOf ty d))
  else
    let x := valueOf ty a
    let y := valueOf ty b
    let z := valueOf ty d
    fLane ty rnd sat [x, y, z] ((x.mul y).add (decide (rnd = .rd)) (if neg then z.neg else z))

def execVadd (h : VH) (sat : Bool) (rnd : Rnd) (d : VDst) (a b : VSrc) (s : State) :=
  vBin h (latAdd h.ty) (laneAdd h.ty rnd sat) d a b s
def execVsub (h : VH) (sat : Bool) (rnd : Rnd) (d : VDst) (a b : VSrc) (s : State) :=
  vBin h (latAdd h.ty) (laneSub h.ty rnd sat) d a b s
def execVmul (h : VH) (sat : Bool) (rnd : Rnd) (d : VDst) (a b : VSrc) (s : State) :=
  vBin h (latMul h.ty) (laneMul h.ty rnd sat) d a b s

/-- VFMA and VFMS, which read D too. -/
def vFma (neg : Bool) (h : VH) (sat : Bool) (rnd : Rnd) (d : VDst) (a b : VSrc) (s : State) :
    Host.Outcome State Fault Refusal :=
  vOp h d (latMul h.ty) ([a, b] ++ dstSrc d) noTraps (fun t =>
    let sz := h.ty.size
    let n := lanes h
    packFl sz (List.zipWith (fun x z => laneFma neg h.ty rnd sat x.1 x.2 z)
      ((elts sz n (t.vsw h.w a)).zip (elts sz n (t.vsw h.w b))) (elts sz n (dstRow d h t)))) s

def execVfma (h : VH) (sat : Bool) (rnd : Rnd) (d : VDst) (a b : VSrc) (s : State) := vFma false h sat rnd d a b s
def execVfms (h : VH) (sat : Bool) (rnd : Rnd) (d : VDst) (a b : VSrc) (s : State) := vFma true h sat rnd d a b s

/-! ### Lane by lane (R290 to R292) -/

/-- VABS. -/
def laneAbs (ty : Ty) (sat : Bool) (a : Nat) : Nat × Flags :=
  match fmtOf ty with
  | some f => (if (floatValue f a).isNan then f.nanCode else a % f.signBit, 0#7)
  | none =>
    if ty = .lns6 then (if a % 64 = 0x20 then 0x20 else a % 32, 0#7)
    else fitInt ty sat ((intOf ty a).natAbs : Int)

/-- A code as its lane holds it: LNS6 takes six bits (R237). -/
def laneCode (ty : Ty) (a : Nat) : Nat := if ty = .lns6 then a % 64 else a

/-- VMIN and VMAX: a NaN, or LNS6 0x20, gives the other operand (R290). -/
def laneMinMax (mx : Bool) (ty : Ty) (a b : Nat) : Nat :=
  if ty.isN then
    (if (if mx then decide (intOf ty a < intOf ty b) else decide (intOf ty b < intOf ty a)) then b else a)
  else
    let x := valueOf ty a
    let y := valueOf ty b
    if x.isNan then (if y.isNan then defaultNan ty else laneCode ty b)
    else if y.isNan then laneCode ty a
    else if (if mx then x.ltz y else y.ltz x) then laneCode ty b else laneCode ty a

/-- VCLAMP: lo > hi gives hi; NaN bounds drop out by the rules of VMIN and VMAX (R290). -/
def laneClamp (ty : Ty) (lo hi a : Nat) : Nat :=
  let crossed := if ty.isN then decide (intOf ty hi < intOf ty lo) else (valueOf ty hi).lt (valueOf ty lo)
  if crossed then hi else laneMinMax false ty (laneMinMax true ty a lo) hi

/-- VRND: an integral value in its own format; NX when the value changes (R290). -/
def laneRnd (ty : Ty) (rnd : Rnd) (a : Nat) : Nat × Flags :=
  match valueOf ty a with
  | .fin sg n d =>
    let (i, inexact) := roundInt (Mode.ofRnd rnd) sg n d
    ((roundTo ty .ne false (.fin sg i.natAbs 1)).1, flagIf inexact flagNX)
  | .nan => (defaultNan ty, 0#7)
  | .inf _ => (a, 0#7)

/-- The condition of a VCMP (R291). -/
def vcHolds (c : Vc) (ty : Ty) (a b : Nat) : Bool :=
  let x := valueOf ty a
  let y := valueOf ty b
  if x.isNan || y.isNan then decide (c = .ne ∨ c = .uno)
  else match c with
    | .eq => x.eqv y
    | .ne => !x.eqv y
    | .lt => x.lt y
    | .le => x.le y
    | .gt => y.lt x
    | .ge => y.le x
    | .uno => false

def execVabs (h : VH) (sat : Bool) (d : VDst) (a : VSrc) (s : State) := vUn h 2 (laneAbs h.ty sat) d a s
def execVmin (h : VH) (d : VDst) (a b : VSrc) (s : State) :=
  vBin h 2 (fun x y => (laneMinMax false h.ty x y, 0#7)) d a b s
def execVmax (h : VH) (d : VDst) (a b : VSrc) (s : State) :=
  vBin h 2 (fun x y => (laneMinMax true h.ty x y, 0#7)) d a b s

/-- VCLAMP: lo in the low element's place of the scalar, hi in the next (R290). -/
def execVclamp (h : VH) (d : VDst) (a : VSrc) (b : SSrc) (s : State) : Host.Outcome State Fault Refusal :=
  vOp h d 2 [a] noTraps (fun t =>
    let k : Row := (t.ss b).setWidth 1024
    packFl h.ty.size ((elts h.ty.size (lanes h) (t.vsw h.w a)).map
      (fun x => (laneClamp h.ty (elt h.ty.size k 0) (elt h.ty.size k 1) x, 0#7)))) s

def execVrnd (h : VH) (rnd : Rnd) (d : VDst) (a : VSrc) (s : State) := vUn h (latAdd h.ty) (laneRnd h.ty rnd) d a s

def execVcmp (h : VH) (c : Vc) (d : VDst) (a b : VSrc) (s : State) :=
  vBin h 2 (fun x y => (if vcHolds c h.ty x y then 2 ^ (8 * h.ty.size) - 1 else 0, 0#7)) d a b s

/-- VSEL: the top bit of the old lane of D chooses (R292). -/
def execVsel (h : VH) (d : VDst) (a b : VSrc) (s : State) : Host.Outcome State Fault Refusal :=
  vOp h d 2 ([a, b] ++ dstSrc d) noTraps (fun t =>
    let sz := h.ty.size
    let n := lanes h
    (packRow sz (List.zipWith (fun x z => if z / 2 ^ (8 * sz - 1) % 2 = 1 then x.1 else x.2)
      ((elts sz n (t.vsw h.w a)).zip (elts sz n (t.vsw h.w b))) (elts sz n (dstRow d h t))), 0#7)) s

/-! ### Logic, shifts, carry-less products (R293, R294) -/

/-- A bitwise operation. -/
def vLogic (f : Row → Row → Row) (h : VH) (d : VDst) (a b : VSrc) (s : State) : Host.Outcome State Fault Refusal :=
  vOp h d 2 [a, b] noTraps (fun t => (f (t.vsw h.w a) (t.vsw h.w b), 0#7)) s

def execVand (h : VH) (d : VDst) (a b : VSrc) (s : State) := vLogic (· &&& ·) h d a b s
def execVor (h : VH) (d : VDst) (a b : VSrc) (s : State) := vLogic (· ||| ·) h d a b s
def execVxor (h : VH) (d : VDst) (a b : VSrc) (s : State) := vLogic (· ^^^ ·) h d a b s

def laneShl (sz a b : Nat) : Nat := a * 2 ^ (b % (8 * sz)) % 2 ^ (8 * sz)
def laneShr (sz a b : Nat) : Nat := a / 2 ^ (b % (8 * sz))

/-- Arithmetic shift: copies of the top bit for every type (R293). -/
def laneSra (sz a b : Nat) : Nat :=
  let c := b % (8 * sz)
  let top := if a / 2 ^ (8 * sz - 1) % 2 = 1 then (2 ^ c - 1) * 2 ^ (8 * sz - c) else 0
  a / 2 ^ c + top

def execVshl (h : VH) (d : VDst) (a b : VSrc) (s : State) := vBin h 2 (fun x y => (laneShl h.ty.size x y, 0#7)) d a b s
def execVshr (h : VH) (d : VDst) (a b : VSrc) (s : State) := vBin h 2 (fun x y => (laneShr h.ty.size x y, 0#7)) d a b s
def execVsra (h : VH) (d : VDst) (a b : VSrc) (s : State) := vBin h 2 (fun x y => (laneSra h.ty.size x y, 0#7)) d a b s

def execVclmul (h : VH) (d : VDst) (a b : VSrc) (s : State) :=
  vBin h 3 (fun x y => ((clmulLo (BitVec.ofNat 64 x) (BitVec.ofNat 64 y)).toNat, 0#7)) d a b s
def execVclmulh (h : VH) (d : VDst) (a b : VSrc) (s : State) :=
  vBin h 3 (fun x y => ((clmulHi (BitVec.ofNat 64 x) (BitVec.ofNat 64 y)).toNat, 0#7)) d a b s

/-! ### Moving data (R295 to R298) -/

/-- Vector sources of a VPERM kind. -/
def permSrcs (k : Perm) : List VSrc :=
  match k with
  | .idx b => [b] | .ziplo b => [b] | .ziphi b => [b] | .even b => [b] | .odd b => [b]
  | .rev => [] | .down _ => [] | .up _ => []

/-- Lanes of a VPERM (R295), n lanes of a. -/
def permLanes (k : Perm) (h : VH) (a : List Nat) (s : State) : List Nat :=
  let n := lanes h
  let g (l : List Nat) (i : Nat) : Nat := l.getD i 0
  let v (b : VSrc) : List Nat := elts h.ty.size n (s.vsw h.w b)
  match k with
  | .idx b => (v b).map (fun i => g a (i % n))
  | .rev => a.reverse
  | .ziplo b => let y := v b
    (List.range n).map (fun i => if i % 2 = 0 then g a (i / 2) else g y (i / 2))
  | .ziphi b => let y := v b
    (List.range n).map (fun i => if i % 2 = 0 then g a (n / 2 + i / 2) else g y (n / 2 + i / 2))
  | .even b => let y := v b
    (List.range n).map (fun i => if i < n / 2 then g a (2 * i) else g y (2 * (i - n / 2)))
  | .odd b => let y := v b
    (List.range n).map (fun i => if i < n / 2 then g a (2 * i + 1) else g y (2 * (i - n / 2) + 1))
  | .down c => let x := (s.ss c).toNat
    (List.range n).map (fun i => if i + x < n then g a (i + x) else 0)
  | .up c => let x := (s.ss c).toNat
    (List.range n).map (fun i => if x ≤ i then g a (i - x) else 0)

def execVperm (h : VH) (k : Perm) (d : VDst) (a : VSrc) (s : State) : Host.Outcome State Fault Refusal :=
  vOp h d 2 (a :: permSrcs k) noTraps (fun t =>
    (packRow h.ty.size (permLanes k h (elts h.ty.size (lanes h) (t.vsw h.w a)) t), 0#7)) s

/-- The value that VBCST repeats (R296). -/
def bcstVal (b : BSrc) (s : State) : Word :=
  match b with
  | .scalar a => s.ss a
  | .imm k x => immVal k.toNat 13 x

def execVbcst (h : VH) (d : VDst) (b : BSrc) (s : State) : Host.Outcome State Fault Refusal :=
  vOp h d 2 [] noTraps (fun t => (packRow h.ty.size (List.replicate (lanes h) (bcstVal b t).toNat), 0#7)) s

def execVmov (h : VH) (d : VDst) (a : VSrc) (s : State) : Host.Outcome State Fault Refusal :=
  vOp h d 2 [a] noTraps (fun t => (t.vsw h.w a, 0#7)) s

/-- An element as VEXTS lands it: sign-extended for signed types (R297). -/
def extVal (ty : Ty) (c : Nat) : Word :=
  if ty.isSigned then (BitVec.ofInt 64 (intOf ty c)) else BitVec.ofNat 64 c

def execVexts (h : VH) (d : SDst) (a : VSrc) (b : SSrc) (s : State) : Host.Outcome State Fault Refusal :=
  slotOp (vslot h) h.p 1 (vsWords a h.w.bits) (vsTraps a) noWaits
    (fun t => t.land (vslot h) (dstLand d)
      ((extVal h.ty (elt h.ty.size (t.vsw h.w a) ((t.ss b).toNat % lanes h))).setWidth 1024) 2) s

def execVinss (h : VH) (d : VDst) (a b : SSrc) (s : State) : Host.Outcome State Fault Refusal :=
  vOp h d 2 (dstSrc d) noTraps (fun t =>
    let i := (t.ss b).toNat % lanes h
    (packRow h.ty.size ((elts h.ty.size (lanes h) (dstRow d h t)).set i (t.ss a).toNat), 0#7)) s

/-- Member index of a core in its group (R298). -/
def memberIx (quad : Bool) (p : Nat) : Nat := if quad then p % 4 else p % 2

/-- The group's core with member index m xor k. -/
def partner (quad : Bool) (p k : Nat) : Nat := if quad then p / 4 * 4 + (p % 4 ^^^ k) else p / 2 * 2 + (p % 2 ^^^ k)

/-- The resident slot of a core that is occupied by its one context (R160). -/
def State.residentOf (s : State) (p : Nat) : Nat := if (s.ctx p 0).mode = .empty then 1 else 0

/-- The state as another context's bundle in issue sees it. -/
def State.facing (s : State) (p r : Nat) : State := { s with issue := { s.issue with k := p, r := r } }

/-- The instruction that a context's next bundle holds in a slot (R202). -/
def State.nextIn (s : State) (p r : Nat) (u : SlotId) : Option Instr :=
  let c := s.ctx p r
  let im := (s.core p).imem
  match decodeBundle (lineRest im (fetchPc im (s.imglen c.crew) c.regs.pc.toNat)) with
  | .ok b => (b.instrs.find? (fun x => decide (x.1 = u))).map (·.2)
  | .error _ => none

/-- What a VXCH receives: the partner's A in the same slot under the same k, where the partner issues in lock-step in the same cycle,
else zero (R298). -/
def xchVal (h : VH) (k : BitVec 2) (s : State) : Row :=
  match s.icore.fuse with
  | none => 0#1024
  | some f =>
    let p := partner f.quad s.issue.k k.toNat
    let t := s.facing p (s.residentOf p)
    if !(s.groupOf s.issue.k).contains p || decide ((s.ctx p (s.residentOf p)).mode ≠ .running) then 0#1024
    else match t.nextIn p t.issue.r (vslot h) with
    | some (.vxch g j _ a) => if j = k && t.enabled g.p then t.vsw g.w a else 0#1024
    | _ => 0#1024

def execVxch (h : VH) (k : BitVec 2) (d : VDst) (a : VSrc) (s : State) : Host.Outcome State Fault Refusal :=
  vOp h d 4 [a]
    (fun t => trapIf (match t.icore.fuse with
      | some f => f.dec || decide ((if f.quad then 4 else 2) ≤ k.toNat)
      | none => true) .illegalState)
    (fun t => (xchVal h k t, 0#7)) s

/-! ### Reductions and scans (R299 to R301) -/

/-- One level of a pairwise tree whose steps raise flags. -/
def pairFl (op : Nat → Nat → Nat × Flags) : List Nat → List Nat × Flags
  | a :: b :: r =>
    let (x, f) := op a b
    let (l, g) := pairFl op r
    (x :: l, f ||| g)
  | l => (l, 0#7)

/-- TreeN (R299): n levels. -/
def treeFl (op : Nat → Nat → Nat × Flags) : Nat → List Nat → Nat × Flags
  | 0, l => (l.headD 0, 0#7)
  | n + 1, l =>
    let (l', f) := pairFl op l
    let (x, g) := treeFl op n l'
    (x, f ||| g)

/-- VREDSUM (R299). -/
def redSum (ty : Ty) (rnd : Rnd) (sat : Bool) (l : List Nat) : Nat × Flags :=
  if ty.isN then
    let i := (l.map (intOf ty)).foldl (· + ·) 0
    fitInt (if ty.isSigned then .i32 else .n32) sat i
  else
    treeFl (laneAdd .f32 rnd false) (Nat.log2 l.length) (l.map (fun c => roundNE32 (valueOf ty c)))

def execVredsum (h : VH) (sat : Bool) (rnd : Rnd) (d : VDst) (a : VSrc) (s : State) :
    Host.Outcome State Fault Refusal :=
  vOp h d 5 [a] noTraps (fun t => packFl 4 [redSum h.ty rnd sat (elts h.ty.size (lanes h) (t.vsw h.w a))]) s

/-- VREDMAX and VREDMIN (R300). -/
def vRedMM (mx : Bool) (h : VH) (d : VDst) (a : VSrc) (s : State) : Host.Outcome State Fault Refusal :=
  vOp h d 3 [a] noTraps (fun t =>
    let l := elts h.ty.size (lanes h) (t.vsw h.w a)
    packFl h.ty.size [treeFl (fun x y => (laneMinMax mx h.ty x y, 0#7)) (Nat.log2 l.length) l]) s

def execVredmax (h : VH) (d : VDst) (a : VSrc) (s : State) := vRedMM true h d a s
def execVredmin (h : VH) (d : VDst) (a : VSrc) (s : State) := vRedMM false h d a s

/-- Running values from an accumulator: each step's result is a lane. -/
def scanFrom (op : Nat → Nat → Nat × Flags) (x : Nat) : List Nat → List (Nat × Flags)
  | [] => []
  | a :: l =>
    let (y, f) := op x a
    (y, f) :: scanFrom op y l

/-- A lane that VSCAN passes on as its first result: a NaN becomes the default NaN of the type (R235). -/
def scanFirst (ty : Ty) (a : Nat) : Nat := if (valueOf ty a).isNan then defaultNan ty else a

/-- VSCAN (R301). -/
def scanLanes (k : ScanK) (ty : Ty) (rnd : Rnd) (sat : Bool) (l : List Nat) : List (Nat × Flags) :=
  match l with
  | [] => []
  | c :: r =>
    let a := scanFirst ty c
    match k with
    | .incl => (a, 0#7) :: scanFrom (laneAdd ty rnd sat) a r
    | .excl => (0, 0#7) :: scanFrom (laneAdd ty rnd sat) 0 (c :: r).dropLast
    | .max => (a, 0#7) :: scanFrom (fun x y => (laneMinMax true ty x y, 0#7)) a r
    | .min => (a, 0#7) :: scanFrom (fun x y => (laneMinMax false ty x y, 0#7)) a r

def execVscan (h : VH) (sat : Bool) (rnd : Rnd) (k : ScanK) (d : VDst) (a : VSrc) (s : State) :
    Host.Outcome State Fault Refusal :=
  vOp h d 5 [a] noTraps (fun t =>
    packFl h.ty.size (scanLanes k h.ty rnd sat (elts h.ty.size (lanes h) (t.vsw h.w a)))) s

/-! ### Special functions (R302, R303) -/

/-- A special function on its three formats. -/
def vSpec (f : Fmt → Nat → Nat × Flags) (h : VH) (d : VDst) (a : VSrc) (s : State) :
    Host.Outcome State Fault Refusal :=
  vUn h 8 (f ((fmtOf h.ty).getD .f32)) d a s

def execVexp2 (h : VH) (d : VDst) (a : VSrc) (s : State) := vSpec spExp2 h d a s
def execVlog2 (h : VH) (d : VDst) (a : VSrc) (s : State) := vSpec spLog2 h d a s
def execVrcp (h : VH) (rnd : Rnd) (d : VDst) (a : VSrc) (s : State) := vSpec (fun f => spRcp f (Mode.ofRnd rnd)) h d a s
def execVrsq (h : VH) (d : VDst) (a : VSrc) (s : State) := vSpec spRsq h d a s
def execVsqrt (h : VH) (rnd : Rnd) (d : VDst) (a : VSrc) (s : State) :=
  vSpec (fun f => spSqrt f (Mode.ofRnd rnd)) h d a s
def execVsin (h : VH) (d : VDst) (a : VSrc) (s : State) := vSpec (spSin 0) h d a s
def execVcos (h : VH) (d : VDst) (a : VSrc) (s : State) := vSpec (spSin 1) h d a s
def execVtanh (h : VH) (d : VDst) (a : VSrc) (s : State) := vSpec spTanh h d a s
def execVsigm (h : VH) (d : VDst) (a : VSrc) (s : State) := vSpec spSigm h d a s

/-! ### Accumulator rows (R304, R305) -/

/-- What an accumulator reference traps on (R48, R144, R304). -/
def accTraps (r : AccRef) (s : State) : List SlotTrap :=
  trapIf (s.accBad r.a) .illegalState ++ trapIf (!s.tokV r.a) .token

/-- The newest landing is marked as the result of a read of an accumulator tile (R321). -/
def markAcc (a : Nat) : List Landing → List Landing
  | [] => []
  | [e] => [{ e with accOf := some a }]
  | e :: f :: l => e :: markAcc a (f :: l)

def execAccrd (h : VH) (sat : Bool) (rnd : Rnd) (d : VDst) (a : AccRef) (s : State) :
    Host.Outcome State Fault Refusal :=
  slotOp (vslot h) h.p 1 (fun t => accWords t.issue.k (t.accIx a)) (fun t => vdTraps d t ++ accTraps a t) noWaits
    (fun t =>
      let (v, f) := packFl h.ty.size ((elts 4 32 (Tab.get t.icore.acc (t.accIx a))).map
        (fun c => roundTo h.ty (Mode.ofRnd rnd) sat (f32Value c)))
      (t.landF (vslot h) (t.vd d h.w.bits) v 3 f).modIc (fun c => { c with landing := markAcc (t.accIx a / 512) c.landing })) s

def execAccwr (h : VH) (d : AccRef) (a : VSrc) (s : State) : Host.Outcome State Fault Refusal :=
  slotOp (vslot h) h.p 1 (vsWords a h.w.bits) (fun t => vsTraps a t ++ accTraps d t) noWaits
    (fun t => t.land (vslot h) (.acc (t.accIx d))
      (packRow 4 ((elts h.ty.size 32 (t.vsw h.w a)).map (fun c => roundNE32 (valueOf h.ty c)))) 3) s

end Sys2Proof.Machine
end

