-- ==== Sys2Proof/Machine/Transform.lean ====
section
/-!
DEFINITION. The X slot (R308 to R315): expansion from the decoder FIFO, transposes, conversions, packing under block scales,
random bits.
-/

namespace Sys2Proof.Machine

/-- The frame of an X instruction that writes a vector of some width. -/
def xOp (p : Pr) (d : VDst) (n bits nres : Nat) (srcs : List VSrc) (r : State → Row × Flags) (also : State → State)
    (s : State) : Host.Outcome State Fault Refusal :=
  slotOp .x p nres (fun t => srcs.flatMap (fun a => vsWords a 1024 t))
    (fun t => vdTraps d t ++ srcs.flatMap (fun a => vsTraps a t)) noWaits
    (fun t => (also t).landF .x (t.vd d bits) (r t).1 n (r t).2) s

/-- The cause that XEXP meets at the head of the FIFO (R75, R81, R309). -/
def xexpTraps (s : State) : List SlotTrap :=
  let e := s.icore.eng
  match e.fifo with
  | .mark o :: _ => [⟨.streamFormat, BitVec.ofNat 64 o, 0⟩]
  | .bad _ _ :: _ => [⟨.eccUe, 0, 0⟩]
  | .row _ :: _ => []
  | [] => if e.sl = [] then [⟨.streamFormat, BitVec.ofNat 64 e.lastClean, 1⟩] else []

/-- The storage words of the row at the head of the FIFO (R80, R81). -/
def fifoWords (s : State) : List (Nat × Nat × Nat) :=
  let e := s.icore.eng
  match e.fifo with
  | .row _ :: _ => if s.upsets = [] then [] else fifoLocs s.issue.k ((e.fifoAt + 128 - fifoRows e.fifo % 128) % 128)
  | _ => []

/-- XEXP: the oldest row of the FIFO (R309). -/
def execXexp (p : Pr) (d : VDst) (s : State) : Host.Outcome State Fault Refusal :=
  slotOp .x p 1 fifoWords (fun t => vdTraps d t ++ xexpTraps t)
    (fun t => if t.icore.eng.fifo = [] then some .fifo else none)
    (fun t =>
      match t.icore.eng.fifo with
      | .row v :: l => (t.modEng t.issue.k (fun e => { e with fifo := l })).land .x (t.vd d 1024) v 2
      | _ => t) s

/-- XTRN8 and XTRN16: m elements of sz bytes a cell, transposed or back (R310). -/
def transpose (sz m : Nat) (inv : Bool) (v : Row) : Row :=
  packRow sz ((List.range (32 * m)).map (fun i =>
    if inv then elt sz v (32 * (i % m) + i / m) else elt sz v (m * (i % 32) + i / 32)))

def execXtrn8 (p : Pr) (inv : Bool) (d : VDst) (a : VSrc) (s : State) : Host.Outcome State Fault Refusal :=
  xOp p d 4 1024 1 [a] (fun t => (transpose 1 4 inv (t.vs a), 0#7)) id s
def execXtrn16 (p : Pr) (inv : Bool) (d : VDst) (a : VSrc) (s : State) : Host.Outcome State Fault Refusal :=
  xOp p d 4 1024 1 [a] (fun t => (transpose 2 2 inv (t.vs a), 0#7)) id s

/-- The hash of a queue word for a lane (R246, R314). -/
def drawHash (w : BitVec 32) (i : Nat) : BitVec 32 := (w + BitVec.ofNat 32 i * 0x9E3779B9#32) * 0x85EBCA6B#32

/-- Draw (R246). -/
def draw (w : BitVec 32) (i : Nat) : Nat := (drawHash w i).toNat / 2 ^ 16

/-- The head word of the random-bit queue (R245). -/
def State.rqHead (s : State) : BitVec 32 := s.ic.regs.rq.headD 0#32

/-- Take the head word: the generator steps once and its output joins the tail (R245). -/
def State.takeRq (s : State) : State :=
  s.modIr (fun g =>
    let x := rngStep g.rng
    { g with rng := x, rq := g.rq.drop 1 ++ [x.extractLsb' 32 32] })

/-- Elements that an XCVT works on (R311). -/
def cvtLanes (st dt : Ty) : Nat := 128 / max st.size dt.size

/-- The mode of lane i of an XCVT (R243, R311). -/
def cvtMode (m : CvtMode) (w : BitVec 32) (i : Nat) : Mode :=
  match m with
  | .ne => .ne | .rz => .rz | .rd => .rd
  | .sr => .sr (draw w i)

/-- The elements of an XCVT. -/
def cvtRow (st dt : Ty) (m : CvtMode) (sat : Bool) (w : BitVec 32) (v : Row) : Row × Flags :=
  packFl dt.size ((List.range (cvtLanes st dt)).map (fun i => convert st dt (cvtMode m w i) sat (elt st.size v i)))

/-- XCVT and XCVT.sat (R311). -/
def xcvtOp (p : Pr) (st dt : Ty) (m : CvtMode) (sat : Bool) (d : VDst) (a : VSrc) (s : State) :
    Host.Outcome State Fault Refusal :=
  xOp p d 3 (8 * dt.size * cvtLanes st dt) 1 [a] (fun t => cvtRow st dt m sat t.rqHead (t.vs a))
    (fun t => if m = .sr then t.takeRq else t) s

def execXcvt (p : Pr) (st dt : Ty) (m : CvtMode) (d : VDst) (a : VSrc) (s : State) := xcvtOp p st dt m false d a s
def execXcvtSat (p : Pr) (st dt : Ty) (m : CvtMode) (d : VDst) (a : VSrc) (s : State) := xcvtOp p st dt m true d a s

/-- Element type of a pack (R312). -/
def pkTy : PkTy → Ty
  | .e4m3 => .e4m3 | .e5m2 => .e5m2 | .lns6 => .lns6 | .i8 => .i8

/-- Whether code c, its exponent field taken as an ordinary one, times Fmax reaches n / d (R312); for LNS6 Fmax is
2^(15/4), and both sides are compared as fourth powers. -/
def covers (ty : PkTy) (n d c : Nat) : Bool :=
  let (u, v) := pow2 ((c / 256 : Nat) - 135 : Int)
  let m := (256 + c % 256) * u
  if c < 256 then false
  else match ty with
    | .e4m3 => decide (n * v ≤ m * 448 * d)
    | .e5m2 => decide (n * v ≤ m * 57344 * d)
    | .i8 => decide (n * v ≤ m * 127 * d)
    | .lns6 => decide ((n * v) ^ 4 ≤ (m * d) ^ 4 * 2 ^ 15)

/-- The greatest code below 2^b added to c that does not cover, bit by bit. -/
def lastShort (ty : PkTy) (n d : Nat) : Nat → Nat → Nat
  | 0, c => c
  | b + 1, c => lastShort ty n d b (if covers ty n d (c + 2 ^ b) then c else c + 2 ^ b)

/-- The scale that XPKS chooses for a largest magnitude (R312). -/
def pickScale (ty : PkTy) (n d : Nat) : Nat :=
  if n = 0 then 0x7F00 else min (lastShort ty n d 16 0 + 1) 0xFEFF

/-- Largest finite magnitude of some values as a fraction; 0 / 1 if none. -/
def maxAbs : List Num → Nat × Nat
  | [] => (0, 1)
  | .fin _ n d :: l =>
    let (m, e) := maxAbs l
    if m * d < n * e then (n, d) else (m, e)
  | _ :: l => maxAbs l

/-- The scale and the packed elements of an XPKS (R312). -/
def packScaled (ty : PkTy) (v : Row) : Nat × Row × Flags :=
  let xs := (elts 4 32 v).map f32Value
  let (n, d) := maxAbs xs
  let c := pickScale ty n d
  (c, packFl 1 (xs.map (fun x => roundTo (pkTy ty) .ne true (x.div (ue8m8Value c)))))

def execXpks (p : Pr) (ty : PkTy) (n : BitVec 3) (j : BitVec 5) (d : VDst) (a : VSrc) (s : State) :
    Host.Outcome State Fault Refusal :=
  slotOp .x p 2 (vsWords a 1024) (fun t => vdTraps d t ++ vsTraps a t) noWaits
    (fun t =>
      let r := packScaled ty (t.vs a)
      (t.landF .x (t.vd d 256) r.2.1 5 r.2.2).land .x (.scaleEl n j) (BitVec.ofNat 1024 r.1) 5) s

/-- Scale j of kN (R359). -/
def State.scaleAt (s : State) (n : BitVec 3) (j : Nat) : Nat :=
  (Tab.get s.icore.scales n.toNat).toNat / 2 ^ (16 * j) % 2 ^ 16

/-- XUPK (R313). -/
def execXupk (p : Pr) (ty : PkTy) (n : BitVec 3) (j : BitVec 5) (d : VDst) (a : VSrc) (s : State) :
    Host.Outcome State Fault Refusal :=
  xOp p d 4 1024 1 [a] (fun t =>
    packFl 4 ((elts 1 32 (t.vs a)).map
      (fun q => roundTo .f32 .ne false (applyScale (t.scaleAt n j.toNat) (valueOf (pkTy ty) q))))) id s

/-- XRNG (R314). -/
def execXrng (p : Pr) (d : VDst) (s : State) : Host.Outcome State Fault Refusal :=
  xOp p d 2 1024 1 [] (fun t => (packRow 4 ((List.range 32).map (fun e => (drawHash t.rqHead e).toNat)), 0#7))
    State.takeRq s

end Sys2Proof.Machine
end

