-- ==== Sys2Proof/Machine/Engine.lean ====
section
/-!
DEFINITION. The copy engines: queues (R345 to R347), copy commands (R348 to R354), signals and fences (R355, R356), XMETA
(R368), with the order of R92 and R100 to R104, the bank locks of R103 and the faults of R119 to R122.
-/

namespace Sys2Proof.Machine

/-! ### Places of engine accesses -/

/-- Where an engine access lies: its physical pieces, its fault, or nothing yet. unrec says that the fault found the record buffer
full, so that it waits in its unit (R126); an access that stops may ask for a walk (R115). -/
inductive Eng
  | at (s : State) (ps : List (Nat × Nat))
  | fault (s : State) (key : FltKey) (unrec : Bool)
  | stop (ask : Option WalkReq)
  deriving DecidableEq, Repr

/-- A fault of an engine access opens or joins a page record, unless c knows it from an earlier access that has counted (R126, R128). -/
def State.engFault (s : State) (k : Nat) (root : Word) (ak : AK) (w : Origin) (c : FltKey → Option FltKey) (va cause : Nat) : Eng :=
  match c (fltKey va cause) with
  | some key => .fault s key (decide (key.num = 0))
  | none =>
    match s.openRec (dieOf k) (rootAsid root) (fltKey va cause) ak w.crew w.lcore with
    | some (key, x) => .fault x key false
    | none => .fault s (fltKey va cause) true

/-- The walk of an address for a unit of a core. -/
def walkReq (k u : Nat) (root : Word) (va : Nat) (ak : AK) : WalkReq := ⟨rootAsid root, va / 4096, .unit k u root va ak, []⟩

/-- Translate a paged extent, walking where the TLBs miss: a walk runs among the 256 of the die, behind them it waits in the queue in
order of arrival (R115, R116; log entry 10). The words that the TLBs give are met. -/
def State.engWalk (s : State) (k u : Nat) (root : Word) (ak : AK) (w : Origin) (c : FltKey → Option FltKey)
    (va n : Nat) : Nat → Eng
  | 0 => .stop none
  | f + 1 =>
    match s.tlbPieces k u root ak 4 va n with
    | some ps => .at (s.tlbMeet k u root ak w 4 va n) ps
    | none =>
      match s.firstMiss k u root ak 4 va n with
      | none => .stop none
      | some v =>
        let x := s.pruneWalks (dieOf k) (walkKey root v)
        if !x.walkRuns (dieOf k) (walkKey root v) then .stop (some (walkReq k u root v ak))
        else
          match (x.closeWalk (dieOf k) (walkKey root v)).pageWalk k u root v ak with
          | (t, .mapped) => t.engWalk k u root ak w c va n f
          | (_, .dropped) => .stop none
          | (t, .fault cause _) => t.engFault k root ak w c v cause

/-- The slots under some pieces. -/
def slotsOf (ps : List (Nat × Nat)) : List Nat := ps.flatMap (fun x => slotsUnder x.1 x.2)

/-- A copy that has not bound a slot whose release or move is in progress holds there; other accesses do not (R27, R136). -/
def State.copyHolds (s : State) (hold : Option (List Nat)) (ps : List (Nat × Nat)) : Bool :=
  match hold with
  | some l => (slotsOf ps).any (fun n => s.moving n && !l.contains n)
  | none => false

/-- Place a part: resolved, its slots touched; a full die faults a paged part with SEAM_FULL (R25, R136). -/
def State.engPlace (s : State) (k u : Nat) (root : Word) (ak : AK) (w : Origin) (hold : Option (List Nat))
    (c : FltKey → Option FltKey) (p : Part) : Eng :=
  let r := match p.cls with
    | .loc => Eng.at s [(spadBase k + p.va.toNat % 0x100000, p.len)]
    | .phys a =>
      if !s.heldAt a p.len then .at s [(a, p.len)] else s.engFault k root ak w c p.va.toNat 5
    | .paged => s.engWalk k u root ak w c p.va.toNat p.len 6
  match r with
  | .at t ps =>
    let l := (ps.foldl (fun (x : Nat × List (Part × Nat × Nat × Nat)) q => (x.1 + q.2, x.2 ++ [(p, x.1, q.1, q.2)])) (p.va.toNat, [])).2
    if t.copyHolds hold ps then .stop none
    else
      match t.touchAll (ps.map (fun q => (0, q.1, q.2))) (some k), t.fullPage (some k) l with
      | some x, _ => .at x ps
      | none, some (_, va) => if p.cls = .paged then t.engFault k root ak w c va 6 else .stop none
      | none, none => .stop none
  | o => o

/-- A fault always counts. -/
def anyKey (_ : FltKey) : Option FltKey := none

/-! ### Copy commands as they are written (R348) -/

/-- The fields of a copy command. -/
structure Geo where
  src : Nat
  dst : Nat
  sp : Nat
  dp : Nat
  rows : Nat
  cols : Nat
  vr : Nat
  vc : Nat
  st : Ty
  dt : Ty
  rnd : Rnd
  sat : Bool
  trn : Bool
  conv : Bool
  scl : Bool
  pfh : Bool
  scale : Nat
  mc : Nat
  mcast : Word
  add : Bool
  siga : Word
  sigv : Word
  deriving DecidableEq, Repr

/-- The record's fields; with CMPR the types are .n8 and CONV, SCL and TRN are ignored (R76, R349). -/
def geoOf (g : List Word) : Geo :=
  let g2 := lrw g 2
  let g3 := lrw g 3
  let g4 := lrw g 4
  let cm := wb g4 14
  { src := (lrw g 0).toNat, dst := (lrw g 1).toNat, sp := bf g2 31 0, dp := bf g2 63 32, rows := bf g3 15 0,
    cols := bf g3 31 16, vr := bf g3 47 32, vc := bf g3 63 48,
    st := if cm then .n8 else (Ty.dec (bf g4 3 0)).getD .n8, dt := if cm then .n8 else (Ty.dec (bf g4 7 4)).getD .n8,
    rnd := (Rnd.dec (bf g4 9 8)).getD .ne, sat := wb g4 10, trn := wb g4 11 && !cm, conv := wb g4 12 && !cm,
    scl := wb g4 13 && !cm, pfh := wb g4 15, scale := bf g4 31 16, mc := bf g4 34 32, mcast := lrw g 5, add := wb g4 39,
    siga := lrw g 6, sigv := lrw g 7 }

/-- Destination rows and the bytes of each (R351). -/
def Geo.dRows (g : Geo) : Nat := if g.trn then g.cols else g.rows
def Geo.dLen (g : Geo) : Nat := (if g.trn then g.rows else g.cols) * g.dt.size

/-- The record's type fields are codes of R214, or are ignored. -/
def typesOk (g4 : Word) : Bool := (Ty.dec (bf g4 3 0)).isSome && (Ty.dec (bf g4 7 4)).isSome

/-- What is wrong with a record, by doubleword: the first failing one (R349). A prefetch hint ignores the types, CONV, SCL and DST
(R353); the element size of its source extent is STYPE's, a byte's where that is no code (DEDUCED, log entry 55). -/
def badWord (multi : Bool) (w : List Word) : Option Nat :=
  let g := geoOf w
  let g4 := lrw w 4
  let cm := wb g4 14
  let b2 := decide (g.sp % g.st.size ≠ 0) || (!g.pfh && (decide (g.dp % g.dt.size ≠ 0) ||
    (decide (1 < g.dRows) && decide (g.dp < g.dLen))))
  let b3 := decide (g.rows = 0) || decide (g.cols = 0) || decide (g.rows < g.vr) || decide (g.cols < g.vc)
  let raw := bf g4 9 8 = 3 || decide (2 < g.mc) || decide (bf g4 38 36 = 7) || (!g.pfh && !typesOk g4) || wb g4 35 ||
    decide (bf g4 63 40 ≠ 0)
  let conv := !cm && !g.pfh && ((!g.conv && (decide (g.dt ≠ g.st) || g.scl)) || (g.conv && decide (g.st = .b64 ∨ g.dt = .b64)))
  let b4 := raw || conv || (decide (g.mc ≠ 0) != multi)
  let b5 := match g.mc with
    | 0 => decide (g.mcast ≠ 0)
    | 1 => decide (bf g.mcast 63 24 ≠ 0) || decide (bf g.mcast 23 16 = 0)
    | 2 => decide (bf g.mcast 63 16 ≠ 0) || decide (bf g.mcast 15 0 = 0)
    | _ => false
  let b6 := decide (g.siga = 0) && (decide (bf g4 38 36 ≠ 0) || g.add || decide (g.sigv ≠ 0))
  if b2 then some 2 else if b3 then some 3 else if b4 then some 4 else if b5 then some 5 else if b6 then some 6 else none

/-! ### Extents at issue (R19, R20, R350) -/

/-- The window of the aperture that an address lies in; 0 outside the aperture. -/
def winOf (a : Nat) : Nat :=
  if a < apBase then 0
  else
    let o := a - apBase
    if o < 0xC0000 then 1
    else if 0x100000000 ≤ o ∧ o < 0x110000000 then 2
    else if 0x200000000 ≤ o ∧ o < 0x20C000000 then 3
    else if 0x210000000 ≤ o ∧ o < 0x21C000000 then 4
    else if 0x300000000 ≤ o ∧ o < 0x500000000 then 5
    else 6

/-- Rows of n bytes at a pitch: every row resolves, and all lie in one window (R20). The first row that does not. -/
def State.badRow (s : State) (k : Nat) (crew : BitVec 16) (x : Xlat) (ak : AK) (base pitch n : Nat) (rows : List Nat) :
    Option Nat :=
  rows.find? (fun r =>
    let a := base + r * pitch
    decide (2 ^ 56 < a + n) || decide (winOf a ≠ winOf base) || (s.bindX k crew x ak (BitVec.ofNat 64 a) n).isNone)

/-- The logical cores that a members multicast names (R354). -/
def mcMembers (m : Word) : List Nat := (List.range (bf m 15 8 + 1)).map (fun i => bf m 7 0 + i * bf m 23 16)

/-- The logical clusters that a clusters multicast names. -/
def mcClusters (m : Word) : List Nat := (List.range 16).filter (fun c => wb m c)

/-- A multicast names cores and clusters that the crew has, of which it owns the weight seam (R354). -/
def State.mcastOk (s : State) (crew : BitVec 16) (g : Geo) : Bool :=
  match s.crew? crew with
  | none => false
  | some w =>
    match g.mc with
    | 0 => true
    | 1 => (mcMembers g.mcast).all (fun n => decide (n ≤ w.size))
    | _ => (mcClusters g.mcast).all (fun c => match w.clusters[c]? with
      | some cl => decide ((s.cluster cl).owner = crew)
      | none => false)

/-- A multicast's destination window: the local scratchpad, or the own shadow view. -/
def mcWin (g : Geo) : Bool :=
  match g.mc with
  | 0 => true
  | 1 => decide (winOf g.dst = 1)
  | _ => decide (winOf g.dst = 4)

/-- Address traps of a copy command (R350, R354). A hint into a heap window without RD is no trap (R31); its MCAST is checked all the same, DST
is not (R353). -/
def State.copyAddrs (s : State) (g : Geo) : List SlotTrap :=
  let k := s.issue.k
  let c := s.ic
  let at' (a : Nat) : List SlotTrap := [⟨.address, BitVec.ofNat 64 a, 0⟩]
  let srcRows := if g.vc = 0 then [] else List.range g.vr
  let src := if g.pfh then [] else if g.src % g.st.size ≠ 0 then at' g.src else []
  let xl := if g.pfh then { c.xl with hctl := c.xl.hctl ||| 2#64 } else c.xl
  let srcX := match s.badRow k c.crew xl .copySrc g.src g.sp (g.vc * g.st.size) srcRows with
    | some r => at' (g.src + r * g.sp)
    | none => []
  let dst := if g.pfh then (if s.mcastOk c.crew g then [] else at' g.dst)
    else if g.dst % g.dt.size ≠ 0 || !mcWin g || !s.mcastOk c.crew g then at' g.dst
    else match s.badRow k c.crew c.xl .copyDst g.dst g.dp g.dLen (List.range g.dRows) with
      | some r => at' (g.dst + r * g.dp)
      | none => []
  let sig := if g.siga = 0 then []
    else trapAt (decide (g.siga.toNat % 8 ≠ 0) || (s.bind (if g.add then .sigAdd else .sigWrite) g.siga 8).isNone) .address g.siga
  src ++ srcX ++ dst ++ sig

/-! ### Issue of a command (R92, R100, R103, R345) -/

/-- Copy queue of a name: never more than 16 entries (R345). -/
def queueFull (q : BitVec 2) (s : State) : Option Wait := waitIf (decide (16 ≤ (s.icore.eng.ce q.toNat).length)) .sync

/-- The halves active in the 16 clusters (R18). -/
def State.actBits (s : State) : BitVec 16 :=
  BitVec.ofNat 16 ((List.range 16).map (fun c => if (s.cluster c).act then 2 ^ c else 0)).sum

/-- Far writes and L-log entries of a core that a command comes after (R100). -/
def Core.writesBefore (c : Core) : List Nat :=
  (c.far.filter (fun a => farWrites a.kind)).map (·.id) ++ c.eng.logL.map (·.id)

/-- The own scratchpad's banks under an extent of the local window or of the core's own alias (R54). -/
def banksUnder (o n : Nat) : List Nat := if n = 0 then [] else ((List.range ((o + n - 1) / 128 - o / 128 + 1)).map (fun i => (o / 128 + i) % 24)).eraseDups

/-- Offset in the own scratchpad that an address reaches. -/
def State.ownOff (s : State) (k : Nat) (crew : BitVec 16) (a : Nat) : Option Nat :=
  match winOf a with
  | 1 => some (a - apBase)
  | 2 =>
    match s.crew? crew with
    | some w => if (a - apBase - 0x100000000) / 0x100000 = w.lcore k then some (a % 0x100000) else none
    | none => none
  | _ => none

/-- Banks that a copy writes in its core's scratchpad (R103, R354). -/
def State.copyBanks (s : State) (k : Nat) (crew : BitVec 16) (g : Geo) : List Nat :=
  let mine := match g.mc, s.crew? crew with
    | 1, some w => (mcMembers g.mcast).contains (w.lcore k)
    | 0, _ => true
    | _, _ => false
  if g.pfh || !mine then []
  else ((List.range g.dRows).flatMap (fun r =>
    match s.ownOff k crew (g.dst + r * g.dp) with
    | some o => banksUnder o g.dLen
    | none => [])).eraseDups

/-- Banks of its core's scratchpad under an extent. -/
def State.ownBanks (s : State) (k : Nat) (crew : BitVec 16) (a n : Nat) : List Nat :=
  match s.ownOff k crew a with
  | some o => banksUnder o n
  | none => []

/-- Banks of its core's scratchpad that a copy reads, and its signal's. -/
def State.copyReads (s : State) (k : Nat) (crew : BitVec 16) (g : Geo) : List Nat :=
  if g.pfh then []
  else ((List.range g.vr).flatMap (fun r => s.ownBanks k crew (g.src + r * g.sp) (g.vc * g.st.size)) ++
    (if g.siga = 0 then [] else s.ownBanks k crew g.siga.toNat 8)).eraseDups

/-- Commands in progress on a core: those begun, and the earlier entries of the copy's own queue (R103). -/
def Engines.inProgress (e : Engines) (q : Nat) : List Nat :=
  ((e.ce0 ++ e.ce1 ++ e.ce2 ++ e.ce3).filter (·.begun)).map (·.id) ++ (e.ce q).map (·.id)

/-- Append an entry of the context in issue to a copy queue. -/
def State.pushCmd (s : State) (q : Nat) (kind : CmdKind) (locks reads : List Nat) : State :=
  let (id, s1) := s.fresh
  let c : Cmd :=
    { id := id, who := s.origin, kind := kind, xl := s.ic.xl, pubs := s.ic.pubs.map (·.id),
      after := s.icore.writesBefore, acts := s.actBits, piece := 0, pos := 0, flt := none, slots := [], locks := locks, uses := locks ++ reads,
      lockAfter := s.icore.eng.inProgress q, begun := false, done := false, failed := false }
  s1.modEng s.issue.k (fun e => e.setCe q (e.ce q ++ [c]))

/-- The command record at a local address, as a near load samples it (R348). -/
def State.record (s : State) (va : Word) : List Word :=
  (List.range 8).map (fun i => ofBytes 64 (s.nearRead (nearOff va + 8 * i) 8))

/-- Storage words of the record. -/
def recordWords (a : SSrc) (s : State) : List (Nat × Nat × Nat) :=
  if nearOk (s.ss a) 64 then memLocs (spadBase s.issue.k + nearOff (s.ss a)) 64 else []

/-- Causes of a CPY or CPYM (R348 to R350, R354). -/
def copyTraps (multi : Bool) (a : SSrc) (s : State) : List SlotTrap :=
  let va := s.ss a
  if !nearOk va 64 then [⟨.address, va, 0⟩]
  else
    match badWord multi (s.record va) with
    | some i => trapInfo true .illegalState i
    | none => s.copyAddrs (geoOf (s.record va))

/-- The weight-seam halves that rows of an extent would bind to now (R18). -/
def State.rowViews (s : State) (ak : AK) (base pitch n : Nat) (rows : List Nat) : List (Nat × Nat) :=
  if winOf base < 3 then []
  else (rows.filterMap (fun r => match s.bind ak (BitVec.ofNat 64 (base + r * pitch)) n with
    | some b => b.half
    | none => none)).eraseDups

/-- An engine command that accesses weight views freezes the core at issue while the core's arrival flag is set, and while the clear
of a pair runs that it would bind to (R65, R67). -/
def State.viewWait (s : State) (hs : List (Nat × Nat)) (any : Bool) : Option Wait :=
  waitIf (((any || decide (hs ≠ [])) && s.icore.swapArr) || hs.any (fun h => (s.cluster h.1).clr)) .swap

/-- The wait of a copy command's weight views; one with several clusters' shadow views as its destination waits for their clears in
its queue. -/
def copyViewWait (a : SSrc) (s : State) : Option Wait :=
  let g := geoOf (s.record (s.ss a))
  if g.pfh then none
  else
    s.viewWait (s.rowViews .copySrc g.src g.sp 1 (List.range g.vr) ++
      (if g.mc = 2 then [] else s.rowViews .copyDst g.dst g.dp 1 (List.range g.dRows))) (decide (g.mc = 2))

/-- CPY and CPYM (R348). The record is sampled as a near load, so that a pending refresh of the context is waited for (R93). -/
def copyOp (p : Pr) (multi : Bool) (q : BitVec 2) (a : SSrc) (s : State) : Host.Outcome State Fault Refusal :=
  slotOp .e p 0 (recordWords a) (copyTraps multi a) (fun t => firstWait [nearWait t, copyViewWait a t, queueFull q t])
    (fun t =>
      let g := t.record (t.ss a)
      t.pushCmd q.toNat (.copy multi g) (t.copyBanks t.issue.k t.ic.crew (geoOf g))
        (t.copyReads t.issue.k t.ic.crew (geoOf g))) s

def execCpy (p : Pr) (q : BitVec 2) (a : SSrc) (s : State) := copyOp p false q a s
def execCpym (p : Pr) (q : BitVec 2) (a : SSrc) (s : State) := copyOp p true q a s

/-- SIG (R355). -/
def execSig (p : Pr) (q : BitVec 2) (a b : SSrc) (sc : Scope) (add : Bool) (s : State) : Host.Outcome State Fault Refusal :=
  slotOp .e p 0 noReads (farTrap (if add then .sigAdd else .sigWrite) (s.ss a) 8 8) (queueFull q)
    (fun t => t.pushCmd q.toNat (.sig (t.ss a) (t.ss b) sc add) [] (t.ownBanks t.issue.k t.ic.crew (t.ss a).toNat 8)) s

/-- The queues that a mask names. -/
def fenceQueues (m : BitVec 4) : List Nat := (List.range 4).filter (fun i => m.getLsbD i)

/-- QFEN: one fence entry in every named queue, all of one number (R356). -/
def execQfen (p : Pr) (m : BitVec 4) (s : State) : Host.Outcome State Fault Refusal :=
  slotOp .e p 0 noReads noTraps
    (fun t => waitIf ((fenceQueues m).any (fun q => decide (16 ≤ (t.icore.eng.ce q).length))) .sync)
    (fun t =>
      let u := (fenceQueues m).foldl (fun x q => { x.pushCmd q (.fence m) [] [] with nextId := t.nextId }) t
      { u with nextId := t.nextId + 1 }) s

/-- XMETA (R368). -/
def execXmeta (p : Pr) (q : BitVec 2) (a b c : SSrc) (s : State) : Host.Outcome State Fault Refusal :=
  slotOp .e p 0 noReads
    (fun t =>
      let n := (t.ss b).toNat
      let out := 4 * (n / 34 + 1)
      if n < 2 ∨ 2 ^ 31 - 1 < n then trapIf true .illegalState
      else trapAt (t.bind .copySrc (t.ss a) n).isNone .address (t.ss a) ++
        trapAt (decide ((t.ss c).toNat % 4 ≠ 0) || (t.bind .copyDst (t.ss c) out).isNone) .address (t.ss c))
    (fun t => firstWait [t.viewWait (t.rowViews .copySrc (t.ss a).toNat 0 1 [0] ++ t.rowViews .copyDst (t.ss c).toNat 0 1 [0]) false,
      queueFull q t])
    (fun t =>
      let n := (t.ss b).toNat
      t.pushCmd q.toNat (.xmeta (t.ss a) (t.ss b) (t.ss c)) []
        (t.ownBanks t.issue.k t.ic.crew (t.ss a).toNat n ++ t.ownBanks t.issue.k t.ic.crew (t.ss c).toNat (4 * (n / 34 + 1)))) s

/-! ### When a command may go on (R92, R101 to R103) -/

/-- A publish or refresh of a core is still pending. -/
def Core.pending (c : Core) (id : Nat) : Bool :=
  [c.c0, c.c1].any (fun x => x.pubs.any (fun p => decide (p.id = id)) || x.refs.any (fun f => decide (f.id = id))) ||
    c.orphans.any (fun p => decide (p.id = id))

/-- What a command waits for of its context's publishes is over (R92). -/
def State.pubsOver (s : State) (k : Nat) (l : List Nat) : Bool := l.all (fun i => !(s.core k).pending i)

/-- A fence at the head of a queue is met: every command issued before it into a queue that it names has completed, replays
included (R102). -/
def fenceMet (e : Engines) (c : Cmd) (m : BitVec 4) : Bool :=
  (fenceQueues m).all (fun q =>
    (e.ce q).all (fun x => decide (c.id ≤ x.id)) && (e.log (q + 1)).all (fun x => decide (c.id ≤ x.src)))

/-- Drop the fences that stand met at the head of a queue; n bounds their number. -/
def Engines.dropFences (e : Engines) (q : Nat) : Nat → Engines
  | 0 => e
  | n + 1 =>
    match e.ce q with
    | c :: l =>
      (match c.kind with
       | .fence m => if fenceMet e c m then (e.setCe q l).dropFences q n else e
       | _ => e)
    | [] => e

/-- The head command of a queue, which may go on: no halt, its context's publishes over, no fault at which its reads
stand. -/
def State.headCmd (s : State) (k q : Nat) : Option Cmd :=
  let e := (s.core k).eng
  if e.halted.getLsbD q then none
  else
    match e.ce q with
    | c :: _ => if c.flt.isNone && s.pubsOver k c.pubs then some c else none
    | [] => none

/-- Change the head command of a queue. -/
def State.modCmd (s : State) (k q : Nat) (f : Cmd → Cmd) : State :=
  s.modEng k (fun e => e.setCe q (match e.ce q with
    | c :: l => f c :: l
    | [] => []))

/-- The head command of a queue binds the slots under some pieces (R136). -/
def State.bindSlots (s : State) (k q : Nat) (ps : List (Nat × Nat)) : State :=
  if slotsOf ps = [] then s else s.modCmd k q (fun c => { c with slots := (c.slots ++ slotsOf ps).eraseDups })

/-- Remove the head command of a queue. Its writes that stand in the log keep the slots that it has bound in flight until they have
replayed (R136). -/
def State.popCmd (s : State) (k q : Nat) : State :=
  s.modEng k (fun e =>
    let e1 := match e.ce q with
      | c :: _ => e.setLog (q + 1) ((e.log (q + 1)).map (fun (x : LogEnt) => if x.src = c.id then { x with bound := c.slots } else x))
      | [] => e
    e1.setCe q ((e.ce q).drop 1))

/-- A command stops: its queue halts, and its context gets the condition (R81, R131). -/
def State.failCmd (s : State) (k q : Nat) (c : Cmd) (cause : Cause) (a : Word) : State :=
  ((s.modCmd k q (fun x => { x with failed := true })).modEng k (fun e =>
    { e with halted := e.halted ||| BitVec.ofNat 6 (2 ^ q) })).postFor c.who ⟨cause, a, 0, none⟩

/-- Commands of a core with their queues. -/
def Engines.cmds (e : Engines) : List (Nat × Cmd) := [0, 1, 2, 3].flatMap (fun j => (e.ce j).map (fun c => (j, c)))

/-- The copies of other queues whose locks a command that has not begun would meet (R103). A copy that has failed makes no
further access, so its locks are over. -/
def Engines.lockers (e : Engines) (q : Nat) (c : Cmd) : List Cmd :=
  (e.cmds.filter (fun x => decide (x.1 ≠ q) && !x.2.failed && !x.2.lockAfter.contains c.id &&
    x.2.locks.any (fun b => c.uses.contains b))).map (·.2)

/-- What a command waits for directly: earlier entries of its queue, of a fence's queues, and locks. -/
def Engines.waitsOn (e : Engines) (q : Nat) (c : Cmd) : List Nat :=
  let before (j : Nat) : List Nat := ((e.ce j).takeWhile (fun x => decide (x.id ≠ c.id))).map (·.id)
  match c.kind with
  | .fence m => (fenceQueues m).flatMap before
  | _ => if c.begun then [] else before q ++ (e.lockers q c).map (·.id)

/-- Everything that some commands wait for, through at most n others. -/
def Engines.reach (e : Engines) : Nat → List Nat → List Nat
  | 0, l => l
  | n + 1, l =>
    let m := (l ++ (e.cmds.filter (fun x => l.contains x.2.id)).flatMap (fun x => e.waitsOn x.1 x.2)).eraseDups
    if m.length ≤ l.length then l else e.reach n m

/-- A lock of another queue's copy keeps a command off a bank (R103). A lock taken after the command's issue by a copy that
itself waits for the command does not, or neither would ever go on (DEDUCED, log entry 25). -/
def Engines.lockedOut (e : Engines) (q : Nat) (c : Cmd) (b : Nat) : Bool :=
  e.cmds.any (fun x => decide (x.1 ≠ q) && !x.2.failed && x.2.locks.contains b && !x.2.lockAfter.contains c.id &&
    (decide (x.2.id < c.id) || !(e.reach 64 (e.waitsOn x.1 x.2).eraseDups).contains c.id))

/-- A copy's own locks: the commands that were in progress when it took them are over (R103). -/
def Engines.lockWaits (e : Engines) (c : Cmd) : Bool :=
  decide (c.locks ≠ []) && (e.ce0 ++ e.ce1 ++ e.ce2 ++ e.ce3).any (fun x => c.lockAfter.contains x.id && !x.failed)

/-- A command has begun, or no lock stands before any of its accesses (R103): it takes all its banks at once, so its accesses
to a locked bank lie all before the lock's copy or all after it. -/
def Engines.mayRun (e : Engines) (q : Nat) (c : Cmd) : Bool :=
  c.begun || (!e.lockWaits c && !c.uses.any (e.lockedOut q c))

/-- Far writes of the core issued before a command that still stand before an access to some places (R100). -/
def State.farBefore (s : State) (k : Nat) (after : List Nat) (ps : List (Nat × Nat)) : Bool :=
  (s.core k).far.any (fun a => after.contains a.id && (match s.farPieces a with
    | none => true
    | some l => l.any (fun x => ps.any (fun p => overlap x.2.1 x.2.2 p.1 p.2))))

/-- L-log entries that a command's access to an extent waits for (R100, R106). -/
def Engines.logBefore (e : Engines) (after : List Nat) (root : Word) (va n : Nat) : Bool :=
  logHits (e.logL.filter (fun x => after.contains x.id || after.contains x.src)) root va n

/-! ### Resolution of a running command (R12, R18) -/

/-- A weight view under the halves bound at issue. -/
def boundView (acts : BitVec 16) (cl : Nat) (shadow : Bool) (va : Word) (o n : Nat) : List Part :=
  onePart va n (.phys (halfBase cl (b2n (acts.getLsbD cl != shadow)) + o))

/-- The parts of an extent of a command: the class was decided at issue. -/
def State.cmdParts (s : State) (k : Nat) (crew : BitVec 16) (x : Xlat) (acts : BitVec 16) (a n : Nat) : List Part :=
  let va := BitVec.ofNat 64 a
  let o := a - apBase
  match winOf a with
  | 0 => splitHeap x va n 4 0
  | 1 => onePart va n .loc
  | 2 =>
    match s.crew? crew with
    | some w => onePart va n (.phys (spadBase (w.phys ((o - 0x100000000) / 0x100000)) + a % 0x100000))
    | none => []
  | 3 => boundView acts (clusterOf k) false va (o - 0x200000000) n
  | 4 => boundView acts (clusterOf k) true va (o - 0x210000000) n
  | 5 =>
    match s.crew? crew with
    | some w =>
      match w.clusters[(o - 0x300000000) / 0x20000000]? with
      | some cl => boundView acts cl (decide (o / 0x10000000 % 2 = 1)) va (o % 0x10000000) n
      | none => []
    | none => []
  | _ => []

/-- The weight-seam half that an extent lies in. -/
def viewHalf (p : Part) : List (Nat × Nat) :=
  match p.cls with
  | .phys a => if inHalf a 1 then [((a - 0x30000000000) / 0x20000000, (a - 0x30000000000) / 0x10000000 % 2)] else []
  | _ => []

/-- The destinations of a copy at an address: each is a list of parts (R354). -/
def State.copyDests (s : State) (k : Nat) (c : Cmd) (g : Geo) (a n : Nat) : List (List Part) :=
  let va := BitVec.ofNat 64 a
  match g.mc, s.crew? c.who.crew with
  | 1, some w => (mcMembers g.mcast).map (fun m => onePart va n (.phys (spadBase (w.phys m) + (a - apBase))))
  | 2, some w => (mcClusters g.mcast).map (fun m =>
      boundView c.acts (w.clusters.getD m 0) true va (a - apBase - 0x210000000) n)
  | _, _ => [s.cmdParts k c.who.crew c.xl c.acts a n]

/-- The weight-seam halves that a copy writes. -/
def State.copyHalves (s : State) (k : Nat) (c : Cmd) (g : Geo) : List (Nat × Nat) :=
  if winOf g.dst < 3 then []
  else ((List.range g.dRows).flatMap (fun r => (s.copyDests k c g (g.dst + r * g.dp) 1).flatMap (fun l => l.flatMap viewHalf))).eraseDups

/-- Undelivered stream reads of a half stand before a write through the shadow view (R68). -/
def State.readsLeft (s : State) (h : Nat × Nat) : Bool :=
  decide (0 < (if h.2 = 0 then (s.cluster h.1).reads0 else (s.cluster h.1).reads1))

/-- A copy is held before its first access: into several clusters by a clear, or by undelivered stream reads of a half that it
writes (R65, R68). -/
def State.copyHeld (s : State) (k : Nat) (c : Cmd) (g : Geo) : Bool :=
  if c.begun || g.pfh then false
  else
    let d := s.copyHalves k c g
    (decide (g.mc = 2) && d.any (fun h => (s.cluster h.1).clr)) || d.any s.readsLeft

/-! ### Reading and writing a piece (R351, R352) -/

/-- Outcome of reading some runs of bytes. -/
inductive EngRead
  | bytes (s : State) (bs : List Byte)
  | fault (s : State) (key : FltKey) (a : Word)
  | bad (s : State) (a : Word)
  | stop (ask : Option WalkReq)
  deriving DecidableEq, Repr

/-- A write that goes on, or stops, and may then ask for a walk (R115). -/
abbrev EngWrite := Except (Option WalkReq) State

/-- Read one part at its home copy (R59, R352): an access of the queue's log, or an earlier write of the core, on its bytes
stands before it. -/
def State.engReadPart (s : State) (k q : Nat) (c : Cmd) (p : Part) : EngRead :=
  let e := (s.core k).eng
  let hit := logHits (e.log (q + 1)) c.xl.root p.va.toNat p.len || e.logBefore c.after c.xl.root p.va.toNat p.len
  if hit then .stop none
  else
    match s.engPlace k (q + 1) c.xl.root .copySrc c.who (some c.slots) anyKey p with
    | .fault t key false => .fault t key p.va
    | .fault _ _ true => .stop none
    | .stop a => .stop a
    | .at t0 ps =>
      let t := t0.bindSlots k q ps
      if t.farBefore k c.after ps then .stop none
      else
        let ls := ps.flatMap (fun x => memLocs x.1 x.2)
        if t.ueAt ls then .bad (t.meetUpsets ls (some c.who)) p.va
        else
          let u := ps.foldl (fun (x : State) y => x.elide (some (dieOf k)) y.1 y.2) (t.meetUpsets ls (some c.who))
          .bytes u (ps.flatMap (fun x => u.read x.1 x.2))

/-- Read the parts of some runs in order. -/
def State.engRead (s : State) (k q : Nat) (c : Cmd) : List Part → EngRead
  | [] => .bytes s []
  | p :: l =>
    match s.engReadPart k q c p with
    | .bytes t bs =>
      (match t.engRead k q c l with
       | .bytes u cs => .bytes u (bs ++ cs)
       | o => o)
    | o => o

/-- Put a faulting or overtaken part of an engine write into its queue's log; it stops where the log is full (R122, R124). -/
def State.engLog (s : State) (k q : Nat) (c : Cmd) (kind : LogKind) (p : Part) (bs : List Byte)
    (key : Option FltKey) (unrec : Bool) : EngWrite :=
  if logCap 1 ≤ ((s.core k).eng.log (q + 1)).length then .error none
  else
    let (id, t) := s.fresh
    .ok (t.addLog k (q + 1)
      { id := id, src := c.id, who := c.who, kind := kind, va := p.va, cls := p.cls, len := p.len, data := ofBytes 1024 bs,
        root := c.xl.root, flt := key, unrec := unrec })

/-- A later piece of one command on a page that it has already faulted on counts no more: it waits with the earlier one (R128). -/
def knownKey (l : List LogEnt) (c : Cmd) (key : FltKey) : Option FltKey :=
  firstSome (fun e => if e.src = c.id then e.flt.filter (·.same key) else none) l

/-- Write one part: at home, or into the log. -/
def State.engWritePart (s : State) (k q : Nat) (c : Cmd) (ak : AK) (kind : LogKind) (p : Part) (bs : List Byte) : EngWrite :=
  let e := (s.core k).eng
  let l := e.log (q + 1)
  if logHits l c.xl.root p.va.toNat p.len then s.engLog k q c kind p bs none false
  else if e.logBefore c.after c.xl.root p.va.toNat p.len then .error none
  else
    match s.engPlace k (q + 1) c.xl.root ak c.who (some c.slots) (knownKey l c) p with
    | .fault t key u => t.engLog k q c kind p bs (some key) u
    | .stop a => .error a
    | .at t0 ps =>
      let t := t0.bindSlots k q ps
      if t.farBefore k c.after ps then .error none
      else
        .ok (ps.foldl (fun (x : State × List Byte) y =>
          ((x.1.write y.1 (x.2.take y.2)).elide (some (dieOf k)) y.1 y.2, x.2.drop y.2)) (t, bs)).1

/-- Write all parts of one destination. -/
def State.engWrite (s : State) (k q : Nat) (c : Cmd) (bs : List Byte) (l : List Part) : EngWrite :=
  l.foldlM (fun t p => t.engWritePart k q c .copyDst .copy p ((bs.drop p.off).take p.len)) s

/-- One element as R351 makes it. -/
def copyElem (g : Geo) (v : Nat) : Nat :=
  if !g.conv then v
  else if g.scl then (roundTo g.dt (Mode.ofRnd g.rnd) g.sat (applyScale g.scale (valueOf g.st v))).1
  else (convert g.st g.dt (Mode.ofRnd g.rnd) g.sat v).1

/-- The element that stands at place j of destination row d: its row and column (R351). -/
def Geo.elem (g : Geo) (d j : Nat) : Nat × Nat := if g.trn then (j, d) else (d, j)

/-- The runs of source bytes under n destination elements from place j of row d: one run where they are consecutive. -/
def Geo.runs (g : Geo) (d j n : Nat) : List (Nat × Nat) :=
  let es := g.st.size
  if g.trn then
    (List.range n).filterMap (fun i =>
      let (r, c) := g.elem d (j + i)
      if r < g.vr ∧ c < g.vc then some (g.src + r * g.sp + c * es, es) else none)
  else if d < g.vr ∧ j < g.vc then [(g.src + d * g.sp + j * es, min n (g.vc - j) * es)]
  else []

/-- The bytes of n destination elements from the source bytes of their valid ones. -/
def Geo.fill (g : Geo) (d j : Nat) : Nat → List Byte → List Byte
  | 0, _ => []
  | n + 1, bs =>
    let (r, c) := g.elem d j
    let es := g.st.size
    if r < g.vr ∧ c < g.vc then
      leBytes g.dt.size (copyElem g (leNat (bs.take es))) ++ g.fill d (j + 1) n (bs.drop es)
    else List.replicate g.dt.size 0#8 ++ g.fill d (j + 1) n bs

/-- The next piece of a copy after row d and byte b (R352). -/
def Geo.next (g : Geo) (d b n : Nat) : Nat × Nat := if g.dLen ≤ b + n then (d + 1, 0) else (d, b + n)

/-- The end of a command's pieces: without a signal it leaves its queue; with one it waits for SIGNAL_WRITE. -/
def State.copyEnd (s : State) (k q : Nat) (g : Geo) : State :=
  if g.siga = 0 then s.popCmd k q else s.modCmd k q (fun c => { c with done := true })

/-- What a mask names of a piece of n bytes that starts at byte b of its line: runs of bytes of the piece. -/
def pieceRuns (m : BitVec 16) (b n : Nat) : List (Nat × Nat) :=
  (maskRuns m).filterMap (fun r =>
    let lo := max b r.1
    let hi := min (b + n) (r.1 + r.2)
    if lo < hi then some (lo - b, hi - lo) else none)

/-- Read and convert runs of a piece: the piece's bytes with theirs put in, or what stops the read (R351). -/
def State.pieceRead (s : State) (k q : Nat) (c : Cmd) (g : Geo) : List (Nat × Nat) → Row → EngRead
  | [], v => .bytes s (toBytes 128 v)
  | (o, n) :: l, v =>
    let j := (c.pos + o) / g.dt.size
    let m := n / g.dt.size
    match s.engRead k q c ((g.runs c.piece j m).flatMap (fun r => s.cmdParts k c.who.crew c.xl c.acts r.1 r.2)) with
    | .bytes t bs => t.pieceRead k q c g l (rowPatch v o (g.fill c.piece j m bs))
    | r => r

/-- Write runs of a piece that starts at an address to every destination (R354). -/
def State.pieceWrite (s : State) (k q : Nat) (c : Cmd) (g : Geo) (a : Nat) (v : Row) (l : List (Nat × Nat)) : EngWrite :=
  l.foldlM (fun t r => (t.copyDests k c g (a + r.1) r.2).foldlM (fun u d => u.engWrite k q c (((toBytes 128 v).drop r.1).take r.2) d) t) s

/-- One piece of a copy goes on: the doublewords that this event reads are read and converted; once the piece has been read whole, those
that it writes are written to every destination, each at its home copy (R87, R351, R352, R354). A piece that faults goes to the log as
one entry, so what is left of it is written only as a whole (R119). A full log stops the copy (R124), and a walk that the walker has no
room for is asked for (R115). -/
def State.copyStep (s : State) (k q : Nat) (c : Cmd) (g : Geo) : State :=
  let a := g.dst + c.piece * g.dp + c.pos
  let n := min (128 - a % 128) (g.dLen - c.pos)
  let all := dwMask (a % 128) n
  let s0 := s.modCmd k q (fun x => { x with begun := true })
  if logCap 1 ≤ ((s.core k).eng.log (q + 1)).length then s0
  else
    match s0.moved.pieceRead k q c g (pieceRuns (s.move.rd &&& ~~~c.got) (a % 128) n) c.buf with
    | .stop w => s0.askReq (dieOf k) w
    | .fault t key va => t.modCmd k q (fun x => { x with flt := some key, fltAt := va })
    | .bad t v => t.failCmd k q c .eccUe v
    | .bytes t bs =>
      let v : Row := ofBytes 1024 bs
      let got := c.got ||| (s.move.rd &&& all)
      let rest := all &&& ~~~c.put
      let wr := if got &&& all = all then s.move.wr &&& rest else 0
      let logged (u : State) : Bool := decide (((t.core k).eng.log (q + 1)).length < ((u.core k).eng.log (q + 1)).length)
      let try1 := t.pieceWrite k q c g a v (pieceRuns wr (a % 128) n)
      let (w, try2) := match try1 with
        | .ok u => if logged u && decide (wr ≠ rest) then (rest, t.pieceWrite k q c g a v (pieceRuns rest (a % 128) n)) else (wr, try1)
        | .error _ => (wr, try1)
      match try2 with
      | .error x => s0.askReq (dieOf k) x
      | .ok u =>
        if c.put ||| w = all then
          let (d, b) := g.next c.piece c.pos n
          let z := u.modCmd k q (fun x => { x with piece := d, pos := b, got := 0, put := 0, buf := 0 })
          if g.dRows ≤ d then z.copyEnd k q g else z
        else u.modCmd k q (fun x => { x with got := got, put := c.put ||| w, buf := v })

/-- One page of a prefetch hint enters the queue's unit TLB and the core TLB (R353), by a walk of its own where the TLBs miss (R115). What
faults is dropped and counted (R119), and so is a page in an unplaced slot, for which nothing is performed (R24). How often one hint counts
is not given: here once with each 4 KiB page of each of its rows that is dropped, as a PFH of each page would (DESIGN CHOICE, log entry 67). -/
def State.hintPage (s : State) (k u : Nat) (root : Word) (v : Nat) : EngWrite :=
  let free (t : State) (e : TlbEnt) : Bool := (slotsUnder (e.pa v) 1).any (fun n => (t.frame? n).isNone)
  match s.tlbFind k u root v .prefetch with
  | some e => .ok (if free s e then s.pfDrop k else s.install k u e)
  | none =>
    let x := s.pruneWalks (dieOf k) (walkKey root v)
    if !x.walkRuns (dieOf k) (walkKey root v) then .error (some (walkReq k u root v .prefetch))
    else
      let y := x.closeWalk (dieOf k) (walkKey root v)
      .ok (match y.pageWalk k u root v .prefetch with
        | (t, .mapped) =>
          (match t.tlbFind k u root v .prefetch with
           | some e => if free t e then y.pfDrop k else t
           | none => t)
        | (t, _) => t.pfDrop k)

/-- The first address in each 4 KiB page of the paged parts of a row. -/
def hintPages (l : List Part) : List Nat :=
  (l.filter (fun p => decide (p.cls = .paged))).flatMap (fun p =>
    (List.range ((p.va.toNat + p.len - 1) / 4096 - p.va.toNat / 4096 + 1)).map (fun i =>
      if i = 0 then p.va.toNat else (p.va.toNat / 4096 + i) * 4096))

/-- The next page of a prefetch hint's source rows is translated. -/
def State.hintStep (s : State) (k q : Nat) (c : Cmd) (g : Geo) : State :=
  let n := g.vc * g.st.size
  if g.vr ≤ c.piece ∨ n = 0 then s.copyEnd k q g
  else
    let ps := hintPages (s.cmdParts k c.who.crew c.xl c.acts (g.src + c.piece * g.sp) n)
    match ps[c.pos]? with
    | none => s.modCmd k q (fun x => { x with begun := true, piece := c.piece + 1, pos := 0 })
    | some v =>
      match s.hintPage k (q + 1) c.xl.root v with
      | .ok t => t.modCmd k q (fun x => { x with begun := true, pos := c.pos + 1 })
      | .error w => s.askReq (dieOf k) w

/-- COPY_PIECE (R352): the head copy of a queue goes on by one piece. Fences that are met leave the queue's head. -/
def execCopyPiece (k q : Nat) (s : State) : Host.Outcome State Fault Refusal :=
  let s1 := s.modEng k (fun e => e.dropFences q 16)
  match s1.headCmd k q with
  | none => .next s1
  | some c =>
    .next (match c.kind with
      | .copy _ w =>
        let g := geoOf w
        if c.done || s1.copyHeld k c g || !(s1.core k).eng.mayRun q c then s1
        else if g.pfh then s1.hintStep k q c g
        else s1.copyStep k q c g
      | _ => s1)

/-! ### Signals (R104, R355) -/

/-- The signal of a command: address, value, addition. -/
def Cmd.signal (c : Cmd) : Option (Word × Word × Bool) :=
  match c.kind with
  | .copy _ w => let g := geoOf w
                 if c.done ∧ g.siga ≠ 0 then some (g.siga, g.sigv, g.add) else none
  | .sig a v _ add => some (a, v, add)
  | _ => none

/-- Perform a signal at its place. -/
def State.signalAt (s : State) (pa : Nat) (v : Word) (add : Bool) : State :=
  s.write64 pa (if add then s.read64 pa + v else v)

/-- A signal is written, or logged where its page faults, and its command leaves the queue. -/
def State.signalStep (s : State) (k q : Nat) (c : Cmd) (a v : Word) (add : Bool) : State :=
  let ak : AK := if add then .sigAdd else .sigWrite
  let kind : LogKind := if add then .red .add true else .store
  match s.cmdParts k c.who.crew c.xl c.acts a.toNat 8 with
  | [p] =>
    (match s.engPlace k (q + 1) c.xl.root ak c.who none anyKey p with
     | .stop w => s.askReq (dieOf k) w
     | .fault t key unrec =>
       (match t.engLog k q c kind p (toBytes 8 v) (some key) unrec with
        | .ok u => u.popCmd k q
        | .error _ => s)
     | .at t [(pa, _)] =>
       if t.farBefore k c.after [(pa, 8)] then s
       else if add && t.ueAt (memLocs pa 8) then (t.meetUpsets (memLocs pa 8) (some c.who)).failCmd k q c .eccUe a
       else (((t.meetUpsets (if add then memLocs pa 8 else []) (some c.who)).signalAt pa v add).elide (some (dieOf k)) pa 8).popCmd k q
     | .at _ _ => s)
  | _ => s

/-- SIGNAL_WRITE (R104): the signal of the head command is written once every payload write before it, replays included,
has been performed. -/
def execSignalWrite (k q : Nat) (s : State) : Host.Outcome State Fault Refusal :=
  let s1 := s.modEng k (fun e => e.dropFences q 16)
  match s1.headCmd k q with
  | none => .next s1
  | some c =>
    .next (match c.signal with
      | some (a, v, add) =>
        if (s1.core k).eng.mayRun q c ∧ (s1.core k).eng.log (q + 1) = [] ∧ !(s1.core k).eng.logBefore c.after c.xl.root a.toNat 8 then
          s1.signalStep k q c a v add
        else s1
      | none => s1)

/-! ### Chunks (R73, R75, R76) and XMETA (R368) -/

/-- Number of set bits of some bytes. -/
def popBytes (bs : List Byte) : Nat := (bs.map (fun b => ((List.range 8).filter (fun i => b.getLsbD i)).length)).sum

/-- Size of the chunk at offset o of a stream of len bytes, from its first bytes: none where it is malformed or overruns the
stream (R73, R75). -/
def chunkSize (o len : Nat) (head : List Byte) : Option Nat :=
  if len < o + 2 then none
  else
    let h := leNat (head.take 2)
    let z := if h = 0x8000 then 258 else 34 + popBytes ((head.drop 2).take 32)
    if h ≠ 0 ∧ h ≠ 0x8000 then none
    else if h = 0 ∧ len < o + 34 then none
    else if len < o + z then none
    else some z

/-- One word of an export: the next chunk's offset, with BAD where the walk ends at a bad chunk (R76). A full log stops it (R124),
and so do undelivered stream reads of a half that it is to write (R68). -/
def State.metaStep (s : State) (k q : Nat) (c : Cmd) (src len out : Word) : State :=
  let n := len.toNat
  let halves := (s.cmdParts k c.who.crew c.xl c.acts out.toNat 4).flatMap viewHalf
  if !(s.core k).eng.mayRun q c || decide (logCap 1 ≤ ((s.core k).eng.log (q + 1)).length) || (!c.begun && halves.any s.readsLeft) then s
  else if n ≤ c.pos then s.popCmd k q
  else
    let m := min 34 (n - c.pos)
    match s.engRead k q c (s.cmdParts k c.who.crew c.xl c.acts (src.toNat + c.pos) m) with
    | .stop w => s.askReq (dieOf k) w
    | .fault t key va => t.modCmd k q (fun x => { x with flt := some key, fltAt := va })
    | .bad t v => t.failCmd k q c .eccUe v
    | .bytes t bs =>
      let z := chunkSize c.pos n bs
      let w := c.pos + (if z.isNone then 2 ^ 31 else 0)
      match t.engWrite k q c (leBytes 4 w) (t.cmdParts k c.who.crew c.xl c.acts (out.toNat + 4 * c.piece) 4) with
      | .error x => s.askReq (dieOf k) x
      | .ok u =>
        (match z with
         | none => u.popCmd k q
         | some d =>
           if n ≤ c.pos + d then u.popCmd k q
           else u.modCmd k q (fun x => { x with begun := true, piece := c.piece + 1, pos := c.pos + d }))

/-- XMETA_EXPORT (R368): the head export of a queue writes its next word. -/
def execXmetaExport (k q : Nat) (s : State) : Host.Outcome State Fault Refusal :=
  let s1 := s.modEng k (fun e => e.dropFences q 16)
  match s1.headCmd k q with
  | none => .next s1
  | some c =>
    .next (match c.kind with
      | .xmeta a n o => s1.metaStep k q c a n o
      | _ => s1)

end Sys2Proof.Machine
end

