-- ==== Sys2Proof/Machine/Stream.lean ====
section
/-!
DEFINITION. The weight seam and its streams (R64 to R70, R73 to R75, R357 to R359, R361), and RNGS (R369).
-/

namespace Sys2Proof.Machine

/-! ### SLD (R357) -/

/-- Offset in the own active view of an extent that lies in it. -/
def activeOff (va n : Nat) : Option Nat :=
  let o := va - apBase - 0x200000000
  if winOf va = 3 ∧ o + n ≤ 0xC000000 then some o else none

/-- Causes of an SLD. -/
def sldTraps (a b : SSrc) (s : State) : List SlotTrap :=
  let va := s.ss a
  let n := (s.ss b).toNat
  trapIf (decide (n < 2) || decide (2 ^ 31 - 1 < n)) .illegalState ++
  trapAt (decide (va.toNat % 2 ≠ 0) || (activeOff va.toNat n).isNone ||
    decide ((s.cluster (clusterOf s.issue.k)).owner ≠ s.ic.crew)) .address va

/-- Holds of an SLD: a clear or an open swap freezes the core, a full queue holds the context (R65, R67, R345). -/
def sldWait (s : State) : Option Wait :=
  let cl := clusterOf s.issue.k
  firstWait [s.halfWait s.issue.k (some (cl, 0)) false, waitIf (decide (4 ≤ s.icore.eng.sl.length)) .sync]

/-- SLD: the stream is bound to the half that is active (R18), and comes after the far writes that its core has issued (R100). -/
def execSld (p : Pr) (a b : SSrc) (q : BitVec 6) (s : State) : Host.Outcome State Fault Refusal :=
  slotOp .e p 0 noReads (sldTraps a b) sldWait
    (fun t =>
      let cl := clusterOf t.issue.k
      let h := b2n (t.cluster cl).act
      let o := (activeOff (t.ss a).toNat (t.ss b).toNat).getD 0
      let (id, u) := t.fresh
      (u.modEng t.issue.k (fun e => { e with sl := e.sl ++
        [{ id := id, who := t.origin, pa := halfBase cl h + o, half := (cl, h), len := (t.ss b).toNat, ratio := q.toNat, fetched := 0
           decoded := 0, after := t.icore.writesBefore }] })).countReads (cl, h) (· + 1)) s

/-! ### The loader (R73 to R75, R358) -/

/-- The size of the next granule: up to 512 bytes, not across a granule's edge. -/
def Stream.granule (t : Stream) : Nat := min (512 - (t.pa + t.fetched) % 512) (t.len - t.fetched)

/-- STREAM_FETCH: the stream at the head fetches a granule if the FIFO has unreserved space for what it can decode to
(R74), and if the core's earlier far writes of its bytes have been performed (R100); a weight view is never paged, so that none of them
stands in a side log. -/
def execStreamFetch (k : Nat) (s : State) : Host.Outcome State Fault Refusal :=
  let e := (s.core k).eng
  match e.sl with
  | t :: l =>
    let g := t.granule
    if e.halted.getLsbD 4 ∨ g = 0 ∨ (s.cluster t.half.1).clr ∨
        4 * (16384 - 128 * fifoRows e.fifo) < (t.fetched - t.decoded + g) * t.ratio ∨
        s.farBefore k t.after [(t.pa + t.fetched, g)] then .next s
    else .next (s.modEng k (fun x => { x with sl := { t with fetched := t.fetched + g } :: l }))
  | [] => .next s

/-- The stream at the head ends: its count of R68 is released and the next one starts. -/
def State.endStream (s : State) (k : Nat) (t : Stream) : State :=
  (s.modEng k (fun e => { e with sl := e.sl.drop 1 })).countReads t.half (· - 1)

/-- Append to the decoder FIFO: rows take the next places of its ring of 128 (R80; log entry 21). -/
def State.pushFifo (s : State) (k : Nat) (l : List FifoEnt) : State :=
  let n := fifoRows l
  let at' := (s.core k).eng.fifoAt
  (s.modEng k (fun e => { e with fifo := e.fifo ++ l, fifoAt := (at' + n) % 128 })).clearUpsets
    ((List.range n).flatMap (fun i => fifoLocs k ((at' + i) % 128)))

/-- The 256 decoded bytes of a chunk (R73). -/
def decodeChunk (bs : List Byte) : List Byte :=
  if leNat (bs.take 2) = 0x8000 then (bs.drop 2).take 256
  else
    let mask := (bs.drop 2).take 32
    let rec go : Nat → Nat → List Byte → List Byte
      | 0, _, _ => []
      | f + 1, n, pay =>
        if (mask.getD (n / 8) 0#8).getLsbD (n % 8) then pay.headD 0#8 :: go f (n + 1) (pay.drop 1)
        else 0#8 :: go f (n + 1) pay
    go 256 0 (bs.drop 34)

/-- What the loader can say of the next chunk: more bytes are needed, it fails a check, a word of its first n bytes that the checks read is
uncorrectable, or it is whole with a size. -/
inductive Chunk
  | more
  | bad
  | ue (n : Nat)
  | ok (z : Nat)
  deriving DecidableEq, Repr

/-- The checks of R75 on the chunk at the stream's decoded offset, with the bytes fetched so far: the header is read first, then the mask. -/
def Stream.check (t : Stream) (s : State) : Chunk :=
  let o := t.decoded
  let have' := t.fetched - o
  if t.len < o + 2 then .bad
  else if have' < 2 then .more
  else
    let h := leNat (s.read (t.pa + o) 2)
    if s.ueAt (memLocs (t.pa + o) 2) then .ue 2
    else if h ≠ 0 ∧ h ≠ 0x8000 then .bad
    else if h = 0 ∧ t.len < o + 34 then .bad
    else if h = 0 ∧ have' < 34 then .more
    else if h = 0 ∧ s.ueAt (memLocs (t.pa + o) 34) then .ue 34
    else
      match chunkSize o t.len (s.read (t.pa + o) 34) with
      | none => .bad
      | some z => if z * t.ratio < 1024 then .bad else if have' < z then .more else .ok z

/-- Bytes at the start of a chunk that its checks have read: the header, and the mask of a chunk that has one. -/
def Stream.headLen (t : Stream) (s : State) : Nat :=
  if t.len < t.decoded + 2 then 0
  else if leNat (s.read (t.pa + t.decoded) 2) ≠ 0 ∨ t.len < t.decoded + 34 then 2
  else 34

/-- An uncorrectable word of the head stream's first n bytes at its decoded offset stops the loader (R81). -/
def State.stopStream (s : State) (k : Nat) (t : Stream) (n : Nat) : State :=
  ((s.meetUpsets (memLocs (t.pa + t.decoded) n) (some t.who)).pushFifo k [.bad t.decoded none]).modEng k
    (fun x => { x with halted := x.halted ||| 0x10#6 })

/-- STREAM_CHUNK_DECODE (R75): the next chunk of the head stream is checked, and decoded into two rows or answered by a mark;
an uncorrectable word stops the loader, one that the checks read included (R80, R81). -/
def execStreamChunkDecode (k : Nat) (s : State) : Host.Outcome State Fault Refusal :=
  let e := (s.core k).eng
  match e.sl with
  | [] => .next s
  | t :: l =>
    if e.halted.getLsbD 4 then .next s
    else
      match t.check s with
      | .more => .next s
      | .bad => .next (((s.meetUpsets (memLocs (t.pa + t.decoded) (t.headLen s)) (some t.who)).pushFifo k [.mark t.decoded]).endStream k t)
      | .ue n => .next (s.stopStream k t n)
      | .ok z =>
        let ls := memLocs (t.pa + t.decoded) z
        if s.ueAt ls then .next (s.stopStream k t z)
        else
          let s1 := s.meetUpsets ls (some t.who)
          let bs := decodeChunk (s1.read (t.pa + t.decoded) z)
          let s2 := s1.pushFifo k [.row (ofBytes 1024 (bs.take 128)), .row (ofBytes 1024 (bs.drop 128))]
          if t.decoded + z = t.len then .next ((s2.modEng k (fun x => { x with lastClean := t.len })).endStream k t)
          else .next (s2.modEng k (fun x => { x with sl := { t with decoded := t.decoded + z } :: l }))

/-! ### SCLD (R359) -/

/-- Causes of an SCLD. -/
def scldTraps (a : SSrc) (s : State) : List SlotTrap := farTrap .scale (s.ss a) 64 64 s

/-- SCLD lands the 32 scales at T + 12: from the local scratchpad as sampled at T, else from a far read. -/
def execScld (p : Pr) (n : BitVec 3) (a : SSrc) (s : State) : Host.Outcome State Fault Refusal :=
  slotOp .e p 1 noReads (scldTraps a)
    (fun t => firstWait [if winOf (t.ss a).toNat = 1 then nearWait t else .none, t.boundWait .scale (t.ss a) 64 false,
      t.walkWait 5 .scale (t.ss a) 64])
    (fun t =>
      if winOf (t.ss a).toNat = 1 then
        let o := nearOff (t.ss a)
        let ls := memLocs (spadBase t.issue.k + o) 64
        let e : Option QErr := if t.ueAt ls then some ⟨.eccUe, 0, 0, false, t.issue.pc⟩ else none
        (t.meetUpsets ls (some t.origin)).enterLanding
          { due := t.ic.regs.tick + 12, slot := .e, dst := .scale n, val := ofBytes 1024 (t.nearRead o 64),
            fl := 0#7, wait := none, tileWord := false, err := e }
      else
        let (id, u) := t.issueFar (.scale n) (t.ss a) 64 0#1024 (t.boundParts .scale (t.ss a) 64)
        u.landWait .e (.scale n) 12 id) s

/-! ### WSWAP (R66, R361) -/

/-- Causes of a WSWAP. -/
def wswapTraps (s : State) : List SlotTrap :=
  let c := s.cluster (clusterOf s.issue.k)
  trapIf (decide (c.owner ≠ s.ic.crew)) .address ++
    trapIf (s.icore.swapArr || decide (c.exp = 0) || decide (16 < c.exp.toNat)) .illegalState

/-- The cores of a cluster. -/
def coresOf (cl : Nat) : List Nat := (List.range 16).map (fun i => cl * 16 + i)

/-- One arrival; the last one completes the swap. -/
def State.arriveSwap (s : State) (k : Nat) : State :=
  let cl := clusterOf k
  let c := s.cluster cl
  if c.arr + 1 = c.exp then
    (coresOf cl).foldl (fun t p => t.modCore p (fun x => { x with swapArr := false }))
      (s.modCluster cl (fun x => { x with act := !x.act, epoch := x.epoch + 1, arr := 0, lost := false }))
  else
    (s.modCluster cl (fun x => { x with arr := x.arr + 1 })).modCore k (fun x => { x with swapArr := true })

def execWswap (p : Pr) (s : State) : Host.Outcome State Fault Refusal :=
  slotOp .e p 0 noReads wswapTraps noWaits (fun t => t.arriveSwap t.issue.k) s

/-! ### RNGS (R369) -/

/-- RNGS seeds the context's generator after the bundle's X slot. -/
def execRngs (p : Pr) (a b : SSrc) (loc : Bool) (s : State) : Host.Outcome State Fault Refusal :=
  slotOp .e p 0 noReads noTraps noWaits
    (fun t =>
      let n := t.origin.lcore
      let (x, q) := rngSeed (t.ss a) (t.ss b) (if loc then BitVec.ofNat 64 n else 0) (if loc then BitVec.ofNat 64 t.issue.r else 0)
      t.modIr (fun g => { g with rng := x, rq := q })) s

/-! ### Ownership (R65) -/

/-- A write of OWNER and EXP: a change of owner starts the clear of both halves. -/
def State.setOwner (s : State) (cl : Nat) (owner : BitVec 16) (exp : BitVec 5) : State :=
  if (s.cluster cl).owner = owner then s.modCluster cl (fun c => { c with exp := exp })
  else
    (coresOf cl).foldl (fun t p => t.modCore p (fun x => { x with swapArr := false }))
      (s.modCluster cl (fun c => { c with
        owner := owner, exp := exp, epoch := 0, arr := 0, lost := true, clr := true, reads0 := 0, reads1 := 0 }))

/-- Cluster number of a die's cluster. -/
def clIx (d : Bool) (c : BitVec 3) : Nat := b2n d * 8 + c.toNat

/-- SEAM_OWNER_WRITE. -/
def execSeamOwnerWrite (d : Bool) (c : BitVec 3) (owner : BitVec 16) (exp : BitVec 5) (s : State) :
    Host.Outcome State Fault Refusal :=
  .next (s.setOwner (clIx d c) owner exp)

/-- Both halves of a cluster are zero and hold no error. -/
def State.zeroHalves (s : State) (cl : Nat) : State :=
  { s with mem := Tab.clear s.mem (halfBase cl 0) (halfBase cl 0 + 0x20000000) }.rewritten (fun _ a l =>
    decide (a = 6) && decide (halfBase cl 0 ≤ l) && decide (l < halfBase cl 0 + 0x20000000))

/-- SEAM_CLEAR_DONE: the clear ends. -/
def execSeamClearDone (d : Bool) (c : BitVec 3) (s : State) : Host.Outcome State Fault Refusal :=
  let cl := clIx d c
  if (s.cluster cl).clr then .next ((s.zeroHalves cl).modCluster cl (fun x => { x with clr := false })) else .next s

/-! ### Refresh and temperature (R69, R70, R82) -/

/-- Rows of a bank: 96 subarrays of 2,048 rows of 1 KiB (R64). The words of one row of every subarray that hold an upset. Which bytes of a
half a row holds is not given: here subarray i holds the i-th 2 MiB, its row r the r-th KiB of them (DESIGN CHOICE, log entry 60). -/
def State.rowUpsets (s : State) (cl h row : Nat) : List Upset :=
  s.upsets.filter (fun u =>
    let o := u.loc - halfBase cl h
    decide (u.array = 6) && decide (halfBase cl h ≤ u.loc) && decide (u.loc < halfBase cl h + 0xC000000) &&
      decide (o % 0x200000 / 1024 = row))

/-- WEIGHT_REFRESH_CYCLE: one row in every subarray is refreshed, single errors corrected (R69, R82); the cycle is taken from
demand while a stream reads the bank. In reduced service there is no refresh (R396). -/
def execWeightRefreshCycle (d : Bool) (c : BitVec 3) (h : Bool) (s : State) : Host.Outcome State Fault Refusal :=
  if s.head.held then .next s else
  let cl := clIx d c
  let x := s.cluster cl
  let row := if h then x.row1 else x.row0
  let ls := (s.rowUpsets cl (b2n h) row).map (fun u => (u.die, u.array, u.loc))
  let next := (row + 1) % 2048
  .next ((s.meetUpsets ls none).modCluster cl (fun y =>
    if h then { y with row1 := next, stall1 := if 0 < y.reads1 then y.stall1 + 1 else y.stall1 }
    else { y with row0 := next, stall0 := if 0 < y.reads0 then y.stall0 + 1 else y.stall0 }))

/-- The band of a temperature (R69). -/
def bandOf (t : Nat) : Nat := if t ≤ 85 then 0 else if t ≤ 95 then 1 else if t ≤ 105 then 2 else 3

/-- Upper limit of a band. -/
def bandTop (b : Nat) : Nat := 85 + 10 * b

/-- Since when every reading has been at least 3 °C below the upper limit of each band (R70). -/
def coolSince (now : BitVec 64) (t : Nat) (l : List (Nat × BitVec 64)) : List (Nat × BitVec 64) :=
  [0, 1, 2].filterMap (fun b =>
    if t + 3 ≤ bandTop b then some (match l.find? (fun e => decide (e.1 = b)) with
      | some e => e
      | none => (b, now))
    else none)

/-- An error record whose word, position and syndrome the manual does not give: free values. -/
def State.logOpen (s : State) (d array kind : Nat) : State :=
  let v := Config.openValue s.free
  let w := Config.openValue (s.free + 1)
  { (s.logErr d array kind (bf v 51 0) (bf w 6 0) (BitVec.ofNat 8 (bf w 15 8)) none) with free := s.free + 2 }

/-- SENSOR_SAMPLE: a hotter band applies at once, a cooler one after 1 ms of readings 3 °C below its limit; entry into band 3
posts OVERTEMP (R70). -/
def execSensorSample (d : Bool) (c : BitVec 3) (t : Nat) (s : State) : Host.Outcome State Fault Refusal :=
  let cl := clIx d c
  let x := s.cluster cl
  let cur := x.band.toNat
  let cool := coolSince s.time t x.cool
  let hot := bandOf t
  let ripe := (cool.filter (fun e => decide (e.1 < cur) && decide (1000000 ≤ (s.time - e.2).toNat))).map (·.1)
  let band := if cur < hot then hot else match ripe with
    | b :: _ => b
    | [] => cur
  let s1 := s.modCluster cl (fun y => { y with band := BitVec.ofNat 2 band, cool := cool })
  .next (if cur < 3 ∧ band = 3 then s1.logOpen (b2n d) 6 3 else s1)

end Sys2Proof.Machine
end

