-- ==== Sys2Proof/Machine/Matrix.lean ====
section
/-!
DEFINITION. The M slot and the matrix array (R316 to R344): configuration, tokens, parameter registers, routines, the
microprogram store, assay passes, drains and centroids; and the run of the entries of mx.
-/

namespace Sys2Proof.Machine

/-! ### Tokens and configuration (R317, R321) -/

/-- Elements per 128 bytes of an A row (R316). -/
def kOf (ty : Ty) : Nat := 128 / ty.size

/-- Physical accumulator of a name in a split or whole core (R144). -/
def physAccOf (split : Bool) (r a : Nat) : Nat := if split && decide (r = 1) then a + 2 else a

/-- The physical tiles that an entry names (R321). -/
def mxNames (e : MxEnt) : List Nat :=
  let p := physAccOf e.split e.half
  match e.kind with
  | .routine rt w _ _ _ _ _ _ _ =>
    if rt ≤ 3 then [p e.acc]
    else if rt = 4 then [p e.acc, p (bf (lrw w 0) 1 0)]
    else if rt = 5 then []
    else if e.split then [p 0, p 1] else [0, 1, 2, 3]
  | .accz | .acupd _ _ _ | .asdrn _ _ _ => [p e.acc]
  | .acfin c _ => [p e.acc, p c]
  | .mstw _ _ _ | .ascfgClr => []

/-- A token of a resident context is with the V slots. -/
def Core.tokensOut (c : Core) : Bool := [c.c0, c.c1].any (fun x => decide (x.mode ≠ .empty) && decide (x.regs.tok ≠ 0))

/-- MCFG (R317). -/
def execMcfg (p : Pr) (ta tb : Ty) (s : State) : Host.Outcome State Fault Refusal :=
  slotOp .m p 0 noReads (fun t => trapIf (decide (t.icore.eng.mx ≠ []) || t.icore.tokensOut) .illegalState) noWaits
    (fun t => { t with issue := { t.issue with cfg := some (ta, tb) } }) s

/-- A V-slot result for a physical accumulator tile is pending or issues in the same bundle (R321). -/
def Ctx.vPending (c : Ctx) (a : Nat) : Bool :=
  c.landing.any (fun e => decide (e.accOf = some a) || (match e.dst with
    | .acc i => decide (i / 512 = a)
    | _ => false))

/-- ACCTK (R321). -/
def execAcctk (p : Pr) (acc : BitVec 2) (s : State) : Host.Outcome State Fault Refusal :=
  slotOp .m p 0 noReads
    (fun t => trapIf (t.accBad acc || !t.tokV acc || t.ic.vPending (t.physAcc acc.toNat)) .illegalState) noWaits
    (fun t => { t with issue := { t.issue with toks := t.issue.toks ++ [(acc, false)] } }) s

/-- ACCGV: held while an entry of mx names the tile (R321). -/
def execAccgv (p : Pr) (acc : BitVec 2) (s : State) : Host.Outcome State Fault Refusal :=
  slotOp .m p 0 noReads (fun t => trapIf (t.accBad acc || t.tokV acc) .illegalState)
    (fun t => waitIf (t.icore.eng.mx.any (fun e => (mxNames e).contains (t.physAcc acc.toNat))) .sync)
    (fun t => { t with issue := { t.issue with toks := t.issue.toks ++ [(acc, true)] } }) s

/-- MSETP (R325). -/
def execMsetp (p : Pr) (n : BitVec 3) (v : MpSrc) (s : State) : Host.Outcome State Fault Refusal :=
  slotOp .m p 1 noReads noTraps noWaits
    (fun t =>
      let x : Word := match v with
        | .scalar a => t.ss a
        | .imm k e => immVal k.toNat 26 e
      t.land .m (.mp n) (x.setWidth 1024) 1) s

/-! ### Entering mx (R318) -/

/-- The entry is an MCALL. -/
def MxEnt.isCall (e : MxEnt) : Bool :=
  match e.kind with
  | .routine _ _ _ _ _ _ _ _ _ => true
  | _ => false

/-- A full queue holds the context. -/
def mxWait (call : Bool) (s : State) : Option Wait :=
  let q := s.icore.eng.mx
  waitIf (decide (8 ≤ q.length) || (call && decide (2 ≤ (q.filter (·.isCall)).length))) .sync

/-- The numbers of n new places in qas. -/
def placeIds (first n : Nat) : List Nat := (List.range n).map (fun i => first + i)

/-- The errors that the tiles of the core hold now. -/
def State.tileErrs (s : State) : List Upset :=
  s.upsets.filter (fun u => decide (u.die = dieOf s.issue.k) && decide (u.array = 0) &&
    decide (u.loc / 2 ^ 32 = coreLoc s.issue.k 0 / 2 ^ 32) && decide (u.flipped ≠ []))

/-- Enter an entry with n places in qas. -/
def State.pushMx (s : State) (kind : MxKind) (acc : BitVec 2) (places : Nat) : State :=
  let c := s.icore
  let id := s.nextId
  let ids := placeIds (id + 1) places
  let e : MxEnt :=
    { id := id, who := s.origin, xl := s.ic.xl, kind := kind, acc := acc.toNat, split := s.isplit, half := s.issue.r,
      ta := c.ta, tb := c.tb, scales := (List.range 8).map (fun i => Tab.get c.scales i), ascfg := c.ascfg, qas := ids,
      after := c.writesBefore ++ s.ic.refs.map (·.id), upc := 0, row := 0, num := 0, den := 0, red := false, flt := none,
      errs := s.tileErrs, failed := false }
  let s1 := (s.modEng s.issue.k (fun x => { x with mx := x.mx ++ [e] })).modIc (fun x => { x with
    qas := x.qas ++ ids.map (fun i => ⟨i, .scal .d, none, none⟩) })
  { s1 with nextId := id + 1 + places }

/-- Places that would exceed the 128 of qas (R339). -/
def qasFull (n : Nat) (s : State) : Bool := decide (128 < s.qlen .qas s.ic.qas.length + n)

/-- The token of an accumulator that an entry names is with V. -/
def tokTrap (l : List (BitVec 2)) (s : State) : List SlotTrap :=
  trapIf (l.any s.accBad) .illegalState ++ trapIf (l.any s.tokV) .token

/-- ACCZ (R322). -/
def execAccz (p : Pr) (acc : BitVec 2) (s : State) : Host.Outcome State Fault Refusal :=
  slotOp .m p 0 noReads (tokTrap [acc]) (mxWait false) (fun t => t.pushMx .accz acc 0) s

/-- MSTW in its two forms (R336). -/
def execMstw (p : Pr) (tab : Bool) (a b : SSrc) (s : State) : Host.Outcome State Fault Refusal :=
  slotOp .m p 0 noReads noTraps (mxWait false) (fun t => t.pushMx (.mstw tab (t.ss a) (t.ss b)) 0 0) s

/-- ASCFG (R340): the word takes effect at T + 1; with CLR an entry enters mx. -/
def execAscfg (p : Pr) (a : SSrc) (s : State) : Host.Outcome State Fault Refusal :=
  slotOp .m p 0 noReads
    (fun t => trapIf (decide (bf (t.ss a) 63 32 ≠ 0) || decide (bf (t.ss a) 15 5 ≠ 0)) .illegalState)
    (fun t => if wb (t.ss a) 4 then mxWait false t else none)
    (fun t =>
      let u := if wb (t.ss a) 4 then t.pushMx .ascfgClr 0 0 else t
      { u with issue := { u.issue with asc := some (t.ss a) } }) s

/-- ASDRN (R341). -/
def execAsdrn (p : Pr) (acc : BitVec 2) (a b : SSrc) (ncol1 : BitVec 7) (s : State) : Host.Outcome State Fault Refusal :=
  let places (t : State) : Nat := if wb t.icore.ascfg 3 then 0 else (t.ss b).toNat
  slotOp .m p 0 noReads
    (fun t =>
      let r0 := (t.ss a).toNat
      let c := (t.ss b).toNat
      trapIf (decide (c = 0) || decide (128 < r0 + c) || qasFull (places t) t) .illegalState ++ tokTrap [acc] t)
    (mxWait false)
    (fun t => t.pushMx (.asdrn (t.ss a).toNat (t.ss b).toNat (ncol1.toNat + 1)) acc (places t)) s

/-! ### Rows (R320) -/

/-- A row extent of n bytes lies in the local window or is paged. -/
def State.mxRowOk (s : State) (k : Nat) (crew : BitVec 16) (x : Xlat) (a n : Nat) : Bool :=
  let va := BitVec.ofNat 64 a
  decide (a % 128 = 0) && decide (a < 2 ^ 64) &&
    (match s.bindX k crew x .copySrc va n with
     | some b => b.parts.all (fun p => decide (p.cls = .loc) || decide (p.cls = .paged)) && decide (winOf a ≤ 1)
     | none => false)

/-- Rows of an entry: the addresses base + r × stride, modulo 2^64. -/
def strideRows (base stride : Word) (n : Nat) : List Nat := (List.range n).map (fun r => (base + BitVec.ofNat 64 r * stride).toNat)

/-- Address trap at issue for the first row of a list that has no proper place; each row may lie in either window. -/
def State.rowTraps (s : State) (rows : List Nat) (n : Nat) : List SlotTrap :=
  match rows.find? (fun a => !s.mxRowOk s.issue.k s.ic.crew s.ic.xl a n) with
  | some a => [⟨.address, BitVec.ofNat 64 a, 0⟩]
  | none => []

/-- ACUPD (R342). -/
def execAcupd (p : Pr) (acc : BitVec 2) (a b : SSrc) (d1 : BitVec 7) (s : State) : Host.Outcome State Fault Refusal :=
  slotOp .m p 0 noReads
    (fun t =>
      let c := (t.ss b).toNat
      trapIf (decide (t.icore.ta.size = 2 ∧ 64 < d1.toNat + 1) || decide (c = 0) || decide (128 < c)) .illegalState ++
        tokTrap [acc] t ++ t.rowTraps (strideRows (t.ss a) 128 (min c 128)) 128)
    (mxWait false)
    (fun t => t.pushMx (.acupd (t.ss a) (t.ss b).toNat (d1.toNat + 1)) acc 0) s

/-- ACFIN (R343). -/
def execAcfin (p : Pr) (a c : BitVec 2) (d1 : BitVec 7) (s : State) : Host.Outcome State Fault Refusal :=
  slotOp .m p 0 noReads (tokTrap [a, c]) (mxWait false) (fun t => t.pushMx (.acfin c.toNat (d1.toNat + 1)) a 0) s

/-! ### MCALL (R326 to R335) -/

/-- w0 of routines 0 to 3 (R329). -/
structure Pass where
  rows : Nat
  arow : Nat
  zero : Bool
  scl : Bool
  ka : Nat
  kb : Nat
  j0 : Nat
  deriving DecidableEq, Repr

def passOf (w : Word) : Pass :=
  ⟨bf w 15 0, bf w 22 16, wb w 24, wb w 25, bf w 34 32, bf w 38 36, bf w 44 40⟩

/-- Blocks of 32 products of one sum (R328). -/
def blocksOf (ty : Ty) (sparse : Bool) : Nat := if sparse then 8 else kOf ty / 32

/-- w0 of routines 0 to 3 is in its ranges; nb is the number of blocks. -/
def passBad (w : Word) (nb : Nat) : Bool :=
  let p := passOf w
  decide (bf w 63 45 ≠ 0) || wb w 39 || wb w 35 || decide (bf w 31 26 ≠ 0) || wb w 23 ||
    decide (p.rows = 0) || decide (128 < p.rows + p.arow) || (p.scl && decide (32 < p.j0 + nb))

/-- w1 to w3 of an unfolded convolution (R331). -/
structure Unf where
  pitch : Nat
  ow : Nat
  y0 : Int
  x0 : Int
  sx : Nat
  sy : Nat
  iw : Nat
  ih : Nat
  deriving DecidableEq, Repr

def unfOf (w1 w2 w3 : Word) : Unf :=
  ⟨w1.toNat, bf w2 15 0, toSigned 16 (bf w2 31 16), toSigned 16 (bf w2 47 32), bf w2 51 48, bf w2 55 52, bf w3 15 0, bf w3 31 16⟩

/-- Address of the pixel row that row r of an unfolded pass takes; none for a row of zeros (R331). -/
def unfRow (u : Unf) (base : Nat) (r : Nat) : Option Nat :=
  let y : Int := u.y0 + ((u.sy + 1) * (r / u.ow) : Nat)
  let x : Int := u.x0 + ((u.sx + 1) * (r % u.ow) : Nat)
  if 0 ≤ y ∧ y < u.ih ∧ 0 ≤ x ∧ x < u.iw then some (base + y.toNat * u.pitch + x.toNat * 128) else none

/-- The first parameter register that a routine refuses (R324, R329 to R335). hamming and the types are the configuration's. -/
def badParam (rt : Nat) (w : List Word) (ta tb : Ty) (split : Bool) : Option Nat :=
  let z (i : Nat) : Bool := decide (lrw w i ≠ 0)
  let bad (i : Nat) : Bool :=
    match rt, i with
    | 0, 0 | 1, 0 => passBad (lrw w 0) (blocksOf tb false)
    | 3, 0 => passBad (lrw w 0) (blocksOf tb false) || (passOf (lrw w 0)).scl
    | 2, 0 => passBad (lrw w 0) 8
    | 0, 1 | 2, 1 | 3, 1 => false
    | 1, 1 => !z 1
    | 1, 2 => decide (bf (lrw w 2) 15 0 = 0) || decide (128 < bf (lrw w 2) 15 0) || decide (bf (lrw w 2) 63 56 ≠ 0)
    | 1, 3 => decide (bf (lrw w 3) 15 0 = 0) || decide (bf (lrw w 3) 31 16 = 0) || decide (bf (lrw w 3) 63 32 ≠ 0)
    | 2, 2 => decide (bf (lrw w 2) 63 8 ≠ 0) || (split && decide (8 ≤ bf (lrw w 2) 3 0 ∨ 8 ≤ bf (lrw w 2) 7 4))
    | 4, 0 => decide (bf (lrw w 0) 63 2 ≠ 0) || (split && decide (2 ≤ bf (lrw w 0) 1 0))
    | 5, 0 => decide (bf (lrw w 0) 15 0 = 0) || decide (bf (lrw w 0) 63 17 ≠ 0)
    | 5, 1 | 5, 2 => false
    | _, _ => z i
  if 6 ≤ rt then none
  else if (rt = 2 && decide (ta.size = 2)) then some 0
  else (List.range 8).find? bad

/-- Hamming distance needs 8-bit integers (R333). -/
def hammingBad (asc : Word) (ta : Ty) : Bool := decide (bf asc 1 0 = 3) && !decide (ta = .i8 ∨ ta = .n8)

/-- The routine table's entry of a user routine (R336). -/
def Core.rtEntry (c : Core) (rt : Nat) : Word := Tab.get c.mtab rt

/-- A routine pushes one qas entry. -/
def routinePush (c : Core) (rt : Nat) : Bool := decide (rt = 5) || (decide (16 ≤ rt) && wb (c.rtEntry rt) 25)

/-- Address traps of a fixed routine at issue (R320). -/
def State.routineRows (s : State) (rt : Nat) (w : List Word) (base : Word) : List SlotTrap :=
  let n := (passOf (lrw w 0)).rows
  let odd (x : Word) : Bool := decide (x.toNat % 128 ≠ 0)
  let mis (x : Word) : List SlotTrap := trapAt (odd x) .address base
  match rt with
  | 0 | 3 => trapAt (odd base) .address base ++ mis (lrw w 1) ++ s.rowTraps (strideRows base (lrw w 1) (min n 128)) 128
  | 1 =>
    let u := unfOf (lrw w 1) (lrw w 2) (lrw w 3)
    trapAt (odd base) .address base ++ mis (lrw w 1) ++ s.rowTraps [base.toNat] ((u.ih - 1) * u.pitch + u.iw * 128)
  | 2 => trapAt (odd base) .address base ++ mis (lrw w 1) ++ s.rowTraps (strideRows base (lrw w 1) (min n 128)) 256
  | 5 =>
    let m := bf (lrw w 0) 15 0
    trapAt (odd base) .address base ++ trapAt (odd (lrw w 1)) .address (lrw w 1) ++ mis (lrw w 2) ++
      s.rowTraps (strideRows base (lrw w 2) m) 128 ++ s.rowTraps (strideRows (lrw w 1) (lrw w 2) m) 128
  | _ => []

/-- Accumulators whose tokens an MCALL checks. -/
def callAccs (rt : Nat) (acc : BitVec 2) (w : List Word) (split : Bool) : List (BitVec 2) :=
  if rt ≤ 3 then [acc]
  else if rt = 4 then [acc, BitVec.ofNat 2 (bf (lrw w 0) 1 0)]
  else if rt = 5 then []
  else if split then [0, 1] else [0, 1, 2, 3]

/-- The B group is used by routines 0 to 3 and by user routines; its first tile after rotation. -/
def State.groupBad (s : State) (rt : Nat) (rot : Bool) (t : BitVec 4) : Bool :=
  if rt = 4 ∨ rt = 5 then false
  else match tileNo s.ic.regs rot t with
    | none => true
    | some n => decide ((if s.isplit then 7 else 15) < n + 3)

/-- The parameter registers of the context in issue. -/
def State.params (s : State) : List Word := (List.range 8).map (fun i => Tab.get s.ic.regs.mp i)

/-- Causes of an MCALL. -/
def mcallTraps (rt : Nat) (acc : BitVec 2) (a : SSrc) (rot : Bool) (t : BitVec 4) (s : State) : List SlotTrap :=
  let w := s.params
  let c := s.icore
  let accs := callAccs rt acc w s.isplit
  (match badParam rt w c.ta c.tb s.isplit with
   | some i => trapInfo true .illegalState i
   | none => []) ++
  trapIf (s.groupBad rt rot t || (decide (16 ≤ rt) && !wb (c.rtEntry rt) 24) || (decide (rt = 3) && hammingBad c.ascfg c.ta) ||
    (routinePush c rt && qasFull 1 s) || s.accBad acc) .illegalState ++
  trapIf (accs.any s.tokV) .token ++ s.routineRows rt w (s.ss a)

/-- The 32 rows of a tile of the context in issue. -/
def State.tileAll (s : State) (t : Nat) : List Row := (List.range 32).map (fun i => Tab.get s.icore.tiles (s.physTile t * 32 + i))

/-- The words of a named tile. -/
def State.tileLocs (s : State) (t : Nat) : List (Nat × Nat × Nat) :=
  (List.range 32).flatMap (fun i => tileWords s.issue.k (s.physTile t * 32 + i))

/-- The tiles that an MCALL samples (R326): the B group, and the index and bitmap tiles of a sparse pass. A user routine
names its index and bitmap tiles by working registers that it may change (R337), so every tile that the context can name
is sampled for it (log entry 30). -/
def State.callTiles (s : State) (rt b : Nat) : List Nat :=
  (if rt = 4 ∨ rt = 5 then [] else (List.range 4).map (b + ·)) ++
  (if rt = 2 then [bf (lrw s.params 2) 3 0, bf (lrw s.params 2) 7 4] else [])

/-- The words that an MCALL reads. -/
def mcallReads (rt : Nat) (rot : Bool) (t : BitVec 4) (s : State) : List (Nat × Nat × Nat) :=
  if s.upsets = [] then [] else (s.callTiles rt ((tileNo s.ic.regs rot t).getD 0)).flatMap s.tileLocs

/-- Every tile that the context in issue can name, row by row. -/
def State.tilesAll (s : State) : List Row := (List.range (if s.isplit then 8 else 16)).flatMap s.tileAll

/-- MCALL: everything the routine needs is sampled at T (R326). -/
def execMcall (p : Pr) (rt : BitVec 8) (acc : BitVec 2) (a : SSrc) (rot : Bool) (t : BitVec 4) (s : State) :
    Host.Outcome State Fault Refusal :=
  slotOp .m p 0 (mcallReads rt.toNat rot t) (mcallTraps rt.toNat acc a rot t) (mxWait true)
    (fun u =>
      let w := u.params
      let b := (tileNo u.ic.regs rot t).getD 0
      let r := rt.toNat
      let bt := if r = 4 ∨ r = 5 then [] else (List.range 4).flatMap (fun i => u.tileAll (b + i))
      let e := u.icore.rtEntry r
      let push := routinePush u.icore r
      let xt := if r = 2 then u.tileAll (bf (lrw w 2) 3 0) else if 16 ≤ r then u.tilesAll else []
      let mt := if r = 2 then u.tileAll (bf (lrw w 2) 7 4) else []
      u.pushMx (.routine r w (u.ss a) bt xt mt push (bf e 11 0) (bf e 23 12)) acc (if push then 1 else 0)) s

/-! ### Products and sums (R328, R332, R333) -/

/-- One product by the configured types (R328). -/
def mxProd (ta tb : Ty) (x y : Nat) : Nat :=
  if ta = .lns6 then
    (if x % 64 = 0x20 ∨ y % 64 = 0x20 then 0 else roundNE32 (lnsProduct x y))
  else if ta = .i8 ∨ ta = .n8 then roundNE32 (.ofInt (intOf ta x * intOf tb y))
  else roundNE32 ((valueOf ta x).mul (valueOf tb y))

/-- A product whose A element stands in a row of zeros that no read brought: +0 for every finite B element (R331). -/
def gapTerm (term : Nat → Nat → Nat) (x y : Nat) : Nat :=
  let v := term x y
  if v = 2 ^ 31 then 0 else v

/-- The bits set in a byte. -/
def pop8 (x : Nat) : Nat := ((List.range 8).filter (fun i => x.testBit i)).length

/-- The term of an assay pass (R333). -/
def assayTerm (metric : Nat) (ta tb : Ty) (x y : Nat) : Nat :=
  let d := roundNE32 ((valueOf ta x).add false (valueOf tb y).neg)
  match metric with
  | 0 => d % 2 ^ 31
  | 1 => f32Mul d d
  | 2 => (mxProd ta tb x y + 2 ^ 31) % 2 ^ 32
  | _ => roundNE32 (.ofInt (pop8 (x ^^^ y)))

/-- ScaleBlock (R328): v under scales ca and cb. -/
def scaleBlock (v ca cb : Nat) : Nat :=
  let ea := ca / 256 % 256
  let eb := cb / 256 % 256
  if ea = 0 ∨ eb = 0 then 0
  else if ea = 255 ∨ eb = 255 then 0x7FC00000
  else roundNE32 (((f32Value v).mul (ue8m8Value ca)).mul (ue8m8Value cb))

/-- Scale j of a sampled scale register. -/
def scaleOf (l : List (BitVec 512)) (n j : Nat) : Nat := (l.getD n 0).toNat / 2 ^ (16 * j) % 2 ^ 16

/-- RowDot (R328) over nb blocks: a skipped position of B contributes +0. -/
def rowDot (term : Nat → Nat → Nat) (scales : Option (Pass × List (BitVec 512))) (a : List Nat) (b : List (Option Nat))
    (nb : Nat) : Nat :=
  let prods := List.zipWith (fun x y => match y with
    | some v => term x v
    | none => 0) a b
  treeFold f32Add 3 ((List.range nb).map (fun i =>
    let v := tree32 ((prods.drop (32 * i)).take 32)
    match scales with
    | some (p, l) => scaleBlock v (scaleOf l p.ka (p.j0 + i)) (scaleOf l p.kb (p.j0 + i))
    | none => v))

/-- Row n of Bt as elements (R316). -/
def btRow (bt : List Row) (ty : Ty) (n : Nat) : List (Option Nat) := (elts ty.size (kOf ty) (bt.getD n 0)).map some

/-- The two halves of the eight positions that a live vector fills (R332). -/
def sparseSeg (ix : Nat) (vals : List Nat) : List (Option Nat) :=
  [0, 1, 2, 3].foldl (fun l q =>
    let pos := 4 * (q / 2) + ix / 2 ^ (2 * q) % 4
    l.set pos (vals[q]?)) (List.replicate 8 none)

/-- The logical B row of output column n of a sparse pass (R332). -/
def sparseRow (bt xt mt : List Row) (n : Nat) : List (Option Nat) :=
  let map := (cell (mt.getD (n / 32) 0) (n % 32)).toNat
  let vals := elts 1 128 (bt.getD n 0)
  let idx := elts 1 128 (xt.getD (n / 4) 0)
  ((List.range 32).foldl (fun (x : Nat × List (Option Nat)) v =>
    if map.testBit v then
      (x.1 + 1, x.2 ++ sparseSeg (idx.getD (32 * (n % 4) + x.1) 0) ((vals.drop (4 * x.1)).take 4))
    else (x.1, x.2 ++ List.replicate 8 none)) (0, [])).2

/-! ### Accumulator rows -/

/-- The 128 elements of row r of accumulator a. -/
def accGet (acc : Tab 1024) (a r : Nat) : List Nat := (List.range 4).flatMap (fun q => elts 4 32 (Tab.get acc (a * 512 + r * 4 + q)))

/-- Write a row of 128 elements. -/
def accPut (acc : Tab 1024) (a r : Nat) (l : List Nat) : Tab 1024 :=
  (List.range 4).foldl (fun t q => Tab.set t (a * 512 + r * 4 + q) (packRow 4 ((l.drop (32 * q)).take 32))) acc

/-- Accum over one row (R328). -/
def accumRow (zero : Bool) (acc : Tab 1024) (a r : Nat) (sums : List Nat) : Tab 1024 :=
  accPut acc a r (if zero then sums else List.zipWith f32Add (accGet acc a r) sums)

/-- All 128 sums of one A row. -/
def denseSums (term : Nat → Nat → Nat) (sc : Option (Pass × List (BitVec 512))) (ta tb : Ty) (bt : List Row) (row : Row) : List Nat :=
  let a := elts ta.size (kOf ta) row
  (List.range 128).map (fun n => rowDot term sc a (btRow bt tb n) (blocksOf tb false))

/-- All 128 sums of one sparse A row of two lines (R332). -/
def sparseSums (sc : Option (Pass × List (BitVec 512))) (ta tb : Ty) (bt xt mt : List Row) (r0 r1 : Row) : List Nat :=
  let a := elts 1 128 r0 ++ elts 1 128 r1
  (List.range 128).map (fun n => rowDot (mxProd ta tb) sc a (sparseRow bt xt mt n) 8)

/-- The quarter rows of rows of an accumulator, by number in the core's array. -/
def accRows (a : Nat) (rows : List Nat) : List Nat := rows.flatMap (fun r => (List.range 4).map (a * 512 + r * 4 + ·))

/-- The words that hold columns of a row of an accumulator (R83). -/
def accColWords (k a r : Nat) (cols : List Nat) : List (Nat × Nat × Nat) :=
  (cols.map (fun c => (dieOf k, 1, coreLoc k ((a * 512 + r * 4) * 128 + c * 4)))).eraseDups

/-- New contents of a core's accumulators: the quarter rows written hold no earlier error, and an armed injection of one of
their words is performed (R80, R84). -/
def State.setAcc (s : State) (k : Nat) (acc : Tab 1024) (wrote : List Nat) : State :=
  (s.modCore k (fun c => { c with acc := acc })).rewritten (fun d a l =>
    decide (d = dieOf k) && decide (a = 1) && decide (l / 2 ^ 32 = coreLoc k 0 / 2 ^ 32) && wrote.contains (l % 2 ^ 32 / 128))

/-! ### Reading rows while an entry runs (R319, R320) -/

/-- Outcome of reading rows. -/
inductive MxRead
  | rows (s : State) (l : List Row)
  | fault (s : State) (key : FltKey) (a : Word)
  | fail (s : State) (c : Cause) (a : Word)
  | stop (ask : Option WalkReq)
  deriving DecidableEq, Repr

/-- Read one row: in the local scratchpad, or in a SEAM page through the TLBs, at the home copy. -/
def State.mxRow (s : State) (k : Nat) (e : MxEnt) (a : Nat) : MxRead :=
  let va := BitVec.ofNat 64 a
  if !s.mxRowOk k e.who.crew e.xl a 128 then .fail s .address va
  else
    let p : Part := { off := 0, va := va, len := 128, cls := if winOf a = 1 then .loc else .paged, flt := none }
    if (s.core k).eng.logBefore e.after e.xl.root a 128 then .stop none
    else
      match s.engPlace k 0 e.xl.root .copySrc e.who none anyKey p with
      | .stop q => .stop q
      | .fault _ _ true => .stop none
      | .fault t key false => .fault t key va
      | .at t ps =>
        if p.cls = .paged ∧ ps.any (fun x => !inSlots x.1 x.2) then .fail t .address va
        else if t.farBefore k e.after ps then .stop none
        else
          let ls := ps.flatMap (fun x => memLocs x.1 x.2)
          let u := ps.foldl (fun (v : State) x => v.elide (some (dieOf k)) x.1 x.2) (t.meetUpsets ls (some e.who))
          if t.ueAt ls then .fail u .eccUe va else .rows u [ofBytes 1024 (ps.flatMap (fun x => u.read x.1 x.2))]

/-- Read rows in order; a row without an address is zero (R331). -/
def State.mxRows (s : State) (k : Nat) (e : MxEnt) : List (Option Nat) → MxRead
  | [] => .rows s []
  | none :: l =>
    (match s.mxRows k e l with
     | .rows t r => .rows t (0 :: r)
     | o => o)
  | some a :: l =>
    match s.mxRow k e a with
    | .rows t r =>
      (match t.mxRows k e l with
       | .rows u q => .rows u (r ++ q)
       | o => o)
    | o => o

/-- The entry reads words of the core's own arrays: a single error is corrected, an uncorrectable one fails the entry
(R80, R81, R319). -/
def State.mxWords (s : State) (e : MxEnt) (ls : List (Nat × Nat × Nat)) : MxRead :=
  if s.upsets = [] then .rows s []
  else if s.ueAt ls then .fail (s.meetUpsets ls (some e.who)) .eccUe 0
  else .rows (s.meetUpsets ls (some e.who)) []

/-- Rows, and words of the core's own arrays behind them. -/
def State.mxReads (s : State) (k : Nat) (e : MxEnt) (rows : List (Option Nat)) (ls : List (Nat × Nat × Nat)) : MxRead :=
  match s.mxRows k e rows with
  | .rows t l =>
    (match t.mxWords e ls with
     | .rows u _ => .rows u l
     | o => o)
  | o => o

/-! ### The end and the failure of an entry (R319) -/

/-- Fill a place of qas, if its context is still there with it. -/
def State.fillQas (s : State) (w : Origin) (id : Nat) (v : Word) : State :=
  if (s.ctx w.k w.r).uid ≠ w.uid then s
  else s.modCtx w.k w.r (fun c => { c with
    qas := c.qas.map (fun q => if q.id = id then { q with val := some (v.setWidth 1024) } else q) })

def State.fillAll (s : State) (w : Origin) (l : List (Nat × Word)) : State := l.foldl (fun t x => t.fillQas w x.1 x.2) s

/-- Change the head entry of mx. -/
def State.modMx (s : State) (k : Nat) (f : MxEnt → MxEnt) : State :=
  s.modEng k (fun e => { e with mx := match e.mx with
    | x :: l => f x :: l
    | [] => [] })

/-- The head entry ends. -/
def State.endMx (s : State) (k : Nat) : State := s.modEng k (fun e => { e with mx := e.mx.drop 1 })

/-- What the unfilled places of a failed entry get. -/
def failedPlace (e : MxEnt) (i : Nat) : Word :=
  match e.kind with
  | .asdrn r0 _ _ => BitVec.ofNat 64 (0x7FC00000 * 2 ^ 32 + (r0 + i) * 2 ^ 16 + 0xFFFF)
  | _ => 0x7FC000007FC00000

/-- Rows of a drain that have been performed: their places are filled. -/
def MxEnt.drained (e : MxEnt) : Nat :=
  match e.kind with
  | .asdrn _ _ _ => e.row
  | _ => 0

/-- The head entry fails: its unfilled places are filled, mx halts, its context gets the condition. -/
def State.failMx (s : State) (k : Nat) (e : MxEnt) (c : Cause) (a info : Word) : State :=
  let fills := ((List.range e.qas.length).map (fun i => (e.qas.getD i 0, failedPlace e i))).drop e.drained
  (((s.modMx k (fun x => { x with failed := true })).modEng k (fun x =>
    { x with halted := x.halted ||| 0x20#6 })).fillAll e.who fills).postFor e.who ⟨c, a, info, none⟩

/-! ### Fixed routines -/

/-- Addresses of the rows of a pass. -/
def passRows (rt : Nat) (w : List Word) (base : Word) : List (Option Nat) :=
  let n := (passOf (lrw w 0)).rows
  match rt with
  | 1 =>
    let u := unfOf (lrw w 1) (lrw w 2) (lrw w 3)
    (List.range n).map (unfRow u base.toNat)
  | 2 => (strideRows base (lrw w 1) n).flatMap (fun a => [some a, some (a + 128)])
  | _ => (strideRows base (lrw w 1) n).map some

/-- The accumulator after a pass over rows that have been read. -/
def passAcc (e : MxEnt) (rt : Nat) (w : List Word) (base : Word) (bt xt mt : List Row) (acc : Tab 1024) (rows : List Row) :
    Tab 1024 :=
  let at? := passRows rt w base
  let p := passOf (lrw w 0)
  let a := physAccOf e.split e.half e.acc
  let sc := if p.scl ∧ rt ≠ 3 then some (p, e.scales) else none
  let term := if rt = 3 then assayTerm (bf e.ascfg 1 0) e.ta e.tb else mxProd e.ta e.tb
  (List.range p.rows).foldl (fun t r =>
    accumRow p.zero t a (p.arow + r)
      (if rt = 2 then sparseSums sc e.ta e.tb bt xt mt (rows.getD (2 * r) 0) (rows.getD (2 * r + 1) 0)
       else denseSums (if at?.getD r (some 0) = none then gapTerm term else term) sc e.ta e.tb bt (rows.getD r 0))) acc

/-- The accumulator words that a pass reads: with ZERO it reads none (R329). -/
def passWords (k : Nat) (e : MxEnt) (w : List Word) : List (Nat × Nat × Nat) :=
  let p := passOf (lrw w 0)
  if p.zero then [] else (accRows (physAccOf e.split e.half e.acc) ((List.range p.rows).map (p.arow + ·))).flatMap (accWords k)

/-- One row of a probe (R187): the sums after it. -/
def probeRow (metric : Nat) (x xr : Row) (nd : Nat × Nat) : Nat × Nat :=
  let ds := List.zipWith f32Sub (elts 4 32 x) (elts 4 32 xr)
  let rs := elts 4 32 xr
  let a := ds.map (fun d => if metric = 0 then d % 2 ^ 31 else f32Mul d d)
  let c := rs.map (fun d => if metric = 0 then d % 2 ^ 31 else f32Mul d d)
  (f32Add nd.1 (tree32 a), f32Add nd.2 (tree32 c))

/-- Pairs of rows of a probe, in sequence. -/
def probeRows (metric : Nat) : List Row → Nat × Nat → Nat × Nat
  | x :: y :: l, nd => probeRows metric l (probeRow metric x y nd)
  | _, nd => nd

/-- num and den as a qas entry (R335, R339). -/
def probeEntry (nd : Nat × Nat) : Word := BitVec.ofNat 64 (nd.2 * 2 ^ 32 + nd.1)

/-- Column c of an accumulator (R334). -/
def accCol (acc : Tab 1024) (a c : Nat) : List Nat := (List.range 128).map (fun i => (accGet acc a i).getD c 0)

/-- Finish a read: a fault stops the entry at its row, a failure fails it, and a walk that the walker has no room for is asked for (R115). -/
def State.onRows (s : State) (k : Nat) (e : MxEnt) (info : Word) (r : MxRead) (f : State → List Row → State) : State :=
  match r with
  | .rows t l => f t l
  | .fault t key a => t.modMx k (fun x => { x with flt := some key, fltAt := a })
  | .fail t c a => t.failMx k e c a (if c = .address then info else 0)
  | .stop q => s.askReq (dieOf k) q

/-- One step group of a fixed routine. -/
def State.runFixed (s : State) (k : Nat) (e : MxEnt) (rt : Nat) (w : List Word) (base : Word) (bt xt mt : List Row) : State :=
  let a := physAccOf e.split e.half e.acc
  match rt with
  | 4 =>
    let src := physAccOf e.split e.half (bf (lrw w 0) 1 0)
    s.onRows k e 0 (s.mxWords e ((accRows src (List.range 128)).flatMap (accWords k))) (fun t _ =>
      let acc := (t.core k).acc
      (t.setAcc k ((List.range 128).foldl (fun x i => accPut x a i (accCol acc src i)) acc) (accRows a (List.range 128))).endMx k)
  | 5 =>
    let n := bf (lrw w 0) 15 0
    let m := min 2048 (n - e.row)
    let x := (strideRows base (lrw w 2) n).drop e.row
    let y := (strideRows (lrw w 1) (lrw w 2) n).drop e.row
    let rows := (List.range m).flatMap (fun i => [some (x.getD i 0), some (y.getD i 0)])
    s.onRows k e 0 (s.mxRows k e rows) (fun t l =>
      let nd := probeRows (bf (lrw w 0) 16 16) l (e.num, e.den)
      if n ≤ e.row + m then (t.fillAll e.who (e.qas.map (fun i => (i, probeEntry nd)))).endMx k
      else t.modMx k (fun z => { z with row := e.row + m, num := nd.1, den := nd.2 }))
  | _ =>
    let p := passOf (lrw w 0)
    s.onRows k e 0 (s.mxReads k e (passRows rt w base) (passWords k e w)) (fun t l =>
      (t.setAcc k (passAcc e rt w base bt xt mt (t.core k).acc l) (accRows a ((List.range p.rows).map (p.arow + ·)))).endMx k)

/-! ### User routines (R337) -/

/-- A micro-op. -/
structure Uop where
  kind : Nat
  chain : Bool
  cnt : Nat
  arow : Nat
  acco : Nat
  zero : Bool
  scl : Bool
  pa : Nat
  ps : Nat
  pinc : Bool
  imm : Nat
  deriving DecidableEq, Repr

def uopOf (w : Word) : Uop :=
  ⟨bf w 63 60, wb w 59, bf w 58 52, bf w 51 45, bf w 44 43, wb w 42, wb w 41, bf w 40 38, bf w 37 35, wb w 34, bf w 33 0⟩

/-- A micro-op breaks the rules of its kind: an unassigned kind, a nonzero unused field, a range. -/
def uopBad (u : Uop) (e : MxEnt) (w : List Word) : Bool :=
  let noSteps := !u.pinc && decide (u.pa = 0) && decide (u.ps = 0)
  let psFree := u.pinc || decide (u.ps = 0)
  let noAcc := decide (u.arow = 0) && decide (u.acco = 0)
  let rowsOk := decide (u.arow + u.cnt ≤ 127)
  let nb := blocksOf e.tb (decide (u.kind = 2))
  let sclOk := !u.scl || decide ((passOf (lrw w 0)).j0 + nb ≤ 32)
  !(match u.kind with
    | 0 => decide (u.cnt = 0) && noAcc && !u.zero && !u.scl && noSteps && decide (u.imm = 0)
    | 1 => rowsOk && sclOk && decide (u.imm = 0)
    | 2 => rowsOk && sclOk && decide (u.imm = 0) && decide (e.ta.size = 1) &&
        !(e.split && decide (8 ≤ bf (lrw w 2) 3 0 ∨ 8 ≤ bf (lrw w 2) 7 4))
    | 3 => rowsOk && !u.scl && decide (u.imm = 0) && !hammingBad e.ascfg e.ta
    | 4 => rowsOk && sclOk && decide (u.imm < 2 ^ 16) && psFree && decide (0 < bf (lrw w 2) 15 0) && decide (bf (lrw w 2) 15 0 ≤ 128)
    | 5 => rowsOk && !u.zero && !u.scl && decide (u.imm < 4) && (u.pinc || noSteps) && !(e.split && decide (2 ≤ u.imm))
    | 6 => noAcc && !u.zero && !u.scl && decide (u.imm < 16)
    | 7 => decide (u.cnt = 0) && noAcc && !u.zero && !u.scl && psFree
    | _ => false)

/-- What a user routine carries through a step group; wrote holds the accumulator quarter rows that the group writes. -/
structure Run where
  s : State
  acc : Tab 1024
  wrote : List Nat
  w : List Word
  num : Nat
  den : Nat
  red : Bool
  upc : Nat
  deriving DecidableEq, Repr

/-- How a micro-op or a step group ends. -/
inductive RunEnd
  | on (r : Run)
  | group (r : Run)
  | stop (r : Run)
  | fault (s : State) (key : FltKey) (a : Word)
  | fail (s : State) (c : Cause) (a : Word) (i : Nat)
  | wait (ask : Option WalkReq)
  deriving DecidableEq, Repr

/-- Rows that a micro-op reads. -/
def uopRows (u : Uop) (w : List Word) : List (Option Nat) :=
  let n := u.cnt + 1
  let x := strideRows (lrw w u.pa) (lrw w u.ps) n
  match u.kind with
  | 1 | 3 => x.map some
  | 2 => x.flatMap (fun a => [some a, some (a + 128)])
  | 4 =>
    let f := unfOf (lrw w 1) (lrw w 2) (lrw w 3)
    (List.range n).map (fun c => unfRow f (lrw w u.pa).toNat (u.imm + c))
  | 6 =>
    let y := strideRows (lrw w (u.imm % 8)) (lrw w u.ps) n
    (List.range n).flatMap (fun i => [some (x.getD i 0), some (y.getD i 0)])
  | _ => []

/-- The physical accumulator of a micro-op (R337). -/
def uopTile (u : Uop) (e : MxEnt) : Nat :=
  if e.split then physAccOf true e.half ((e.acc + u.acco) % 2) else (e.acc + u.acco) % 4

/-- The effect of a micro-op on the accumulators. tiles holds the rows of every tile as sampled. -/
def uopAcc (u : Uop) (e : MxEnt) (w : List Word) (bt tiles : List Row) (acc : Tab 1024) (rows : List Row) : Tab 1024 :=
  let a := uopTile u e
  let tile (n : Nat) : List Row := (tiles.drop (32 * n)).take 32
  let xt := tile (bf (lrw w 2) 3 0)
  let mt := tile (bf (lrw w 2) 7 4)
  let at? := uopRows u w
  let sc := if u.scl then some (passOf (lrw w 0), e.scales) else none
  let r := List.range (u.cnt + 1)
  match u.kind with
  | 1 | 4 => r.foldl (fun t c => accumRow u.zero t a (u.arow + c)
      (denseSums (if at?.getD c (some 0) = none then gapTerm (mxProd e.ta e.tb) else mxProd e.ta e.tb) sc e.ta e.tb bt
        (rows.getD c 0))) acc
  | 2 => r.foldl (fun t c => accumRow u.zero t a (u.arow + c)
      (sparseSums sc e.ta e.tb bt xt mt (rows.getD (2 * c) 0) (rows.getD (2 * c + 1) 0))) acc
  | 3 => r.foldl (fun t c => accumRow u.zero t a (u.arow + c)
      (denseSums (assayTerm (bf e.ascfg 1 0) e.ta e.tb) none e.ta e.tb bt (rows.getD c 0))) acc
  | 5 => r.foldl (fun t c => accPut t a (u.arow + c) (accCol acc (physAccOf e.split e.half u.imm) (u.arow + c))) acc
  | _ => acc

/-- The accumulator quarter rows that a micro-op writes. -/
def uopWrites (u : Uop) (e : MxEnt) : List Nat :=
  if u.kind ≤ 5 ∧ u.kind ≠ 0 then accRows (uopTile u e) ((List.range (u.cnt + 1)).map (u.arow + ·)) else []

/-- The accumulator words that a micro-op reads, but for rows that its own step group has written. -/
def uopWords (k : Nat) (u : Uop) (e : MxEnt) (wrote : List Nat) : List (Nat × Nat × Nat) :=
  let rows : List Nat :=
    if u.kind = 5 then []
    else if u.zero then [] else (uopWrites u e).filter (fun i => !wrote.contains i)
  let src := physAccOf e.split e.half u.imm
  let cols := if u.kind = 5 then (List.range 128).flatMap (fun i =>
      accColWords k src i (((List.range (u.cnt + 1)).map (u.arow + ·)).filter (fun c => !wrote.contains (src * 512 + i * 4 + c / 32))))
    else []
  rows.flatMap (accWords k) ++ cols

/-- A SMAC meets the errors that its index and bitmap tiles held when they were sampled: each is logged, and an uncorrectable one
fails the routine (R80, R81, R326). -/
def State.uopTiles (s : State) (u : Uop) (e : MxEnt) (w : List Word) : MxRead :=
  let phys (t : Nat) : Nat := if e.split && decide (e.half = 1) then t + 8 else t
  let ts := [phys (bf (lrw w 2) 3 0), phys (bf (lrw w 2) 7 4)]
  let us := if u.kind = 2 then e.errs.filter (fun x => ts.contains (x.loc % 2 ^ 32 / 4096)) else []
  let t := us.foldl (fun a x => a.logUpset x (some e.who)) s
  if us.any (fun x => decide (1 < x.flipped.length)) then .fail t .eccUe 0 else .rows t []

/-- The working registers after a micro-op. -/
def uopW (u : Uop) (w : List Word) : List Word :=
  let w1 := if u.kind = 7 then w.set u.pa (lrw w u.pa + (BitVec.ofNat 34 u.imm).signExtend 64) else w
  if u.pinc then w1.set u.pa (lrw w1 u.pa + BitVec.ofNat 64 (u.cnt + 1) * lrw w1 u.ps) else w1

/-- What a micro-op reads: its rows, the accumulator words, the sampled tiles. -/
def State.uopReads (s : State) (k : Nat) (e : MxEnt) (u : Uop) (w : List Word) (wrote : List Nat) : MxRead :=
  match s.uopTiles u e w with
  | .rows t _ => t.mxReads k e (uopRows u w) (if t.upsets = [] then [] else uopWords k u e wrote)
  | o => o

/-- One micro-op; i is its index in the routine. -/
def runUop (k : Nat) (e : MxEnt) (bt tiles : List Row) (start len : Nat) (r : Run) : RunEnd :=
  let i := r.upc
  if len ≤ i then .fail r.s .illegalState 0 i
  else
    let u := uopOf (Tab.get (r.s.core k).mstore (start + i))
    if uopBad u e r.w then .fail r.s .illegalState 0 i
    else if u.kind = 0 then .stop r
    else
      match r.s.uopReads k e u r.w r.wrote with
      | .rows t l =>
        let nd := if u.kind = 6 then probeRows (u.imm / 8 % 2) l (r.num, r.den) else (r.num, r.den)
        let n : Run := { s := t, acc := uopAcc u e r.w bt tiles r.acc l, wrote := r.wrote ++ uopWrites u e,
                         w := uopW u r.w, num := nd.1, den := nd.2, red := r.red || decide (u.kind = 6), upc := i + 1 }
        if u.chain then .on n else .group n
      | .fault t key a => .fault t key a
      | .fail t c a => .fail t c a i
      | .stop q => .wait q

/-- A step group: micro-ops up to the first one without CHAIN, at most 16 (R337). -/
def runGroup (k : Nat) (e : MxEnt) (bt tiles : List Row) (start len : Nat) : Nat → Run → RunEnd
  | 0, r => .fail r.s .illegalState 0 r.upc
  | n + 1, r =>
    match runUop k e bt tiles start len r with
    | .on q => runGroup k e bt tiles start len n q
    | o => o

/-- The routine's working registers kept in its entry. -/
def MxEnt.setW (e : MxEnt) (w : List Word) : MxEnt :=
  match e.kind with
  | .routine rt _ b bt xt mt p st ln => { e with kind := .routine rt w b bt xt mt p st ln }
  | _ => e

/-- One step group of a user routine: it writes as a whole, or not at all. -/
def State.runUser (s : State) (k : Nat) (e : MxEnt) (w : List Word) (bt tiles : List Row) (push : Bool) (start len : Nat) : State :=
  match runGroup k e bt tiles start len 16 ⟨s, (s.core k).acc, [], w, e.num, e.den, e.red, e.upc⟩ with
  | .group r | .on r => (r.s.setAcc k r.acc r.wrote).modMx k (fun x =>
      { (x.setW r.w) with upc := r.upc, num := r.num, den := r.den, red := r.red })
  | .stop r =>
    let t := r.s.setAcc k r.acc r.wrote
    (if push then t.fillAll e.who (e.qas.map (fun i => (i, probeEntry (r.num, r.den)))) else t).endMx k
  | .fault t key a => t.modMx k (fun x => { x with flt := some key, fltAt := a })
  | .fail t c a i => t.failMx k e c a (if c = .eccUe ∨ c = .faultAbort then 0 else BitVec.ofNat 64 i)
  | .wait q => s.askReq (dieOf k) q

/-! ### The other entries -/

/-- Key of R341's comparison: NaN above +infinity, −0 and +0 equal. -/
def keyLt (a b : Nat) : Bool :=
  match f32Value a, f32Value b with
  | .nan, _ => false
  | _, .nan => true
  | x, y => x.lt y

/-- Better (R341). -/
def better (tie : Bool) (d i bd bi : Nat) : Bool :=
  if keyLt d bd then true
  else if keyLt bd d then false
  else if tie then decide (bi < i) else decide (i < bi)

/-- The comparator chain over the first ncol columns of a row. -/
def drainRow (tie : Bool) (ibase ncol : Nat) (row : List Nat) : Nat × Nat :=
  (List.range ncol).tail.foldl (fun (b : Nat × Nat) j =>
    let d := row.getD j 0
    let i := (ibase + j) % 2 ^ 16
    if better tie d i b.1 b.2 then (d, i) else b) (row.getD 0 0, ibase)

/-- A row's running best after its drain. -/
def Best.meet (tie : Bool) (b : Best) (d i : Nat) : Best :=
  if b.empty || better tie d i b.dist.toNat b.index.toNat then ⟨false, BitVec.ofNat 16 i, BitVec.ofNat 32 d⟩ else b

/-- A qas entry of a drain (R339). -/
def drainEntry (b : Best) (r : Nat) : Word := BitVec.ofNat 64 (b.dist.toNat * 2 ^ 32 + r * 2 ^ 16 + b.index.toNat)

/-- The next row of an ASDRN (R341): its running best, and with TGT = 0 its place in qas, which is filled as the row is performed
(R401). The entry ends with row c. A row whose words hold an uncorrectable error fails it there (R319). -/
def State.runDrain (s : State) (k : Nat) (e : MxEnt) (r0 c ncol : Nat) : State :=
  let a := physAccOf e.split e.half e.acc
  let tie := wb e.ascfg 2
  let r := r0 + e.row
  s.onRows k e 0 (s.mxWords e (accColWords k a r (List.range ncol))) (fun t _ =>
    let (d, x) := drainRow tie (bf e.ascfg 31 16) ncol (accGet (t.core k).acc a r)
    let u := t.modCore k (fun y => { y with best := modAt (fun b => b.meet tie d x) r y.best })
    let v := u.fillAll e.who (((e.qas.drop e.row).take 1).map (fun i => (i, drainEntry ((u.core k).best.getD r Best.none) r)))
    if c ≤ e.row + 1 then v.endMx k else v.modMx k (fun z => { z with row := e.row + 1 }))

/-- One query added into the sum and count lanes (R342). -/
def updRow (e : MxEnt) (d : Nat) (best : Best) (acc : Tab 1024) (a : Nat) (row : Row) : Tab 1024 :=
  let ibase := bf e.ascfg 31 16
  let i := best.index.toNat
  if best.empty ∨ i < ibase ∨ ibase + 127 < i then acc
  else
    let old := accGet acc a (i - ibase)
    let q := elts e.ta.size (kOf e.ta) row
    accPut acc a (i - ibase) ((List.range 128).map (fun c =>
      if c < d then roundNE32 ((f32Value (old.getD c 0)).add false (valueOf e.ta (q.getD c 0)))
      else if c = 127 then roundNE32 ((f32Value (old.getD 127 0)).add false (.ofInt 1))
      else old.getD c 0))

/-- The rows of the tile that an ACUPD of c queries adds into (R342). -/
def updHits (e : MxEnt) (best : List Best) (c : Nat) : List Nat :=
  let ibase := bf e.ascfg 31 16
  ((best.take c).filter (fun b => !b.empty && decide (ibase ≤ b.index.toNat) && decide (b.index.toNat ≤ ibase + 127))).map
    (fun b => b.index.toNat - ibase)

/-- ACUPD runs. -/
def State.runUpd (s : State) (k : Nat) (e : MxEnt) (base : Word) (c d : Nat) : State :=
  let a := physAccOf e.split e.half e.acc
  let hits := updHits e (s.core k).best c
  s.onRows k e 0 (s.mxReads k e ((strideRows base 128 c).map some)
      (hits.flatMap (fun r => accColWords k a r (List.range d ++ [127])))) (fun t l =>
    let core := t.core k
    (t.setAcc k ((List.range c).foldl (fun x q =>
      updRow e d (core.best.getD q Best.none) x a (l.getD q 0)) core.acc) (accRows a hits)).endMx k)

/-- The rows that an ACFIN writes: those with a count (R343). -/
def finHits (acc : Tab 1024) (a : Nat) : List Nat :=
  (List.range 128).filter (fun i => decide ((accGet acc a i).getD 127 0 % 2 ^ 31 ≠ 0))

/-- The sums after an ACFIN (R343). -/
def finAcc (acc : Tab 1024) (a c d : Nat) : Tab 1024 :=
  (List.range 128).foldl (fun t i =>
    let sums := accGet acc a i
    let n := sums.getD 127 0
    if n % 2 ^ 31 = 0 then t
    else
      let old := accGet acc c i
      accPut t c i ((List.range 128).map (fun x => if x < d then f32Div (sums.getD x 0) n else old.getD x 0))) acc

/-- ACFIN runs (R343). -/
def State.runFin (s : State) (k : Nat) (e : MxEnt) (cen d : Nat) : State :=
  let a := physAccOf e.split e.half e.acc
  let c := physAccOf e.split e.half cen
  let hits := finHits (s.core k).acc a
  s.onRows k e 0 (s.mxWords e ((List.range 128).flatMap (fun i => accColWords k a i [127]) ++
      hits.flatMap (fun i => accColWords k a i (List.range d)))) (fun t _ =>
    (t.setAcc k (finAcc (t.core k).acc a c d) (accRows c hits)).endMx k)

/-- MSTW performs (R336): a micro-op, or a table entry, written invalid where it breaks the table's rules. -/
def State.runMstw (s : State) (k : Nat) (tab : Bool) (a b : Word) : State :=
  let t := s.modCore k (fun c =>
    if tab then
      let i := bf a 7 0
      let bad := decide (bf b 63 26 ≠ 0) || decide (bf b 23 12 = 0) || decide (4096 < bf b 11 0 + bf b 23 12)
      if i < 16 then c else { c with mtab := Tab.set c.mtab i (if bad then putField b 24 24 0 else b) }
    else { c with mstore := Tab.set c.mstore (bf a 11 0) b })
  t.endMx k

/-- One step group of the head entry. -/
def State.runMx (s : State) (k : Nat) (e : MxEnt) : State :=
  let a := physAccOf e.split e.half e.acc
  match e.kind with
  | .routine rt w base bt xt mt push start len =>
    if rt < 16 then s.runFixed k e rt w base bt xt mt else s.runUser k e w bt xt push start len
  | .accz => (s.setAcc k (Tab.clear (s.core k).acc (a * 512) (a * 512 + 512)) (accRows a (List.range 128))).endMx k
  | .acupd base c d => s.runUpd k e base c d
  | .acfin c d => s.runFin k e c d
  | .asdrn r0 c ncol => s.runDrain k e r0 c ncol
  | .mstw tab x y => s.runMstw k tab x y
  | .ascfgClr => (s.modCore k (fun c => { c with best := List.replicate 128 Best.none })).endMx k

/-- MX_ENTRY_RUN: the head entry of mx runs its next step group, unless mx has halted, the entry waits at a fault, or a refresh
of its context before it is still pending (R318 to R320). -/
def execMxEntryRun (k : Nat) (s : State) : Host.Outcome State Fault Refusal :=
  let e := (s.core k).eng
  match e.mx with
  | x :: _ =>
    if e.halted.getLsbD 5 ∨ x.flt ≠ none ∨ x.after.any (s.core k).pending then .next s else .next (s.runMx k x)
  | [] => .next s

end Sys2Proof.Machine
end

