-- ==== Sys2Proof/Machine/Remote.lean ====
section
/-!
DEFINITION. Remote access (R41, R108, R363 to R367, R391, R392, R398 to R400), the trestle link (R389, R390, R393), and the
ends of publishes and refreshes (R91 to R95), behind which held requests go out.
-/

namespace Sys2Proof.Machine

/-! ### Ports and flits (R389, R390, R392) -/

def State.port (s : State) (i : Nat) : Port := s.head.ports.getD i Port.reset

def State.modPort (s : State) (i : Nat) (f : Port → Port) : State :=
  s.modHead (fun h => { h with ports := modAt f i h.ports })

/-- The ports that lead to a package and are up (R392). -/
def State.upPorts (s : State) (pkg : Nat) : List Nat :=
  (List.range 8).filter (fun i => (Tab.get s.head.routes pkg).getLsbD i && (s.port i).up)

/-- The port of a source agent's traffic to a package: the (k mod n)-th of the n ports that are up (R392). -/
def State.portFor (s : State) (agent pkg : Nat) : Option Nat :=
  let ps := s.upPorts pkg
  if ps = [] then none else ps[agent % ps.length]?

/-- One step of the reflected CRC-32 of IEEE 802.3. -/
def crcBit (c : BitVec 32) : BitVec 32 := if c.getLsbD 0 then (c >>> 1) ^^^ 0xEDB88320#32 else c >>> 1

/-- One byte of it. -/
def crcByte (c : BitVec 32) (b : Byte) : BitVec 32 := (List.range 8).foldl (fun x _ => crcBit x) (c ^^^ b.setWidth 32)

/-- CRC-32 with the IEEE 802.3 polynomial (R390). -/
def crc32 (bs : List Byte) : BitVec 32 := ~~~(bs.foldl crcByte 0xFFFFFFFF#32)

/-- Bytes 0 to 251 of a flit (R390). -/
def flitBody (f : Flit) : List Byte :=
  toBytes 2 f.seq ++ toBytes 2 f.ackseq ++ [f.vc, f.flags] ++ toBytes 2 f.used ++
    (f.payload ++ List.replicate 244 0#8).take 244

/-- The flit's CRC agrees with its bytes. -/
def flitGood (f : Flit) : Bool := decide (f.crc = crc32 (flitBody f))

/-- Flits that the replay buffer of 2 MiB holds (R390). -/
def replayCap : Nat := 8192

/-- The bytes of the Ethernet frame that carries flits (R389): a header of 14 bytes, two addresses and the EtherType with its high byte first,
then the flits, then the FCS. The station addresses are no part of the manual: mac gives them. -/
def frameBytes (mac : List Byte) (etype : BitVec 16) (fs : List Flit) : List Byte :=
  let b := mac.take 12 ++ [etype.extractLsb' 8 8, etype.extractLsb' 0 8] ++ fs.flatMap (fun f => flitBody f ++ toBytes 4 f.crc)
  b ++ toBytes 4 (crc32 b)

/-- Send a message of one flit on a port, in a frame with the EtherType of TRS_ETYPE: its payload is a free value, for the manual gives no
message format. It stays in the replay buffer until the peer acknowledges it (R390). -/
def State.sendFlit (s : State) (i : Nat) (vc : BitVec 8) (flags : BitVec 8 := 2) : State :=
  let p := s.port i
  let b := s.free
  let f : Flit :=
    { seq := p.txSeq, ackseq := p.rxSeq - 1, vc := vc, flags := flags, crc := 0, etype := s.head.trsEtype
      used := BitVec.ofNat 16 ((Config.openValue b).toNat % 245)
      payload := (List.range 244).map (fun j => (Config.openValue (b + 1 + j)).setWidth 8) }
  let g := { f with crc := crc32 (flitBody f) }
  let t := s.modPort i (fun x => { x with
    buf := x.buf ++ [g], txSeq := x.txSeq + 1, lastAck := if x.buf = [] then s.time else x.lastAck })
  { t with free := b + 245 }

/-! ### Answers (R367) -/

/-- Change a context wherever it stands, resident or in a save block. -/
def State.onCtx (s : State) (o : Origin) (f : Ctx → Ctx) : State :=
  match s.findCtx o.crew o.uid with
  | some (k, r) => s.modCtx k r f
  | none =>
    let g (x : Ctx) : Ctx := if x.mode ≠ .empty ∧ x.uid = o.uid then f x else x
    s.modCrew o.crew (fun w => { w with saved := w.saved.map (fun v =>
      { v with core := { v.core with c0 := g v.core.c0, c1 := g v.core.c1 } }) })

/-- Fill the entry of qrm that a request reserved. -/
def State.fillQrm (s : State) (q : RmReq) (v : Row) (e : Option QErr) : State :=
  s.onCtx q.who (fun c => { c with qrm := c.qrm.map (fun x => if x.id = q.id then { x with val := some v, err := e } else x) })

/-- A request is answered with a status: its slot returns, its entry of qrm is filled or fails, and a write's failure without
an entry is posted for its context (R363, R367). A load whose entry has been taken by pre-emption only returns its slot. -/
def State.answerRm (s : State) (k : Nat) (q : RmReq) (status : Nat) (v : Row) : State :=
  let s1 := s.modEng k (fun e => { e with rm := e.rm.filter (fun x => decide (x.id ≠ q.id)) })
  if status = 0 then (if q.qrm then s1.fillQrm q v none else s1)
  else if q.qrm then s1.fillQrm q 0#1024 (some ⟨.remote, q.fab, BitVec.ofNat 64 status, false, q.who.pc⟩)
  else if q.kind = .load ∨ q.kind = .loadRow then s1
  else s1.postFor q.who ⟨.remote, q.fab, BitVec.ofNat 64 status, none⟩

def State.rm? (s : State) (k id : Nat) : Option RmReq := (s.core k).eng.rm.find? (fun q => decide (q.id = id))

/-! ### Sending (R92, R93, R363, R392) -/

/-- Package number of a fabric address (R41). -/
def remotePkg (fab : Word) : Nat := bf fab 63 52

/-- Requests of a core that hold a slot of a package. -/
def rmTo (e : Engines) (pkg : Nat) : List RmReq := e.rm.filter (fun q => decide (remotePkg q.fab = pkg))

/-- A request of a core that may go out now: not sent, nothing it waits for pending, a slot free. -/
def State.rmReady (s : State) (k : Nat) (q : RmReq) : Bool :=
  q.sent.isNone && q.pubs.all (fun i => !(s.core k).pending i) &&
    decide (((rmTo (s.core k).eng (remotePkg q.fab)).filter (fun x => x.sent.isSome)).length < 8)

/-- One request goes out: the issuing package is refused with status 2, a package with no port up is answered locally with
status 4, and a full replay buffer holds it. -/
def State.sendOne (s : State) (k : Nat) (q : RmReq) : State :=
  if !s.rmReady k q then s
  else if remotePkg q.fab = s.head.trsId.toNat then s.answerRm k q 2 0#1024
  else
    match s.portFor k (remotePkg q.fab) with
    | none => s.answerRm k q 4 0#1024
    | some i =>
      if replayCap ≤ (s.port i).buf.length then s
      else (s.sendFlit i 0#8).modEng k (fun e => { e with rm := e.rm.map (fun x =>
        if x.id = q.id then { x with sent := some (s.time, i) } else x) })

/-- Every request of a core that can go out does. -/
def State.sendRemotes (s : State) (k : Nat) : State := (s.core k).eng.rm.foldl (fun t q => t.sendOne k q) s

/-! ### RLD, RST, RATOM (R364 to R366) -/

/-- Bytes of a remote size. -/
def rszBytes : RSz → Nat
  | .b => 1 | .h => 2 | .w => 4 | .d => 8 | .row => 128

/-- How a POP of a loaded entry extends it: with zeros. -/
def rszKind : RSz → QKind
  | .b => .scal .b | .h => .scal .h | .w => .scal .w | .d => .scal .d | .row => .row

/-- Alignment of a fabric address. -/
def fabTrap (fab : Word) (n : Nat) : List SlotTrap := trapAt (decide (fab.toNat % n ≠ 0)) .address fab

/-- No slot of the target package is free (R363). -/
def slotWait (fab : Word) (s : State) : Option Wait :=
  waitIf (decide (8 ≤ (rmTo s.icore.eng (remotePkg fab)).length)) .far

/-- qrm has no room (R364). -/
def qrmFull (s : State) : List SlotTrap := trapIf (decide (32 ≤ s.qlen .qrm s.ic.qrm.length)) .illegalState

/-- A remote request of the context in issue. -/
def State.issueRm (s : State) (fab : Word) (kind : AccKind) (n : Nat) (q : Option QKind) (wr : Bool) : State :=
  let (id, s1) := s.fresh
  let waits := (if wr then s.ic.pubs.map (·.id) else []) ++ (if q.isSome then s.ic.refs.map (·.id) else [])
  let s2 := s1.modEng s.issue.k (fun e => { e with rm := e.rm ++
    [(⟨id, s.origin, fab, kind, n, q.isSome, waits, none⟩ : RmReq)] })
  let s3 : State := match q with
    | some z => s2.modIc (fun c => { c with qrm := c.qrm ++ [(⟨id, z, none, none⟩ : QEnt)] })
    | none => s2
  s3.sendRemotes s.issue.k

/-- RLD (R364). -/
def execRld (p : Pr) (z : RSz) (a : SSrc) (s : State) : Host.Outcome State Fault Refusal :=
  slotOp .e p 0 noReads (fun t => qrmFull t ++ fabTrap (t.ss a) (rszBytes z)) (fun t => slotWait (t.ss a) t)
    (fun t => t.issueRm (t.ss a) (if z = .row then .loadRow else .load) (rszBytes z) (some (rszKind z)) false) s

/-- A row of a local window address (R365). -/
def rowTrap (z : RSz) (va : Word) : List SlotTrap := if z = .row then nearTrap va 128 else []

/-- Storage words of that row. -/
def rowWords (z : RSz) (b : SSrc) (s : State) : List (Nat × Nat × Nat) :=
  if z = .row ∧ nearOk (s.ss b) 128 then memLocs (spadBase s.issue.k + nearOff (s.ss b)) 128 else []

/-- RST (R365). -/
def execRst (p : Pr) (z : RSz) (a b : SSrc) (s : State) : Host.Outcome State Fault Refusal :=
  slotOp .e p 0 (rowWords z b) (fun t => fabTrap (t.ss a) (rszBytes z) ++ rowTrap z (t.ss b))
    (fun t => firstWait [if z = .row then nearWait t else .none, slotWait (t.ss a) t])
    (fun t =>
      let kind : AccKind := if z = .row then .storeRow (ofBytes 1024 (t.nearRead (nearOff (t.ss b)) 128))
        else .store (t.ss b)
      t.issueRm (t.ss a) kind (rszBytes z) none true) s

/-- RATOM (R366). -/
def execRatom (p : Pr) (op : AOp) (dw res : Bool) (a b c : SSrc) (s : State) : Host.Outcome State Fault Refusal :=
  slotOp .e p 0 noReads (fun t => (if res then qrmFull t else []) ++ fabTrap (t.ss a) (dwBytes dw)) (fun t => slotWait (t.ss a) t)
    (fun t => t.issueRm (t.ss a) (.atom op (t.ss b) (t.ss c)) (dwBytes dw)
      (if res then some (.scal (if dw then .d else .ws)) else none) true) s

/-! ### Responses (R363, R367, R392) -/

/-- REMOTE_RESPONSE: a response for a request that was sent; any other is discarded (R392). -/
def execRemoteResponse (k id status : Nat) (v : Row) (s : State) : Host.Outcome State Fault Refusal :=
  match s.rm? k id with
  | some q => .next (if q.sent.isSome then (s.answerRm k q status v).sendRemotes k else s)
  | none => .next s

/-- TRS_TMO in nanoseconds. -/
def State.tmoNs (s : State) : Nat := s.head.trsTmo.toNat * 1000

/-- REMOTE_TIMEOUT: a request without a response for TRS_TMO µs is answered locally with status 4. -/
def execRemoteTimeout (k id : Nat) (s : State) : Host.Outcome State Fault Refusal :=
  match s.rm? k id with
  | some q =>
    .next (match q.sent with
      | some (t, _) => if s.tmoNs ≤ (s.time - t).toNat then (s.answerRm k q 4 0#1024).sendRemotes k else s
      | none => s)
  | none => .next s

/-! ### Requests from other packages (R25, R41, R391, R400) -/

/-- The kind of a request as an export window permits it (R393). -/
def expPermits (c : Cap) (k : AccKind) : Bool :=
  match k with
  | .load | .loadRow => wb c.hi 62
  | .store _ | .storeRow _ => wb c.hi 61
  | .atom _ _ _ => wb c.hi 60

/-- An export window holds an extent and permits its kind for a package (R41, R393). -/
def Cap.exports (c : Cap) (q : RemReq) : Bool :=
  wb c.hi 63 && expPermits c q.kind && (wb c.hi 59 || decide (bf c.hi 51 40 = q.pkg.toNat)) &&
    decide (bf c.lo 51 12 ≤ q.pa.toNat / 4096) && decide ((q.pa.toNat + q.size - 1) / 4096 ≤ bf c.hi 39 0)

/-- Device memory that agents outside the compute dies reach: HBM4E and the latent-seam slots, without the held ranges of
reduced service (R379, R393, R396). -/
def State.devMem (s : State) (a n : Nat) : Bool :=
  decide (0 < n) && (inHbm a n || inSlots a n) && !(s.head.held && inHeld a n)

/-- How an outside access of a kind ends at its place: an uncorrectable word, or its value and the state. -/
def State.accessAt (s : State) (kind : AccKind) (a n : Nat) : Option Row × State :=
  let ls := memLocs a n
  let old := s.read a n
  let rd := (s.meetUpsets ls none).elide none a n
  match kind with
  | .load | .loadRow => if s.ueAt ls then (none, rd) else (some (ofBytes 1024 old), rd)
  | .store v => (some 0#1024, (s.write a (toBytes n v)).elide none a n)
  | .storeRow v => (some 0#1024, (s.write a (toBytes n v)).elide none a n)
  | .atom op b c =>
    if s.ueAt ls then (none, rd)
    else
      let dw := decide (n = 8)
      (some ((ofBytes 64 old).setWidth 1024), rd.write a (toBytes n (atomNew op dw (ofBytes 64 old) b c)))

/-- A row request of another package moves some of its doublewords (R87): an uncorrectable word, or what has been read and the state. -/
def State.rowStep (s : State) (kind : AccKind) (a : Nat) (x : RowReq) (m : BitVec 16) : Option Row × State :=
  let is := (List.range 16).filter (fun i => m.getLsbD i)
  let moved (t : State) : State := is.foldl (fun u i => if i % 4 = 0 then u.elide none (a + 8 * i) 32 else u) t
  match kind with
  | .storeRow v => (some 0#1024, moved (is.foldl (fun t i => t.write (a + 8 * i) (toBytes 8 (v.extractLsb' (64 * i) 64))) s))
  | _ =>
    let ls := is.flatMap (fun i => memLocs (a + 8 * i) 8)
    if s.ueAt ls then (none, s.meetUpsets ls none)
    else (some (is.foldl (fun v i => rowPatch v (8 * i) (s.read (a + 8 * i) 8)) x.val), moved (s.meetUpsets ls none))

/-- The kind and size of a row. -/
def rowReq (q : RemReq) : Bool :=
  match q.kind with
  | .loadRow | .storeRow _ => decide (q.size = 128)
  | _ => false

/-- A row request under way at its target. -/
def Head.rowOf (h : Head) (q : RemReq) : Option RowReq := h.rows.find? (fun x => decide (x.req = q))

/-- Note what a row request has moved, or that it has ended. -/
def State.putRow (s : State) (q : RemReq) (x : Option RowReq) : State :=
  s.modHead (fun h => { h with rows := (match x with
    | some y => [y]
    | none => []) ++ h.rows.filter (fun y => decide (y.req ≠ q)) })

/-- The source agent's request buffers hold what the request brought: free bytes, for the manual gives no message format
(R391). -/
def State.fillBuffers (s : State) (pkg agent : Nat) : State :=
  let a := s.head.trsRqbase.toNat + (pkg * 260 + agent) * 2048
  if inHbm a 2048 then
    { s.write a ((List.range 2048).map (fun i => (Config.openValue (s.free + i)).setWidth 8)) with free := s.free + 2048 }
  else s

/-- The response to a request leaves on the port of its source agent. -/
def State.respond (s : State) (q : RemReq) (status : Nat) (v : Row) : State :=
  let t := match s.portFor q.agent q.pkg.toNat with
    | some i => s.sendFlit i 1#8
    | none => s
  { t with resp := .status status v }

/-- The response channel to a package has room. -/
def State.canRespond (s : State) (q : RemReq) : Bool :=
  match s.portFor q.agent q.pkg.toNat with
  | some i => decide ((s.port i).buf.length < replayCap)
  | none => true

/-- A permitted row request moves the doublewords that the input chooses; once all have moved it is answered (R87, R367). -/
def State.rowArrive (s : State) (q : RemReq) : State :=
  let a := q.pa.toNat
  let x := (s.head.rowOf q).getD ⟨q, 0, 0⟩
  let m := (match q.kind with
    | .storeRow _ => s.move.wr
    | _ => s.move.rd) &&& ~~~x.got
  match s.moved.rowStep q.kind a x m with
  | (none, t) => (t.putRow q none).respond q 3 0#1024
  | (some v, t) =>
    if (x.got ||| m) = 0xFFFF#16 then (t.putRow q none).respond q 0 v else t.putRow q (some ⟨q, x.got ||| m, v⟩)

/-- REMOTE_REQUEST_ARRIVE. A row whose doublewords have not all moved is gone on with by the same event again (R87). -/
def execRemoteRequestArrive (q : RemReq) (s : State) : Host.Outcome State Fault Refusal :=
  let a := q.pa.toNat
  if !s.canRespond q then .next s
  else if s.head.trsNpkg.toNat ≤ q.pkg.toNat then .next (s.respond q 1 0#1024)
  else
    let s1 := if (s.head.rowOf q).isSome then s else s.fillBuffers q.pkg.toNat q.agent
    if !(s.head.exps.any (·.exports q)) || !s.devMem a q.size then .next (s1.respond q 1 0#1024)
    else
      match s1.touch a q.size none with
      | none => .next (s1.respond q 5 0#1024)
      | some s2 =>
        if rowReq q then .next (s2.rowArrive q)
        else
        match s2.accessAt q.kind a q.size with
        | (some v, t) => .next (t.respond q 0 v)
        | (none, t) => .next (t.respond q 3 0#1024)

/-! ### The link layer (R390, R392, R393) -/

/-- b comes after a in the sequence modulo 65,536, or is it. -/
def seqAfter (a b : BitVec 16) : Bool := decide ((b - a).toNat < 0x8000)

/-- The peer acknowledges every flit up to a sequence number. -/
def Port.acked (p : Port) (n : BitVec 16) (now : BitVec 64) : Port :=
  let rest := p.buf.filter (fun f => !seqAfter f.seq n)
  if seqAfter p.ackd n ∧ n ≠ p.ackd then { p with ackd := n, buf := rest, lastAck := now } else p

/-- Replay from ACKSEQ + 1: the flits up to ACKSEQ leave the buffer, the others go out again in their order. -/
def Port.replayFrom (p : Port) (n : BitVec 16) (now : BitVec 64) : Port :=
  { p.acked n now with replay := p.replay + 1 }

/-- Flits of messages not yet whole, by channel. -/
def Port.take (p : Port) (f : Flit) : Port :=
  if f.flags.getLsbD 1 then { p with rx := p.rx.filter (fun x => decide (x.vc ≠ f.vc)) } else { p with rx := p.rx ++ [f] }

/-- One flit as it is received: in order it is delivered, its acknowledgement taken and its NAK obeyed; a CRC error or a
sequence gap is counted and answered with a NAK, behind which later flits are discarded; a flit received before is discarded. -/
def Port.receive (now : BitVec 64) (p : Port) (f : Flit) : Port :=
  if flitGood f && decide (f.seq = p.rxSeq) then
    let q := ({ p with rxSeq := p.rxSeq + 1, nak := false }.take f).acked f.ackseq now
    if f.flags.getLsbD 0 then q.replayFrom f.ackseq now else q
  else if p.nak && (flitGood f || decide (f.seq ≠ p.rxSeq)) then p
  else if flitGood f && !seqAfter p.rxSeq f.seq then p
  else { p with crcerr := p.crcerr + 1, nak := true, nakDue := true }

/-- A NAK that is due goes out, as a flit of link control with bits NAK and LAST, where the replay buffer has room (R390). -/
def State.sendNak (s : State) (i : Nat) : State :=
  let p := s.port i
  if p.up && p.nakDue && decide (p.buf.length < replayCap) then (s.sendFlit i 2#8 3#8).modPort i (fun x => { x with nakDue := false })
  else s

/-- What the link does once acknowledgements may have freed its replay buffer: a NAK that is due goes out, then the requests that a full
buffer has held (R390). -/
def State.afterAck (s : State) (i : Nat) : State :=
  (List.range s.cores.length).foldl (fun t k => if (t.core k).eng.rm = [] then t else t.sendRemotes k) (s.sendNak i)

/-- FLIT_RECEIVE: the flits of one frame, 1 to 35 of them (R390). A frame with another EtherType than TRS_ETYPE is not one of the trestle's
(R389). -/
def execFlitReceive (i : BitVec 3) (fs : List Flit) (s : State) : Host.Outcome State Fault Refusal :=
  if (s.port i.toNat).up && decide (1 ≤ fs.length) && decide (fs.length ≤ 35) && fs.all (fun f => decide (f.etype = s.head.trsEtype)) then
    .next ((s.modPort i.toNat (fun p => fs.foldl (Port.receive s.time) p)).afterAck i.toNat)
  else .next s

/-- NAK_RECEIVE. -/
def execNakReceive (i : BitVec 3) (n : BitVec 16) (s : State) : Host.Outcome State Fault Refusal :=
  if (s.port i.toNat).up then .next ((s.modPort i.toNat (fun p => p.replayFrom n s.time)).afterAck i.toNat) else .next s

/-- A port goes down: what was sent on it and not answered is answered locally with status 4 (R392). -/
def State.dropPort (s : State) (i : Nat) : State :=
  let s1 := s.modPort i (fun p => { p with up := false, lanes := 0, retraining := false, regain := false, buf := [], rx := [], nak := false, nakDue := false })
  (List.range s.cores.length).foldl (fun t k =>
    ((s.core k).eng.rm.filter (fun q => match q.sent with
      | some (_, j) => decide (j = i)
      | none => false)).foldl (fun u q => u.answerRm k q 4 0#1024) t) s1

/-- PORT_DOWN: no acknowledgement progress for TRS_TMO µs while flits are unacknowledged. -/
def execPortDown (i : BitVec 3) (s : State) : Host.Outcome State Fault Refusal :=
  let p := s.port i.toNat
  if p.up && decide (p.buf ≠ []) && decide (s.tmoNs ≤ (s.time - p.lastAck).toNat) then .next (s.dropPort i.toNat) else .next s

/-- LANE_SHED: the port retrains onto the surviving lanes, 2 or 1 of them; with none left it goes down. -/
def execLaneShed (i : BitVec 3) (lanes : BitVec 3) (s : State) : Host.Outcome State Fault Refusal :=
  let p := s.port i.toNat
  if !p.up || decide (p.lanes.toNat ≤ lanes.toNat) then .next s
  else if lanes = 0 then .next ((s.modPort i.toNat (fun x => { x with shed := x.shed + 1 })).dropPort i.toNat)
  else if lanes = 1 ∨ lanes = 2 then
    .next (s.modPort i.toNat (fun x => { x with shed := x.shed + 1, lanes := lanes, retraining := true, regain := false }))
  else .next s

/-- RETRAIN: a write of TRS_PST.RETRAIN retrains a port that is up on all working lanes. -/
def execRetrain (i : BitVec 3) (s : State) : Host.Outcome State Fault Refusal :=
  if (s.port i.toNat).up then .next (s.modPort i.toNat (fun x => { x with retraining := true, regain := true })) else .next s

/-- RETRAINING_DONE: traffic goes on from the first unacknowledged flit, on the lanes that a retraining found working. -/
def execRetrainingDone (i : BitVec 3) (lanes : BitVec 3) (s : State) : Host.Outcome State Fault Refusal :=
  let ok := decide (lanes = 1 ∨ lanes = 2 ∨ lanes = 4)
  if (s.port i.toNat).retraining then
    .next (s.modPort i.toNat (fun x => { x with
      retraining := false, regain := false, lanes := if x.regain && ok then lanes else x.lanes }))
  else .next s

/-- PORT_UP: a port whose EN is 1 comes up with its sequence numbers at the start. -/
def execPortUp (i : BitVec 3) (lanes : BitVec 3) (s : State) : Host.Outcome State Fault Refusal :=
  let p := s.port i.toNat
  if p.en && !p.up && decide (lanes = 1 ∨ lanes = 2 ∨ lanes = 4) then
    .next (s.modPort i.toNat (fun x => { x with
      up := true, lanes := lanes, txSeq := 0, ackd := 0xFFFF, rxSeq := 0, buf := [], rx := [], nak := false, nakDue := false
      lastAck := s.time }))
  else .next s

/-! ### Publish and refresh end (R91 to R95) -/

/-- REFRESH_PERFORM: the context's oldest pending refresh (R60, R93). -/
def execRefreshPerform (k r : Nat) (s : State) : Host.Outcome State Fault Refusal :=
  match (s.ctx k r).refs with
  | f :: l =>
    if s.refReady k r f then
      .next (((s.refresh k).modCtx k r (fun c => { c with refs := l })).sendRemotes k)
    else .next s
  | [] => .next s

/-- The end of a publish whose context has left; it performs the near stores that it covers (R91; log entry 11). -/
def State.endOrphan (s : State) (k id : Nat) : State :=
  let fin (q : Pub) : Bool := decide (q.id = id) && (s.core k).pubDone q.covers
  let ids := ((s.core k).orphans.filter fin).flatMap (·.covers)
  ((s.flushNear k ids Ctx.landsHere).modCore k (fun x => { x with orphans := x.orphans.filter (fun q => !fin q) })).sendRemotes k

/-- PUBLISH_COMPLETE: a publish whose covered writes are all performed completes, in order behind the context's earlier
ones; a PBAR's then arrives (R91, R92, R95). Near stores that it covers and that stand at their landing tick are performed now
(log entry 11). -/
def execPublishComplete (k r id : Nat) (s : State) : Host.Outcome State Fault Refusal :=
  let c := s.ctx k r
  let core := s.core k
  match c.pubs with
  | p :: l =>
    if p.id = id ∧ core.pubDone p.covers then
      let t := (s.flushNear k p.covers Ctx.landsHere).modCtx k r (fun x => { x with pubs := l })
      .next ((match p.kind with
        | .pbar => (t.arrive k r).barrierStep p.scope c.crew k 4
        | _ => t).sendRemotes k)
    else .next (s.endOrphan k id)
  | [] => .next (s.endOrphan k id)

end Sys2Proof.Machine
end

