-- ==== Sys2Proof/Machine/Sequencer.lean ====
section
/-!
DEFINITION. The step sequencer (R174 to R191, R403): arming, loading a step, dispatch, reports, reuse, closing; NXT, TDONE and
PRBR (R360, R362).
-/

namespace Sys2Proof.Machine

/-! ### Nodes and tiles (R179, R182) -/

def Node.tiles (n : Node) : Nat := bf n.n0 31 16
def Node.aff (n : Node) : Bool := wb n.n0 41
def Node.probe (n : Node) : Bool := wb n.n0 42
def Node.reuse (n : Node) : Bool := wb n.n0 43
def Node.block (n : Node) : Nat := bf n.n0 55 44

/-- The tile word of a node's tile in the current step (R182). -/
def tileWordOf (step n : Nat) (x : Node) (t : Nat) : Word :=
  BitVec.ofNat 64 (n * 2 ^ 48 + step % 256 * 2 ^ 40 + bf x.n0 63 56 * 2 ^ 32 + t * 2 ^ 16 + bf x.n0 15 0)

/-- A null word (R182, R403). -/
def nullWord (step reason : Nat) : Word := BitVec.ofNat 64 (2 ^ 63 + step % 256 * 2 ^ 40 + reason)

/-- Node and tile of a tile word. -/
def wordNode (w : Word) : Nat := bf w 55 48
def wordTile (w : Word) : Nat := bf w 31 16

def Seq.node (q : Seq) (n : Nat) : Node := q.nodes.getD n ⟨0, [], [], [], false, false, 0, 0, none⟩

def Seq.modNode (q : Seq) (n : Nat) (f : Node → Node) : Seq := { q with nodes := modAt f n q.nodes }

/-- Steps of the schedule. -/
def Seq.nstep (q : Seq) : Nat := bf q.ctl 43 32

/-- The crew that a sequencer serves. -/
def State.seqCrew (s : State) (d : Nat) : Option Crew := s.crew? (BitVec.ofNat 16 (bf (s.die d).seq.ctl 63 48))

/-! ### Stopping and ending (R174, R175) -/

/-- The sequencer's MSI. -/
def State.seqMsi (s : State) (d : Nat) : State := s.msi (msiAddr (s.die d).seq.msia) (msiId (s.die d).seq.msid)

/-- STOPPED with an error. -/
def State.stopSeq (s : State) (d err : Nat) : State :=
  (s.modSeq d (fun q => { q with st := .stopped, err := err, copies := [] })).seqMsi d

/-- IDLE: EN is 0 and the schedule is abandoned; the tiles queued at the members go with it. -/
def State.idleSeq (s : State) (d : Nat) : State :=
  let s1 := s.modSeq d (fun q => { q with
    ctl := q.ctl &&& ~~~(1#64), st := .idle, mem := .idle, nodes := [], blocks := [], entry := [], returned := [], out := []
    copies := [], closed := false })
  match s.seqCrew d with
  | some w => if s.seqDie w.id = some d then w.members.foldl (fun t k => t.modEng k (fun e => { e with tileq := [] })) s1 else s1
  | none => s1

/-- The sequencer that serves a launch, or is armed for it, goes IDLE as it completes (R175). -/
def State.idleCrew (s : State) (w : Crew) : State :=
  let d := dieOf (w.phys 0)
  let q := (s.die d).seq
  if bf q.ctl 63 48 = w.id.toNat && decide (q.st ≠ .idle) &&
      !s.crews.any (fun x => decide (x.order ≠ w.order) && x.live && decide (x.id = w.id)) then s.idleSeq d
  else s

/-- A node at the start of a step. -/
def Node.fresh (x : Node) : Node := { x with doneT := [], reps := [], decided := false, complete := false, cyc := 0, cycT := 0 }

/-- LOAD of a step is entered: the step begins now, and none of its nodes is complete (R174, R177). -/
def Seq.enterLoad (q : Seq) (n : Nat) (now : BitVec 64) : Seq :=
  { q with st := .load, step := n, began := now, slip := 0, nodes := q.nodes.map Node.fresh }

/-- The next state of a schedule after step n's close. -/
def State.afterStep (s : State) (d : Nat) : State :=
  let q := (s.die d).seq
  if q.step + 1 < q.nstep then s.modSeq d (fun x => x.enterLoad (x.step + 1) s.time)
  else (s.modSeq d (fun x => { x with st := .done })).seqMsi d

/-! ### Arming (R174, R179, R180) -/

/-- SSQ_CTL as it reads. -/
def ssqMask (v : Word) : Word := v &&& 0xFFFF0FFFFFFFF005#64

/-- A table base. -/
def tabBase (w : Word) : Nat := bf w 51 6 * 64

/-- Number of nodes and of blocks. -/
def Seq.nnode (q : Seq) : Nat := bf q.ctl 31 24 + 1
def Seq.nblk (q : Seq) : Nat := bf q.ctl 23 12

/-- The configuration checks of R174. -/
def Seq.cfgOk (q : Seq) : Bool :=
  decide (bf q.ctl 63 48 ≠ 0xFFFF) && decide (1 ≤ q.nstep) && decide (q.nstep ≤ 4095) &&
    inHbm (tabBase q.stab) (q.nstep * 64) && inHbm (tabBase q.graph) (q.nnode * 32) &&
    (decide (q.nblk = 0) || inHbm (tabBase q.blkt) (q.nblk * 64))

/-- A node as its four doublewords, read from memory. -/
def State.nodeWords (s : State) (a : Nat) : List Word := (List.range 4).map (fun i => s.read64 (a + 8 * i))

/-- The used predecessors of a node. -/
def nodePreds (w : List Word) : List Nat :=
  (List.range (bf (lrw w 2) 3 0)).map (fun i => (lrw w 1).toNat / 2 ^ (8 * i) % 256)

/-- A node at the start of a schedule: it has no recorded costs, so that C[n] does not survive an arming (DESIGN CHOICE, log
entry 56). -/
def nodeOf (w : List Word) : Node := ⟨lrw w 0, nodePreds w, [], [], false, false, 0, 0, none⟩

/-- The checks of one node that need no other (R180). -/
def nodeOk (nblk n : Nat) (w : List Word) : Bool :=
  let x := nodeOf w
  decide (bf (lrw w 0) 40 32 = 0) && decide (bf (lrw w 2) 63 4 = 0) && decide (lrw w 3 = 0) && decide (x.tiles ≠ 0) &&
    decide (bf (lrw w 2) 3 0 ≤ 8) && x.preds.all (fun p => decide (p < n)) && !(x.reuse && x.probe) &&
    (!(x.reuse || x.probe) || decide (x.block < nblk))

/-- The probe nodes of a block. -/
def probesOf (l : List Node) (b : Nat) : List Nat :=
  (List.range l.length).filter (fun i => match l[i]? with
    | some x => x.probe && decide (x.block = b)
    | none => false)

/-- A REUSE node's block has one probe node, which is among its predecessors (R180). -/
def reuseOk (l : List Node) (x : Node) : Bool :=
  !x.reuse || (match probesOf l x.block with
    | [p] => x.preds.contains p
    | _ => false)

/-- The words of a die's tags are written (R80, R84, R186). -/
def State.tagsWritten (s : State) (d : Nat) : State :=
  s.rewritten (fun x a l => decide (x = d) && decide (a = 10) && decide (coreLoc (d * 128) 0 ≤ l) && decide (l < coreLoc (d * 128) 0 + 8 * 4096))

/-- A write of SSQ_CTL with EN = 1: from IDLE it arms. -/
def State.armSeq (s : State) (d : Nat) (v : Word) : State :=
  let s1 := s.modSeq d (fun q => { q with ctl := ssqMask v })
  let q := (s1.die d).seq
  if q.st ≠ .idle then s1
  else if !q.cfgOk then s1.stopSeq d 1
  else
    let a := tabBase q.graph
    let ls := memLocs a (q.nnode * 32)
    let s2 := s1.meetUpsets ls none
    if s1.ueAt ls then s2.stopSeq d 5
    else
      let ws := (List.range q.nnode).map (fun i => s2.nodeWords (a + 32 * i))
      let ns := ws.map nodeOf
      if !((List.range q.nnode).all (fun i => nodeOk q.nblk i (ws.getD i []))) || !(ns.all (reuseOk ns)) then s2.stopSeq d 1
      else
        (if wb q.ctl 2 then s2 else s2.tagsWritten d).modSeq d (fun x => { x with
          st := .armed, mem := .idle, step := 0, err := 0, nodes := ns, blocks := [], entry := [], returned := [], rr := 0, out := []
          copies := [], closed := false, riskDone := false, need := none, tags := if wb x.ctl 2 then x.tags else [] })

/-- SSQ_ARM: a write of SSQ_CTL with EN = 1. -/
def execSsqArm (d : Bool) (v : Word) (s : State) : Host.Outcome State Fault Refusal := .next (s.armSeq (b2n d) (v ||| 1#64))

/-- SSQ_DISARM: a write of EN = 0. -/
def execSsqDisarm (d : Bool) (s : State) : Host.Outcome State Fault Refusal := .next (s.idleSeq (b2n d))

/-! ### LOAD (R176 to R178, R185) -/

/-- An address in the canonical form of Sv57 (R11). -/
def canonical (v : Word) : Bool := decide (bf v 63 56 = 0) || decide (bf v 63 56 = 255)

/-- A step entry passes (R176). -/
def entryOk (e : List Word) : Bool :=
  decide (bf (lrw e 5) 62 48 = 0) && decide (bf (lrw e 7) 63 32 = 0) && canonical (lrw e 4)

/-- Fields of a block descriptor (R185). -/
def blkIn (b : List Word) : Nat := (lrw b 0).toNat
def blkInLen (b : List Word) : Nat := bf (lrw b 1) 31 0
def blkOut (b : List Word) : Nat := (lrw b 2).toNat
def blkOutLen (b : List Word) : Nat := bf (lrw b 3) 31 0
def blkXref (b : List Word) : Nat := (lrw b 4).toNat
def blkYref (b : List Word) : Nat := (lrw b 5).toNat
def blkTheta (b : List Word) : Nat := bf (lrw b 1) 63 48
def blkMaxAge (b : List Word) : Nat := bf (lrw b 1) 35 32

/-- The checks of a block descriptor at LOAD (R185). -/
def blkOk (b : List Word) : Bool :=
  let n := blkInLen b
  let m := blkOutLen b
  decide (bf (lrw b 1) 47 38 = 0) && decide (bf (lrw b 1) 37 36 < 2) && decide (blkMaxAge b ≠ 0) && decide (n ≠ 0) &&
    decide (n % 128 = 0) && decide (m ≠ 0) && decide (m % 128 = 0) && decide (bf (lrw b 3) 63 32 = 0) &&
    decide (bf (lrw b 6) 63 2 = 0) && decide (lrw b 7 = 0) &&
    !overlap (blkOut b) m (blkXref b) n && !overlap (blkOut b) m (blkYref b) m &&
    [(blkIn b, n), (blkOut b, m), (blkXref b, n), (blkYref b, m)].all (fun r => decide (r.1 + r.2 ≤ apBase))

/-- The blocks that the graph names. -/
def Seq.blockIds (q : Seq) : List Nat := ((q.nodes.filter (fun x => x.reuse || x.probe)).map Node.block).eraseDups

/-- Eight doublewords of a table. -/
def State.words8 (s : State) (a : Nat) : List Word := (List.range 8).map (fun i => s.read64 (a + 8 * i))

/-- The step registers of a step (R177): sq14 is the time at which the step began, sq13 its deadline with what pre-emption has
added to it (R178). -/
def stepRegs (q : Seq) (e : List Word) (exact : Bool) : List (BitVec 64) :=
  let lo (i : Nat) : BitVec 64 := BitVec.ofNat 64 (bf (lrw e i) 31 0)
  let hi (i : Nat) : BitVec 64 := BitVec.ofNat 64 (bf (lrw e i) 63 32)
  let dl := bf (lrw e 5) 47 0
  let last := decide (q.step + 1 = q.nstep)
  [BitVec.ofNat 64 q.step, lo 0, hi 0, lo 1, lo 2, hi 2, lo 3, hi 3, lrw e 4, hi 1, lo 6, hi 6, lo 7,
   if dl = 0 then 0 else q.began + BitVec.ofNat 64 dl + q.slip, q.began,
   BitVec.ofNat 64 (b2n (wb (lrw e 5) 63) + b2n exact * 2 + b2n last * 4 + q.nstep * 2 ^ 16)]

/-- LOAD of the current step. -/
def State.seqLoad (s : State) (d : Nat) : State :=
  let q := (s.die d).seq
  match s.seqCrew d with
  | none => s
  | some w =>
    let ea := tabBase q.stab + 64 * q.step
    let ba (b : Nat) : Nat := tabBase q.blkt + 64 * b
    let ls := memLocs ea 64 ++ q.blockIds.flatMap (fun b => memLocs (ba b) 64)
    let s1 := s.meetUpsets ls none
    if s.ueAt ls then s1.stopSeq d 5
    else
      let e := s1.words8 ea
      let bs := q.blockIds.map (fun b => (b, s1.words8 (ba b)))
      if !entryOk e then s1.stopSeq d 2
      else if !(bs.all (fun b => blkOk b.2)) then s1.stopSeq d 3
      else
        let regs := stepRegs q e (wb (lrw w.lr 0) 7)
        let s2 := w.members.foldl (fun t k => t.modCore k (fun c => { c with steps := Tab.blit c.steps 0 regs })) s1
        s2.modSeq d (fun x => { x with
          st := .run, entry := e, blocks := bs, returned := [], out := []
          copies := [], closed := false, riskDone := false })

/-- SEQ_LOAD. -/
def execSeqLoad (d : Bool) (s : State) : Host.Outcome State Fault Refusal :=
  if (s.die (b2n d)).seq.st = .load then .next (s.seqLoad (b2n d)) else .next s

/-! ### The end of a step (R175, R195, R198) -/

/-- Absolute deadline of the step, as the members' sq13 holds it; 0: none. -/
def State.seqDeadline (s : State) (d : Nat) : Word :=
  match s.seqCrew d with
  | some w => Tab.get (s.core (w.phys 0)).steps 13
  | none => 0

/-- The package time that the deadlines of a sequencer's crew are held against: a crew that is placed again and not released yet stands at
its release, to which its deadlines have been moved (R178, R195). -/
def State.crewTime (s : State) (d : Nat) : Nat :=
  match s.seqCrew d with
  | some w => if w.st = .placed then max w.rt.toNat s.time.toNat else s.time.toNat
  | none => s.time.toNat

/-- RUN ends when every node is complete and every copy performed; a step that ends after its deadline is late. -/
def State.checkClose (s : State) (d : Nat) : State :=
  let q := (s.die d).seq
  if q.st = .run ∧ q.nodes.all (·.complete) ∧ q.copies = [] then
    let dl := s.seqDeadline d
    let s1 := s.modSeq d (fun x => { x with st := .close, closed := false })
    if dl ≠ 0 ∧ dl.toNat < s.crewTime d then s1.modDie d (fun x => { x with late := min (x.late + 1) 0xFFFFFFFF }) else s1
  else s

/-- The mean cycles of the tiles that ran in the step (R195). -/
def Seq.costs (q : Seq) : Seq :=
  { q with closed := true, nodes := q.nodes.map (fun x => if x.cycT = 0 then x else { x with mean := some (x.cyc, x.cycT) }) }

/-- STEP_CLOSE: costs are recorded; outside a pause the schedule goes on. -/
def execStepClose (d : Bool) (s : State) : Host.Outcome State Fault Refusal :=
  let i := b2n d
  let q := (s.die i).seq
  if q.st = .close then .next ((s.modSeq i Seq.costs).afterStep i)
  else if q.st = .paused ∧ q.mem = .close ∧ !q.closed then .next (s.modSeq i Seq.costs)
  else .next s

/-! ### Reuse tags and eligibility (R186, R188) -/

def Seq.tag (q : Seq) (b : Nat) : Tag :=
  match q.tags.find? (fun e => decide (e.1 = b)) with
  | some e => e.2
  | none => ⟨false, 0⟩

def Seq.setTag (q : Seq) (b : Nat) (t : Tag) : Seq := { q with tags := (b, t) :: q.tags.filter (fun e => decide (e.1 ≠ b)) }

/-- Storage word of a tag: array 10 of the die. -/
def tagLoc (d b : Nat) : Nat × Nat × Nat := (d, 10, coreLoc (d * 128) (8 * b))

/-- The descriptor of a block. -/
def Seq.blk (q : Seq) (b : Nat) : List Word :=
  match q.blocks.find? (fun e => decide (e.1 = b)) with
  | some e => e.2
  | none => []

/-- A block may be skipped in this step (R188); an uncorrectable tag reads as not valid (R186). -/
def State.eligible (s : State) (d b : Nat) : Bool :=
  let q := (s.die d).seq
  let t := q.tag b
  let exact := match s.seqCrew d with
    | some w => w.exact
    | none => false
  !exact && !wb (lrw q.entry 5) 63 && t.valid && !s.ueAt [tagLoc d b] && decide (t.s0 < q.step) &&
    decide (q.step - t.s0 ≤ blkMaxAge (q.blk b))

/-! ### Dispatch (R181) -/

/-- Every predecessor of a node is complete. -/
def Seq.predsDone (q : Seq) (x : Node) : Bool := x.preds.all (fun p => (q.node p).complete)

/-- A node has tiles to deliver: it is ready; a probe's block is eligible; a block that is being skipped delivers none. -/
def State.dispatches (s : State) (d n : Nat) : Bool :=
  let q := (s.die d).seq
  let x := q.node n
  q.predsDone x && !x.complete && (!x.probe || (!x.decided && s.eligible d x.block)) &&
    !(x.reuse && q.copies.any (fun c => c.skip && decide (c.blk = x.block)))

/-- A tile of a node has been delivered in this step, or waits among the returned ones. -/
def Seq.given (q : Seq) (n t : Nat) : Bool :=
  (q.node n).doneT.contains t || q.out.any (fun o => decide (o.node = n) && decide (o.tile = t)) ||
    q.returned.any (fun e => decide (e.1 = n) && decide (wordTile e.2 = t))

/-- Room in a member's tile queue. -/
def State.tileRoom (s : State) (k : Nat) : Bool := decide ((s.core k).eng.tileq.length < 4)

/-- The member that takes a tile: its own under affinity and in exact mode, else the next one with room. -/
def State.tileTarget (s : State) (w : Crew) (q : Seq) (x : Node) (t : Nat) : Option Nat :=
  if x.aff || w.exact then
    let n := t % (w.size + 1)
    if s.tileRoom (w.phys n) then some n else none
  else
    ((List.range (w.size + 1)).map (fun i => (q.rr + i) % (w.size + 1))).find? (fun n => s.tileRoom (w.phys n))

/-- The first tile of some nodes that a member can take: node, tile, logical core. -/
def State.nextTile (s : State) (d : Nat) (w : Crew) (q : Seq) : List Nat → Option (Nat × Nat × Nat)
  | [] => none
  | n :: l =>
    let x := q.node n
    let hit := if s.dispatches d n then
        firstSome (fun t => if q.given n t then none else (s.tileTarget w q x t).map (fun c => (n, t, c))) (List.range x.tiles)
      else none
    match hit with
    | some r => some r
    | none => s.nextTile d w q l

/-- The first returned tile that a member can take. -/
def State.nextReturned (s : State) (w : Crew) (q : Seq) : Option (Nat × Nat × Nat) :=
  firstSome (fun e => (s.tileTarget w q (q.node e.1) (wordTile e.2)).map (fun c => (e.1, wordTile e.2, c))) q.returned

/-- Deliver a tile to a logical core. -/
def State.giveTile (s : State) (d : Nat) (w : Crew) (n t c : Nat) : State :=
  let q := (s.die d).seq
  let x := q.node n
  let k := w.phys c
  (s.modEng k (fun e => { e with tileq := e.tileq ++ [tileWordOf q.step n x t] })).modSeq d (fun y => { y with
    returned := y.returned.filter (fun e => !(decide (e.1 = n) && decide (wordTile e.2 = t)))
    out := y.out ++ [⟨n, t, k, none⟩]
    rr := if x.aff || w.exact then y.rr else (c + 1) % (w.size + 1) })

/-- TILE_DELIVER: one tile, those that a pre-emption returned before all others. -/
def execTileDeliver (d : Bool) (s : State) : Host.Outcome State Fault Refusal :=
  let i := b2n d
  let q := (s.die i).seq
  match s.seqCrew i with
  | none => .next s
  | some w =>
    if q.st ≠ .run then .next s
    else
      match s.nextReturned w q with
      | some (n, t, c) => .next (s.giveTile i w n t c)
      | none =>
        match s.nextTile i w q (List.range q.nodes.length) with
        | some (n, t, c) => .next (s.giveTile i w n t c)
        | none => .next s

/-! ### NXT (R182, R360) -/

/-- The word that NXT takes. -/
def State.nxtWord (s : State) : Word :=
  match s.seqDie s.ic.crew with
  | none => nullWord 0 3
  | some d =>
    let q := (s.die d).seq
    if q.st = .done then nullWord q.step 1
    else if q.st = .stopped then nullWord q.step 2
    else (s.icore.eng.tileq.head?).getD (nullWord q.step 0)

/-- NXT pops the tile queue where it takes a tile from it. -/
def State.nxtPop (s : State) : State :=
  match s.seqDie s.ic.crew with
  | none => s
  | some d =>
    let q := (s.die d).seq
    if q.st = .done ∨ q.st = .stopped then s else s.modEng s.issue.k (fun e => { e with tileq := e.tileq.drop 1 })

/-- NXT (R360). -/
def execNxt (p : Pr) (s : State) : Host.Outcome State Fault Refusal :=
  slotOp .e p 1 noReads noTraps noWaits
    (fun t =>
      let g := t.ic.regs
      (t.nxtPop.enterLanding
        { due := g.tick + 6, slot := .e, dst := .scal (28#5 + g.nxp.setWidth 5), val := t.nxtWord.setWidth 1024,
          fl := 0#7, wait := none, tileWord := true, err := none }).modIc (fun c => { c with regs := { c.regs with nxp := c.regs.nxp + 1 } })) s

/-! ### Reports (R183, R184, R362) -/

/-- Place a report in sq. -/
def State.pushReport (s : State) (w : Word) (v : Option Word) : State :=
  let (id, s1) := s.fresh
  let e := s.icore.eng
  let cmds := (e.ce0 ++ e.ce1 ++ e.ce2 ++ e.ce3).map (·.id)
  s1.modEng s.issue.k (fun x => { x with sq := x.sq ++ [(⟨id, s.origin, w, v, s.icore.covered ++ cmds⟩ : Report)] })

/-- sq is full (R345). -/
def sqFull (s : State) : Option Wait := waitIf (decide (16 ≤ s.icore.eng.sq.length)) .sync

def execTdone (p : Pr) (a : SSrc) (s : State) : Host.Outcome State Fault Refusal :=
  slotOp .e p 0 noReads noTraps sqFull (fun t => t.pushReport (t.ss a) none) s

def execPrbr (p : Pr) (a b : SSrc) (s : State) : Host.Outcome State Fault Refusal :=
  slotOp .e p 0 noReads noTraps sqFull (fun t => t.pushReport (t.ss a) (some (t.ss b))) s

/-- What a report comes after is over (R184). -/
def Core.reportReady (c : Core) (r : Report) : Bool :=
  c.pubDone r.after && (c.eng.ce0 ++ c.eng.ce1 ++ c.eng.ce2 ++ c.eng.ce3).all (fun x => !r.after.contains x.id)

/-- Begin the update of a block's entry: VALID becomes 0, a write of the tag's word, and the copies start (R190). -/
def State.startUpdate (s : State) (d b : Nat) : State :=
  { ((s.modSeq d (fun q => { q.setTag b ⟨false, (q.tag b).s0⟩ with copies := q.copies ++ [{ id := s.nextId, blk := b, skip := false, pos := 0, slots := [], flt := none }] })).clearUpsets
      [tagLoc d b]) with nextId := s.nextId + 1 }

/-- A tile is reported: the node it completes may complete its block. -/
def State.finishTile (s : State) (d n t : Nat) (o : OutTile) (v : Option Word) : State :=
  let cyc := match o.start with
    | some c => if (s.die d).seq.still then c else (s.core o.k).cycles - c
    | none => 0
  let s1 := s.modSeq d (fun q => { q.modNode n (fun x => { x with
      doneT := x.doneT ++ [t], cyc := x.cyc + cyc, cycT := x.cycT + 1
      reps := (match v with
        | some w => x.reps ++ [(t, w)]
        | none => x.reps)
      complete := x.complete || (!x.probe && decide (x.doneT.length + 1 = x.tiles)) }) with
    out := q.out.filter (fun y => y != o) })
  let q := (s1.die d).seq
  let x := q.node n
  if x.reuse && x.complete && (q.nodes.filter (fun y => y.reuse && decide (y.block = x.block))).all (·.complete) then
    (s1.startUpdate d x.block).checkClose d
  else s1.checkClose d

/-- The sequencer judges a report (R183). -/
def State.judge (s : State) (d : Nat) (r : Report) : State :=
  let q := (s.die d).seq
  let n := wordNode r.word
  let t := wordTile r.word
  let x := q.node n
  let bad := s.modSeq d (fun y => { y with badrep := min (y.badrep + 1) 0xFFFF })
  if wb r.word 63 ∨ r.word ≠ tileWordOf q.step n x t ∨ x.probe ≠ r.val.isSome then bad
  else
    match q.out.find? (fun o => decide (o.node = n) && decide (o.tile = t)) with
    | some o => s.finishTile d n t o r.val
    | none => bad

/-- REPORT_PERFORM: the oldest report of a core; its publish performs the near stores that it covers (R91). -/
def execReportPerform (k : Nat) (s : State) : Host.Outcome State Fault Refusal :=
  match (s.core k).eng.sq with
  | r :: l =>
    if (s.core k).reportReady r then
      let t := (s.flushNear k r.after Ctx.landsHere).modEng k (fun e => { e with sq := l })
      .next (match t.seqDie r.who.crew with
        | some d => t.judge d r
        | none => t)
    else .next s
  | [] => .next s

/-! ### The decision (R188, R199) -/

/-- The sums of a probe's reports in tile order. -/
def probeSums (x : Node) : Nat × Nat :=
  (List.range x.tiles).foldl (fun a t =>
    match x.reps.find? (fun e => decide (e.1 = t)) with
    | some e => (f32Add a.1 (bf e.2 31 0), f32Add a.2 (bf e.2 63 32))
    | none => a) (0, 0)

/-- The block is skipped. -/
def skips (b : List Word) (x : Node) : Bool :=
  let (num, den) := probeSums x
  let lim := roundNE32 ((ue8m8Value (blkTheta b)).mul (f32Value den))
  (f32Value num).le (f32Value lim)

/-- Quadrants of a die that hold members of a crew, over both dies (R192). -/
def Crew.quads (w : Crew) : List Nat := (List.range 8).filter (fun i => w.members.any (fun p => decide (p / 32 = i)))

def State.quad (s : State) (i : Nat) : Quad := (s.die (i / 4)).quads.getD (i % 4) Quad.reset

/-- Energy of a class in hundredths of a nanojoule per core-cycle (R199). -/
def classE (c : Nat) : Nat := if c = 0 then 155 else if c = 1 then 170 else if c = 2 then 160 else 60

/-- The credit of a skip in nanojoules (R199). -/
def State.credit (s : State) (d b : Nat) (w : Crew) : Nat :=
  let q := (s.die d).seq
  let work : Rat := (q.nodes.map (fun x =>
    match x.mean with
    | some (c, n) => if x.reuse ∧ x.block = b then (x.tiles : Rat) * c / n else 0
    | none => 0)).foldl (· + ·) 0
  let vs := w.quads.map (fun i => (s.quad i).mv)
  let v : Rat := ((vs.sum : Nat) : Rat) / vs.length / 350
  let c := work * (classE (bf (lrw (q.blk b) 6) 1 0) : Rat) / 100 * v * v - (blkOutLen (q.blk b) : Rat) * 8 / 1000
  c.floor.toNat

/-- PROBE_DECISION at a probe node that is ready: an ineligible block's probe completes undelivered; else, once every tile has
been reported, the block is skipped or computed. -/
def execProbeDecision (d : Bool) (n : Nat) (s : State) : Host.Outcome State Fault Refusal :=
  let i := b2n d
  let q := (s.die i).seq
  let x := q.node n
  if q.st ≠ .run ∨ !x.probe ∨ x.decided ∨ !q.predsDone x ∨ q.nodes.length ≤ n then .next s
  else if !s.eligible i x.block then
    let s1 := if s.ueAt [tagLoc i x.block] then s.meetUpsets [tagLoc i x.block] none else s
    .next ((s1.modSeq i (fun y => y.modNode n (fun z => { z with decided := true, complete := true }))).checkClose i)
  else if x.doneT.length < x.tiles then .next s
  else
    let s1 := s.modSeq i (fun y => y.modNode n (fun z => { z with decided := true, complete := true }))
    if skips (q.blk x.block) x then
      let c := match s.seqCrew i with
        | some w => s.credit i x.block w
        | none => 0
      let s2 := (s1.modSeq i (fun y => { y with copies := y.copies ++ [{ id := s.nextId, blk := x.block, skip := true, pos := 0, slots := [], flt := none }] })).modDie i
        (fun y => { y with skipcred := y.skipcred + BitVec.ofNat 64 c })
      .next { s2 with nextId := s2.nextId + 1 }
    else .next (s1.checkClose i)

/-! ### The sequencer's copies (R186, R189, R190) -/

/-- Where an access of the sequencer lies; unrec says that its fault found the record buffer full (R126); one that stops may ask for a
walk (R115). -/
inductive SeqAt
  | at (s : State) (pa : Nat)
  | fault (s : State) (key : FltKey) (unrec : Bool)
  | stop (ask : Option WalkReq)
  deriving DecidableEq, Repr

/-- The context that the sequencer's accesses name: logical core 0 (R186). -/
def seqOrigin (w : Crew) : Origin := ⟨w.phys 0, 0, 0, w.id, 0, 0⟩

/-- The translation registers of logical core 0 (R185): those of the context in its first occupied slot, else of the context that a
pre-emption has taken from it, else the launch record's (log entry 42). -/
def State.seqXlat (s : State) (w : Crew) : Xlat :=
  let of (c : Core) : Option Xlat :=
    if c.c0.mode ≠ .empty ∧ c.c0.crew = w.id then some c.c0.xl
    else if c.c1.mode ≠ .empty ∧ c.c1.crew = w.id then some c.c1.xl
    else none
  ((of (s.core (w.phys 0))).or ((w.saved.find? (fun v => decide (v.lcore = 0))).bind (fun v => of v.core))).getD (s.recordNow w).xlat

/-- The class of an address of the sequencer; none where the heap window refuses the kind (R31). -/
def Xlat.seqCls (x : Xlat) (va : Nat) (ak : AK) : Option ACls :=
  if inHeap x va then (if heapOk x ak then some (.phys ((va + x.ho.toNat) % 2 ^ 64)) else none) else some .paged

/-- Open or join a page record for the sequencer, unless an earlier piece of the copy waits there. -/
def State.seqFault (s : State) (d : Nat) (root : Word) (who : Origin) (ak : AK) (key : FltKey) (known : Option FltKey) : SeqAt :=
  match known with
  | some x => .fault s x (decide (x.num = 0))
  | none =>
    match s.openRec d (rootAsid root) key ak who.crew 0 with
    | some (x, t) => .fault t x false
    | none => .fault s key true

/-- Translate up to a line under a root, by a walk where the page is not of the heap window (R185). The sequencer is no core: its touches have
core 0 of the slot's die as their home (R25). -/
def State.seqPlace (s : State) (d : Nat) (root : Word) (cls : ACls) (who : Origin) (ak : AK) (bound : Option (List Nat))
    (known : FltKey → Option FltKey) (va n : Nat) : SeqAt :=
  let fault (t : State) (c : Nat) : SeqAt := t.seqFault d root who ak (fltKey va c) (known (fltKey va c))
  match cls with
  | .loc => .stop none
  | .phys pa => if s.heldAt pa n then fault s 5 else .at s pa
  | .paged =>
    let x := s.pruneWalks d (walkKey root va)
    if !x.walkRuns d (walkKey root va) then .stop (some ⟨rootAsid root, va / 4096, .seq, []⟩)
    else
      let s0 := (x.closeWalk d (walkKey root va)).walkMeet d (rootAsid root) va
      let (e, rs, ps) := s0.walk d root va ak
      let s1 := s0.meetUpsets (rs.flatMap (fun a => memLocs a 8)) none
      match e with
      | .fault c _ => fault s1 c
      | .leaf e ea bits =>
        let y := wantBits e ak
        let s2 := s1.cachePtrs d (rootAsid root) va ps
        let s3 := if y = e then s2 else s2.write64 ea y
        let pa := leafPa e bits va
        if s3.copyHolds bound [(pa, n)] then .stop none
        else
          match s3.touch pa n none with
          | some t => .at t pa
          | none => fault s3 6

/-- Source, destination and length of the next piece of a copy; none where it is at its end. -/
def copyPlan (b : List Word) (c : SeqCopy) : Option (Nat × Nat × Nat) :=
  let piece (src dst total pos : Nat) : Nat × Nat × Nat :=
    (src + pos, dst + pos, min (total - pos) (min (128 - (src + pos) % 128) (128 - (dst + pos) % 128)))
  if c.skip then
    if c.pos < blkOutLen b then some (piece (blkYref b) (blkOut b) (blkOutLen b) c.pos) else none
  else if c.pos < blkInLen b then some (piece (blkIn b) (blkXref b) (blkInLen b) c.pos)
  else if c.pos - blkInLen b < blkOutLen b then some (piece (blkOut b) (blkYref b) (blkOutLen b) (c.pos - blkInLen b))
  else none

/-- Change the head copy. -/
def State.modCopy (s : State) (d : Nat) (f : SeqCopy → SeqCopy) : State :=
  s.modSeq d (fun q => { q with copies := match q.copies with
    | c :: l => f c :: l
    | [] => [] })

/-- Log a piece in the channel's side log of 256 entries. -/
def State.seqLog (s : State) (d : Nat) (x : Xlat) (cls : ACls) (who : Origin) (c : SeqCopy) (va : Nat) (bs : List Byte)
    (key : Option FltKey) (unrec : Bool) : Option State :=
  if 256 ≤ (s.die d).seq.slog.length then none
  else
    let (id, t) := s.fresh
    some (t.modSeq d (fun q => { q with slog := q.slog ++ [(
      { id := id, src := c.id, who := who, kind := .copy, va := BitVec.ofNat 64 va, cls := cls, len := bs.length
        data := ofBytes 1024 bs, root := x.root, flt := key, unrec := unrec } : LogEnt)] }))

/-- Write runs of a piece of n bytes at an address: at home, or into the log, where only the whole of what is left is logged; it stops while
it can be neither. -/
def State.seqWrite (s : State) (d : Nat) (w : Crew) (c : SeqCopy) (x : Xlat) (cls : ACls) (va n : Nat) (bs : List Byte)
    (runs rest : List (Nat × Nat)) : Except (Option WalkReq) (State × Bool) :=
  let q := (s.die d).seq
  let known (key : FltKey) : Option FltKey := firstSome (fun e => if e.src = c.id then e.flt.filter (·.same key) else none) q.slog
  let part (r : Nat × Nat) : List Byte := (bs.drop r.1).take r.2
  let log (t : State) (key : Option FltKey) (unrec : Bool) : Except (Option WalkReq) (State × Bool) :=
    match rest.foldlM (fun u r => u.seqLog d x (cls.shift r.1) (seqOrigin w) c (va + r.1) (part r) key unrec) t with
    | some u => .ok (u, true)
    | none => .error none
  if logHits q.slog x.root va n then log s none false
  else
    match s.seqPlace d x.root cls (seqOrigin w) .copyDst (some c.slots) known va n with
    | .at t pa =>
      let u := t.modCopy d (fun y => { y with slots := (y.slots ++ slotsUnder pa n).eraseDups })
      .ok (runs.foldl (fun v r => (v.write (pa + r.1) (part r)).elide (some d) (pa + r.1) r.2) u, false)
    | .fault t key unrec => log t (some key) unrec
    | .stop a => .error a

/-- The head copy's piece goes on by the doublewords that this event moves (R87); it is read whole before any of it is written (R352). A full
side log stops the channel at its next piece (R124). -/
def State.seqPiece (s : State) (d : Nat) (w : Crew) (c : SeqCopy) (src dst n : Nat) : State :=
  let x := s.seqXlat w
  let who := seqOrigin w
  let lane := dst % 128
  let all := dwMask lane n
  if logHits (s.die d).seq.slog x.root src n || decide (256 ≤ (s.die d).seq.slog.length) then s
  else
    match x.seqCls src .copySrc, x.seqCls dst .copyDst with
    | some cs, some cd =>
      (match s.moved.seqPlace d x.root cs who .copySrc (some c.slots) anyKey src n with
       | .stop a => s.askReq d a
       | .fault t key unrec => if unrec then s else t.modCopy d (fun y => { y with flt := some key, root := x.root })
       | .at t pa =>
         let rd := pieceRuns (s.move.rd &&& ~~~c.got) lane n
         let ls := rd.flatMap (fun r => memLocs (pa + r.1) r.2)
         let t1 := t.meetUpsets ls (some who)
         if t.ueAt ls then t1.stopSeq d 5
         else
           let buf := rd.foldl (fun v r => rowPatch v r.1 (t1.read (pa + r.1) r.2)) c.buf
           let t1 := rd.foldl (fun (v : State) r => v.elide (some d) (pa + r.1) r.2) t1
           let got := c.got ||| (s.move.rd &&& all)
           let rest := all &&& ~~~c.put
           let wr := if got &&& all = all then s.move.wr &&& rest else 0
           let u := t1.modCopy d (fun y => { y with slots := (y.slots ++ slotsUnder pa n).eraseDups, got := got, buf := buf })
           if wr = 0 then u
           else
             match u.seqWrite d w c x cd dst n (toBytes 128 buf) (pieceRuns wr lane n) (pieceRuns rest lane n) with
             | .error a => u.askReq d a
             | .ok (v, logged) =>
               if logged || decide (c.put ||| wr = all) then
                 v.modCopy d (fun y => { y with pos := y.pos + n, got := 0, put := 0, buf := 0 })
               else v.modCopy d (fun y => { y with put := c.put ||| wr }))
    | _, _ => s.stopSeq d 4

/-- The head copy is performed and published: a skip completes the block's REUSE nodes, an update renews the tag. -/
def State.seqCopyEnd (s : State) (d : Nat) (c : SeqCopy) : State :=
  let s1 := s.modSeq d (fun q => { q with copies := q.copies.drop 1 })
  let s2 := if c.skip then
      s1.modSeq d (fun q => { q with nodes := q.nodes.map (fun x =>
        if x.reuse && decide (x.block = c.blk) then { x with complete := true } else x) })
    else
      (s1.modSeq d (fun q => q.setTag c.blk ⟨true, q.step⟩)).clearUpsets [tagLoc d c.blk]
  s2.checkClose d

/-- The head copy of the channel goes on, if it is of the kind asked for. -/
def State.seqCopyStep (s : State) (d : Nat) (skip : Bool) : State :=
  let q := (s.die d).seq
  match q.copies, s.seqCrew d with
  | c :: _, some w =>
    if c.skip ≠ skip ∨ c.flt.isSome ∨ (q.st ≠ .run ∧ q.st ≠ .paused) then s
    else
      match copyPlan (q.blk c.blk) c with
      | some (src, dst, n) => s.seqPiece d w c src dst n
      | none => if q.slog.any (fun e => decide (e.src = c.id)) then s else s.seqCopyEnd d c
  | _, _ => s

/-- SKIP_COPY (R189): one piece, or the end of the copy. -/
def execSkipCopy (d : Bool) (s : State) : Host.Outcome State Fault Refusal := .next (s.seqCopyStep (b2n d) true)

/-- REUSE_UPDATE (R190): one piece, or the end of the update. -/
def execReuseUpdate (d : Bool) (s : State) : Host.Outcome State Fault Refusal := .next (s.seqCopyStep (b2n d) false)

/-! ### Pre-emption (R175, R178, R181) -/

/-- Order of tiles. -/
def tileLt (a b : Nat × Word) : Bool := decide (a.1 < b.1) || (decide (a.1 = b.1) && decide (wordTile a.2 < wordTile b.2))

def tileInsert (e : Nat × Word) : List (Nat × Word) → List (Nat × Word)
  | [] => [e]
  | x :: l => if tileLt e x then e :: x :: l else x :: tileInsert e l

/-- Turn the cycle at which each tile's count began into the cycles counted, or back. -/
def State.turnStarts (s : State) (d : Nat) (still : Bool) : State :=
  let q := (s.die d).seq
  if q.still = still then s
  else s.modSeq d (fun x => { x with still := still, out := x.out.map (fun o => { o with start := o.start.map (fun c => (s.core o.k).cycles - c) }) })

/-- The crew of a sequencer is released: the counts of its tiles go on (R195). -/
def State.countTiles (s : State) (w : Crew) : State :=
  match s.seqDie w.id with
  | some d => s.turnStarts d false
  | none => s

/-- The sequencer of a crew pauses: tiles still queued return to it, and the cycle counts of the others stand still until the crew is
released again (R195). -/
def State.pauseSeq (s : State) (w : Crew) : State :=
  match s.seqDie w.id with
  | none => s
  | some d =>
    let q := (s.die d).seq
    if q.st ≠ .load ∧ q.st ≠ .run ∧ q.st ≠ .close then s
    else
      let back := (w.members.flatMap (fun k => (s.core k).eng.tileq)).map (fun x => (wordNode x, x))
      let s1 := w.members.foldl (fun t k => t.modEng k (fun e => { e with tileq := [] })) s
      (s1.turnStarts d true).modSeq d (fun x => { x with
        mem := x.st, st := .paused
        returned := (back ++ x.returned).foldl (fun l e => tileInsert e l) []
        out := x.out.filter (fun o => !back.any (fun e => decide (e.1 = o.node) && decide (wordTile e.2 = o.tile))) })

/-- The sequencer of a crew goes on after a pause that ends at the release time: the interval is added to the deadlines of its
members, whatever its state (R178). Registers that LOAD writes again carry it too; a step entered here loses what is left of the
pause. -/
def State.resumeSeq (s : State) (w : Crew) (rt : BitVec 64) : State :=
  match s.seqDie w.id with
  | none => s
  | some d =>
    let q := (s.die d).seq
    let ns := rt - w.pausedAt
    let s1 := w.members.foldl (fun t k => t.modCore k (fun c =>
      let dl := Tab.get c.steps 13
      { c with steps := Tab.set c.steps 13 (if dl = 0 then 0 else dl + ns) })) s
    if q.st ≠ .paused then s1
    else
      let s2 := s1.modSeq d (fun x => { x with st := x.mem, mem := .idle, slip := x.slip + ns })
      if q.mem = .load then s2.seqLoad d
      else if q.mem = .close then
        ((if q.closed then s2 else s2.modSeq d Seq.costs).afterStep d).modSeq d (fun x => { x with slip := rt - s.time })
      else s2.checkClose d

end Sys2Proof.Machine
end

