-- ==== Sys2Proof/Machine/Fault.lean ====
section
/-!
DEFINITION. Page walks of far accesses (R116), the fault unit (R126 to R131), side-log replay (R123), invalidation (R133,
R134), and the placement unit's own events (R24 to R27, R136).
-/

namespace Sys2Proof.Machine

/-- PAGE_WALK_COMPLETE: a walk for a far access ends, and with it the accesses that joined it (R115); one that still waits in the
walk queue goes on waiting. -/
def execPageWalkComplete (k id : Nat) (s : State) : Host.Outcome State Fault Refusal := onFar k id (fun a t => t.farWalkEnd a) s

/-! ### Batches (R127 to R130) -/

/-- A range record before it is written. -/
structure RangeRec where
  asid : Nat
  cause : Nat
  vpn : Nat
  pages : Nat
  count : Nat
  kinds : BitVec 8
  crew : Nat
  lcore : Nat
  deriving DecidableEq, Repr

/-- Insert into a list sorted by a strict order. -/
def insertBy {α : Type} (lt : α → α → Bool) (e : α) : List α → List α
  | [] => [e]
  | x :: l => if lt e x then e :: x :: l else x :: insertBy lt e l

/-- Sort by a strict order, keeping equals in their order. -/
def sortBy {α : Type} (lt : α → α → Bool) (l : List α) : List α := l.foldl (fun a e => insertBy lt e a) []

/-- Lexicographic order of three numbers. -/
def lt3 (a b : Nat × Nat × Nat) : Bool :=
  decide (a.1 < b.1) || (decide (a.1 = b.1) && (decide (a.2.1 < b.2.1) || (decide (a.2.1 = b.2.1) && decide (a.2.2 < b.2.2))))

/-- Records in the order in which they group and merge: ASID, cause, page. -/
def recLt (a b : Nat × PageRec) : Bool :=
  lt3 (a.2.asid.toNat, a.2.cause.toNat, a.2.vpn.toNat) (b.2.asid.toNat, b.2.cause.toNat, b.2.vpn.toNat)

/-- A range of one record, with the opening order of its first faulting access. -/
def oneRange (p : Nat × PageRec) : Nat × RangeRec :=
  (p.1, ⟨p.2.asid.toNat, p.2.cause.toNat, p.2.vpn.toNat, 1, p.2.count, p.2.kinds, p.2.crew.toNat, p.2.lcore⟩)

/-- Add a record to the range that ends just before it. -/
def joinRange (r : Nat × RangeRec) (p : Nat × PageRec) : Nat × RangeRec :=
  let x := r.2
  let y := { x with pages := x.pages + 1, count := x.count + p.2.count, kinds := x.kinds ||| p.2.kinds }
  if p.1 < r.1 then (p.1, { y with crew := p.2.crew.toNat, lcore := p.2.lcore }) else (r.1, y)

/-- A record continues a range. -/
def continues (x : RangeRec) (p : PageRec) : Bool :=
  decide (p.asid.toNat = x.asid) && decide (p.cause.toNat = x.cause) && decide (p.vpn.toNat = x.vpn + x.pages)

/-- Merge runs of consecutive pages of sorted records. -/
def mergeRuns : List (Nat × PageRec) → List (Nat × RangeRec) → List (Nat × RangeRec)
  | [], acc => acc
  | p :: l, acc =>
    match acc.getLast? with
    | some r => if continues r.2 p.2 then mergeRuns l (acc.dropLast ++ [joinRange r p]) else mergeRuns l (acc ++ [oneRange p])
    | none => mergeRuns l [oneRange p]

/-- The range records of a batch, sorted by ASID, first page, cause (R127). -/
def rangesOf (l : List PageRec) : List RangeRec :=
  let ps := sortBy recLt ((List.range l.length).zip l)
  sortBy (fun a b => lt3 (a.asid, a.vpn, a.cause) (b.asid, b.vpn, b.cause)) ((mergeRuns ps []).map (·.2))

/-- The four doublewords of a range record (R128). -/
def RangeRec.words (r : RangeRec) (seq : BitVec 32) : List Word :=
  [BitVec.ofNat 64 (r.vpn * 2 ^ 12), BitVec.ofNat 64 (r.asid * 2 ^ 48 + r.cause * 2 ^ 44 + r.pages),
   BitVec.ofNat 64 (min r.count 0xFFFFFFFF * 2 ^ 32 + r.crew * 2 ^ 16 + r.lcore * 2 ^ 8 + r.kinds.toNat),
   BitVec.ofNat 64 (seq.toNat * 2 ^ 32)]

/-- FLT_CTL's fields (R129). -/
def Flt.en (f : Flt) : Bool := wb f.ctl 0
def Flt.thresh (f : Flt) : Nat := bf f.ctl 25 16
def Flt.timerNs (f : Flt) : Nat := bf f.ctl 47 32 * 1000

/-- Ring base and its number of records (R129). -/
def Flt.base (f : Flt) : Nat := bf f.ring 51 11 * 2048
def Flt.size (f : Flt) : Nat := 2 ^ (min 10 (bf f.ring 3 0) + 6)

/-- Open records; the records of the closed batch that waits. -/
def Flt.opened (f : Flt) : List PageRec := f.recs.filter (fun r => !r.closed)
def Flt.batch (f : Flt) : List PageRec := f.recs.filter (fun r => r.closed && r.seq.isNone)

/-- The ring lies wholly in HBM4E. -/
def Flt.ringOk (f : Flt) : Bool := inHbm f.base (f.size * 32)

/-- The ring has room for n records, modulo 2^32 (R130). -/
def Flt.room (f : Flt) (n : Nat) : Bool := decide ((f.prod - f.cons + BitVec.ofNat 32 n).toNat ≤ f.size)

/-- FLT_STAT's BADRING and WAIT: a closed batch waits for a ring in HBM4E, or for ring space. -/
def Flt.badRing (f : Flt) : Bool := decide (f.batch ≠ []) && !f.ringOk
def Flt.waits (f : Flt) : Bool := decide (f.batch ≠ []) && f.ringOk && !f.room (rangesOf f.batch).length

/-- The threshold or the timer is reached. -/
def Flt.due (f : Flt) (now : BitVec 64) : Bool :=
  match f.opened with
  | r :: _ => decide (f.thresh ≤ f.opened.length) || decide (f.timerNs ≤ (now - r.opened).toNat)
  | [] => false

/-- FAULT_BATCH_CLOSE: the open records become a batch; the one before it must have been delivered. -/
def execFaultBatchClose (d : Bool) (s : State) : Host.Outcome State Fault Refusal :=
  let f := (s.die (b2n d)).flt
  if f.en && f.due s.time && decide (f.batch = []) then
    .next (s.modFlt (b2n d) (fun x => { x with recs := x.recs.map (fun r => { r with closed := true }) }))
  else .next s

/-- The ring slot address of the i-th record of a delivery. -/
def Flt.slotAddr (f : Flt) (i : Nat) : Nat := f.base + (f.prod.toNat + i) % 2 ^ 32 % f.size * 32

/-- A page record lies in a range. -/
def RangeRec.holds (x : RangeRec) (r : PageRec) : Bool :=
  decide (r.asid.toNat = x.asid) && decide (r.cause.toNat = x.cause) && decide (x.vpn ≤ r.vpn.toNat) &&
    decide (r.vpn.toNat < x.vpn + x.pages)

/-- FAULT_BATCH_DELIVER: the range records are written, PROD advances, and the MSI is sent. -/
def execFaultBatchDeliver (d : Bool) (s : State) : Host.Outcome State Fault Refusal :=
  let i := b2n d
  let f := (s.die i).flt
  let rs := rangesOf f.batch
  if f.batch = [] ∨ !f.ringOk ∨ !f.room rs.length then .next s
  else
    let n := f.seq + 1
    let s1 := (List.range rs.length).foldl (fun t j =>
      match rs[j]? with
      | some r => t.write (f.slotAddr j) ((r.words n).flatMap (toBytes 8))
      | none => t) s
    let at' (r : PageRec) : Nat := ((List.range rs.length).find? (fun j => match rs[j]? with
      | some x => x.holds r
      | none => false)).getD 0
    let s2 := s1.modFlt i (fun x => { x with
      seq := n, prod := x.prod + BitVec.ofNat 32 rs.length
      recs := x.recs.map (fun r => if r.closed && r.seq.isNone then { r with seq := some n, slot := f.slotAddr (at' r) } else r) })
    .next (s2.msi (msiAddr f.msia) (msiId f.msid))

/-! ### The driver's answer (R131) -/

/-- A far access waits on a record. -/
def FarAcc.waitsOn (a : FarAcc) (asid : BitVec 16) (key : FltKey) : Bool :=
  decide (rootAsid a.root = asid) && a.parts.any (fun p => decide (p.flt = some key))

/-- The answer for one far access: it walks again; or a read is discarded and fails, and the part of a write is discarded and
posted. -/
def State.answerFar (s : State) (k : Nat) (a : FarAcc) (key : FltKey) (abort : Bool) : State :=
  if !abort then
    s.modFar k a.id (fun x => { x with parts := x.parts.map (fun p => if p.flt = some key then { p with flt := none, unrec := false } else p) })
  else if farReads a.kind then (s.dropFar k a.id).deliver a.who a.id 0#1024 (some (abortErr a))
  else
    (s.modFar k a.id (fun x => { x with parts := x.parts.filter (fun p => decide (p.flt ≠ some key)) })).postFor a.who
      ⟨.faultAbort, a.va, 0, none⟩

/-- A saved member whose copy queue holds the command of a discarded entry: the command fails and its queue halts (R131). -/
def Saved.stopCopy (q : Nat) (e : LogEnt) (v : Saved) : Saved :=
  let x := v.core.eng
  if !(x.ce q).any (fun c => decide (c.id = e.src)) then v
  else { v with core := { v.core with eng := { (x.setCe q ((x.ce q).map (fun c => if c.id = e.src then { c with failed := true } else c))) with
    halted := x.halted ||| BitVec.ofNat 6 (2 ^ q) } } }

/-- A command that has left its queue and whose write is discarded halts the queue with a place of its own. -/
def stoppedCmd (e : LogEnt) : Cmd :=
  { id := e.src, who := e.who, kind := .fence 0, xl := Xlat.zero, pubs := [], after := [], acts := 0, piece := 0, pos := 0
    flt := none, slots := [], locks := [], uses := [], lockAfter := [], begun := true, done := true, failed := true }

/-- The copy of a discarded entry stands in the saved member's queue, with a place of its own where it has left it. -/
def Saved.placeCopy (q n : Nat) (e : LogEnt) (v : Saved) : Saved :=
  let x := v.core.eng
  if v.lcore ≠ n ∨ (x.ce q).any (fun c => decide (c.id = e.src)) then v
  else { v with core := { v.core with eng := x.setCe q (stoppedCmd e :: x.ce q) } }

/-- The crew of a discarded entry is in its save blocks: the queue that halts is the one saved with the core that the entry names. -/
def State.copySaved (s : State) (e : LogEnt) : Bool :=
  match s.crew? e.who.crew with
  | some w => w.saved.any (fun v => decide (v.lcore = e.who.lcore))
  | none => false

/-- The saved copy of a discarded entry has failed already. -/
def State.savedFailed (s : State) (q : Nat) (e : LogEnt) : Bool :=
  match s.crew? e.who.crew with
  | some w => w.saved.any (fun v => decide (v.lcore = e.who.lcore) && (v.core.eng.ce q).any (fun c => decide (c.id = e.src) && c.failed))
  | none => false

/-- The copy of a discarded entry stops: its queue halts, on its core or in a save block. A command that has left its queue halts
it with a place of its own. -/
def State.stopCopyOf (s : State) (k q : Nat) (e : LogEnt) : State :=
  let l := (s.core k).eng.ce q
  let halt (t : State) : State := (t.modEng k (fun x => { x with halted := x.halted ||| BitVec.ofNat 6 (2 ^ q) })).postFor e.who
    ⟨.faultAbort, e.va, 0, none⟩
  if s.copySaved e then
    if s.savedFailed q e then s
    else (s.modCrew e.who.crew (fun w => { w with saved := w.saved.map (fun v => (v.placeCopy q e.who.lcore e).stopCopy q e) })).postFor e.who
      ⟨.faultAbort, e.va, 0, none⟩
  else if l.any (fun c => decide (c.id = e.src) && c.failed) then s
  else if l.any (fun c => decide (c.id = e.src)) then
    halt (s.modEng k (fun x => x.setCe q (l.map (fun c => if c.id = e.src then { c with failed := true } else c))))
  else halt (s.modEng k (fun x => x.setCe q (stoppedCmd e :: l)))

/-- The answer for one side-log entry of unit u: it may replay, or it is discarded. -/
def State.answerLog (s : State) (k u : Nat) (e : LogEnt) (abort : Bool) : State :=
  let l := (s.core k).eng.log u
  if !abort then s.modEng k (fun x => x.setLog u (l.map (fun y => if y.id = e.id then { y with flt := none } else y)))
  else
    let s1 := s.modEng k (fun x => x.setLog u (l.filter (fun y => decide (y.id ≠ e.id))))
    if u = 0 then s1.postFor e.who ⟨.faultAbort, e.va, 0, none⟩ else s1.stopCopyOf k (u - 1) e

/-- The answer for the head of a copy queue whose reads stand at a fault. The record of a refusal names the start of the piece's part
that faulted (DESIGN CHOICE, log entry 54). -/
def State.answerCmd (s : State) (k q : Nat) (asid : BitVec 16) (key : FltKey) (abort : Bool) : State :=
  match (s.core k).eng.ce q with
  | c :: _ =>
    if c.flt = some key ∧ rootAsid c.xl.root = asid then
      let t := s.modCmd k q (fun x => { x with flt := none })
      if abort then t.failCmd k q c .faultAbort c.fltAt else t
    else s
  | [] => s

/-- The answer for the head of mx. -/
def State.answerMx (s : State) (k : Nat) (asid : BitVec 16) (key : FltKey) (abort : Bool) : State :=
  match (s.core k).eng.mx with
  | e :: _ =>
    if e.flt = some key ∧ rootAsid e.xl.root = asid then
      let t := s.modMx k (fun x => { x with flt := none })
      if abort then t.failMx k e .faultAbort e.fltAt 0 else t
    else s
  | [] => s

/-- The answer for everything of one core that waits on a record. -/
def State.answerCore (s : State) (k : Nat) (asid : BitVec 16) (key : FltKey) (abort : Bool) : State :=
  let s1 := ((s.core k).far.filter (fun a => a.waitsOn asid key)).foldl (fun t a => t.answerFar k a key abort) s
  let s2 := (List.range 5).foldl (fun t u =>
    ((t.core k).eng.log u |>.filter (fun e => decide (e.flt = some key) && !e.unrec && decide (rootAsid e.root = asid))).foldl
      (fun x e => x.answerLog k u e abort) t) s1
  ((List.range 4).foldl (fun t q => t.answerCmd k q asid key abort) s2).answerMx k asid key abort

/-- The answer for the sequencer of a die, by the roots of what waits; a refusal stops the schedule that it belongs to (R186). -/
def State.answerSeq (s : State) (d : Nat) (asid : BitVec 16) (key : FltKey) (abort : Bool) : State :=
  let q := (s.die d).seq
  let cop (c : SeqCopy) : Bool := decide (c.flt = some key) && decide (rootAsid c.root = asid)
  let ent (e : LogEnt) : Bool := decide (e.flt = some key) && !e.unrec && decide (rootAsid e.root = asid)
  if !abort then s.modSeq d (fun x => { x with
    copies := x.copies.map (fun c => if cop c then { c with flt := none } else c)
    slog := x.slog.map (fun e => if ent e then { e with flt := none } else e) })
  else
    let t := s.modSeq d (fun x => { x with slog := x.slog.filter (fun e => !ent e) })
    if q.copies.any (fun c => cop c || q.slog.any (fun e => ent e && decide (e.src = c.id))) then t.stopSeq d 4 else t

/-- The cores of a die. -/
def dieCores (d : Nat) : List Nat := (List.range 128).map (fun i => d * 128 + i)

/-- One record is answered: its accesses proceed by its range's ABORT bit. -/
def State.answerRec (s : State) (d : Nat) (r : PageRec) : State :=
  let abort := wb (s.read64 (r.slot + 24)) 0
  let key : FltKey := ⟨r.vpn, r.cause, r.num⟩
  ((dieCores d).foldl (fun t k => t.answerCore k r.asid key abort) s).answerSeq d r.asid key abort

/-- A record's batch is acknowledged up to a number. -/
def PageRec.acked (r : PageRec) (seq : BitVec 32) : Bool :=
  match r.seq with
  | some n => decide (n.toNat ≤ seq.toNat)
  | none => false

/-- FLT_ACK: delivered batches up to SEQ leave the buffer and are answered; a SEQ above the last delivered is ignored. An uncorrectable
ABORT word is logged, and the acknowledgement is not taken (R80, R81; log entry 69). -/
def execFltAck (d : Bool) (seq : BitVec 32) (s : State) : Host.Outcome State Fault Refusal :=
  let i := b2n d
  let f := (s.die i).flt
  if f.seq.toNat < seq.toNat then .next s
  else
    let rs := f.recs.filter (fun r => r.acked seq)
    let ls := rs.flatMap (fun r => memLocs (r.slot + 24) 8)
    if s.ueAt ls then .next (s.meetUpsets ls none)
    else
      let s1 := (s.meetUpsets ls none).modFlt i (fun x => { x with recs := x.recs.filter (fun r => !r.acked seq) })
      .next (rs.foldl (fun t r => t.answerRec i r) s1)

/-! ### Replay (R123) -/

/-- The access kind of a log entry of a unit. -/
def logAk (u : Nat) (k : LogKind) : AK :=
  match k with
  | .copy => .copyDst
  | .store => if u = 0 then .store else .sigWrite
  | .red _ _ => if u = 0 then .atomic else .sigAdd

/-- The doublewords of an entry, by its offset in the first one: at most 16, as a far access's part starts with one and a piece of a copy
lies in one block of 128 bytes. -/
def LogEnt.dws (e : LogEnt) : BitVec 16 := dwMask (e.va.toNat % 8) e.len

/-- The doublewords that this event writes of an entry: all that is left of one up to 8 bytes, which is one point, else those that the
event moves (R87). -/
def State.replayMove (s : State) (e : LogEnt) : BitVec 16 := e.dws &&& ~~~e.put &&& (if e.len ≤ 8 then 0xFFFF#16 else s.move.wr)

/-- Runs of bytes of an extent at the places under it: offset, place, length. -/
def runsAt (ps : List (Nat × Nat)) (rs : List (Nat × Nat)) : List (Nat × Nat × Nat) :=
  (ps.foldl (fun (x : Nat × List (Nat × Nat × Nat)) y =>
    (x.1 + y.2, x.2 ++ rs.filterMap (fun r =>
      let lo := max x.1 r.1
      let hi := min (x.1 + y.2) (r.1 + r.2)
      if lo < hi then some (lo, y.1 + (lo - x.1), hi - lo) else none))) (0, [])).2

/-- Doublewords of an entry are written at its places; a write of the L unit reaches its snapshot lines. -/
def State.replayWrite (s : State) (k u : Nat) (e : LogEnt) (m : BitVec 16) (ps : List (Nat × Nat)) : State :=
  (runsAt ps (pieceRuns m (e.va.toNat % 8) e.len)).foldl (fun t r =>
    let bs := ((toBytes e.len e.data).drop r.1).take r.2.2
    let v := (t.write r.2.1 bs).elide (some (dieOf k)) r.2.1 r.2.2
    if u = 0 then v.snapUpdate k r.2.1 bs else v) s

/-- An entry goes on at its places: a reduction as an atomic, a write by the doublewords that the event moves. The entry as it stands
then, none once it has been performed; no outcome where the ordered-sum buffer is full. -/
def State.replayAt (s : State) (k u : Nat) (e : LogEnt) (ps : List (Nat × Nat)) : Option (State × Option LogEnt) :=
  match e.kind, ps with
  | .red op dw, [(pa, _)] =>
    (s.reduce e.who e.src op dw e.va pa (e.data.extractLsb' 0 64) (e.data.extractLsb' 64 64)).map (fun t => (t, none))
  | .red _ _, _ => none
  | _, _ =>
    let m := s.replayMove e
    let t := (if e.len ≤ 8 then s else s.moved).replayWrite k u e m ps
    some (t, if e.put ||| m = e.dws then none else some { e with put := e.put ||| m })

/-- A fault that found the record buffer full has its record: the pieces of one command on one page wait for it together (R126, R128). -/
def recorded (e : LogEnt) (key : FltKey) (l : List LogEnt) : List LogEnt :=
  l.map (fun y => if y.unrec && decide (y.src = e.src) && y.flt.any (·.same key) then { y with flt := some key, unrec := false } else y)

/-- A fault of an entry that found the record buffer full tries for its record again: the first of a log that does (R126). None where there
is none, or the buffer is still full. -/
def State.recordLog (s : State) (d u : Nat) (l : List LogEnt) : Option (State × List LogEnt) :=
  match l.find? (fun e => e.unrec && e.flt.isSome) with
  | some e =>
    (e.flt.bind (fun key => s.openRec d (rootAsid e.root) key (logAk u e.kind) e.who.crew e.who.lcore)).map (fun x => (x.2, recorded e x.1 l))
  | none => none

/-- Replay of the oldest entry of a core's log; first a fault that still waits for a record takes one that has come free. -/
def State.replay (s : State) (k u : Nat) : State :=
  match s.recordLog (dieOf k) u ((s.core k).eng.log u), (s.core k).eng.log u with
  | some (t, l), _ => t.modEng k (fun x => x.setLog u l)
  | none, [] => s
  | none, e :: l =>
    if e.flt.isSome then s
    else
      match s.engPlace k u e.root (logAk u e.kind) e.who none anyKey { off := 0, va := e.va, len := e.len, cls := e.cls, flt := none } with
      | .stop q => s.askReq (dieOf k) q
      | .fault t key unrec => t.modEng k (fun x => x.setLog u ({ e with flt := some key, unrec := unrec } :: l))
      | .at t ps =>
        (match t.replayAt k u e ps with
         | some (v, rest) => v.modEng k (fun x => x.setLog u (rest.toList ++ l))
         | none => s)

/-- Replay of the oldest entry of a sequencer's log, under the root and the class that the entry holds, whatever the sequencer serves
now (R123, R186); first a fault that still waits for a record takes one that has come free. -/
def State.replaySeq (s : State) (d : Nat) : State :=
  match s.recordLog d 1 (s.die d).seq.slog, (s.die d).seq.slog with
  | some (t, l), _ => t.modSeq d (fun q => { q with slog := l })
  | none, [] => s
  | none, e :: l =>
    if e.flt.isSome then s
    else
      match s.seqPlace d e.root e.cls e.who .copyDst none anyKey e.va.toNat e.len with
      | .at t pa =>
        (match t.replayAt (d * 128) 1 e [(pa, e.len)] with
         | some (v, rest) => v.modSeq d (fun q => { q with slog := rest.toList ++ l })
         | none => s)
      | .fault t key unrec => t.modSeq d (fun q => { q with slog := { e with flt := some key, unrec := unrec } :: l })
      | .stop q => s.askReq d q

/-- SIDE_LOG_REPLAY: unit 0 is the L unit, 1 to 4 are the copy queues of core k, 5 the copy channel of its die's sequencer. -/
def execSideLogReplay (k u : Nat) (s : State) : Host.Outcome State Fault Refusal :=
  if u = 5 then .next (s.replaySeq (dieOf k)) else if u < 5 then .next (s.replay k u) else .next s

/-! ### Invalidation (R133, R134) -/

/-- A write of TLB_INVC: the command joins the 16 pending ones, or is ignored and sets DROP. -/
def State.startInv (s : State) (msi : Bool) (op : BitVec 3) (asid : BitVec 16) (pages : Nat) : State :=
  if 16 ≤ s.head.invs.length ∨ 4 < op.toNat ∨ (op = 4 ∧ pages = 0) then s.modHead (fun h => { h with invDrop := true })
  else s.modHead (fun h => { h with invs := h.invs ++ [⟨msi, op, asid, BitVec.ofNat 45 (bf h.inva 56 12), pages⟩] })

def execTlbInvAll (msi : Bool) (s : State) : Host.Outcome State Fault Refusal := .next (s.startInv msi 0 0 0)
def execTlbInvAsid (msi : Bool) (asid : BitVec 16) (s : State) : Host.Outcome State Fault Refusal := .next (s.startInv msi 1 asid 0)
def execTlbInvVpn (msi : Bool) (s : State) : Host.Outcome State Fault Refusal := .next (s.startInv msi 2 0 0)
def execTlbInvAsidVpn (msi : Bool) (asid : BitVec 16) (s : State) : Host.Outcome State Fault Refusal :=
  .next (s.startInv msi 3 asid 0)
def execTlbInvRange (msi : Bool) (asid : BitVec 16) (pages : BitVec 28) (s : State) : Host.Outcome State Fault Refusal :=
  .next (s.startInv msi 4 asid pages.toNat)

/-- A command names a TLB entry (R133). -/
def Inv.names (i : Inv) (e : TlbEnt) : Bool :=
  let glob := wb e.pte 5
  let own := !glob && decide (e.asid = i.asid)
  let covers (n : Nat) : Bool := overlap (e.va / 2 ^ e.bits * 2 ^ e.bits) (2 ^ e.bits) (i.vpn.toNat * 4096) (n * 4096)
  match i.op.toNat with
  | 0 => true
  | 1 => own
  | 2 => covers 1
  | 3 => own && covers 1
  | _ => own && covers i.pages

/-- The TLBs without the entries that a command names. -/
def Tlbs.drop (t : Tlbs) (i : Inv) : Tlbs :=
  let f (l : List TlbEnt) : List TlbEnt := l.filter (fun e => !i.names e)
  ⟨f t.l, f t.c0, f t.c1, f t.c2, f t.c3, f t.sc, f t.core⟩

/-- TLB_INV_COMPLETE: the oldest command ends. Every access of this machine translates where it is performed, so that none
holds an older translation; the walk caches of both dies are emptied. -/
def execTlbInvComplete (s : State) : Host.Outcome State Fault Refusal :=
  match s.head.invs with
  | [] => .next s
  | i :: l =>
    let s1 : State := { s with
      cores := s.cores.map (fun c => { c with tlbs := c.tlbs.drop i })
      clusters := s.clusters.map (fun c => { c with tlb := c.tlb.filter (fun e => !i.names e) })
      dies := s.dies.map (fun d => { d with walkc := [] }) }
    let s2 := s1.modHead (fun h => { h with invs := l, invDone := h.invDone + 1 })
    let f := (s.die 0).flt
    .next (if i.msi ∧ msiId f.msid ≠ 0 ∧ msiId f.msid ≠ 2047 then s2.msi (msiAddr f.msia) (msiId f.msid + 1) else s2)

/-! ### The placement unit (R24 to R27, R136) -/

/-- Number of a slot of a die. -/
def dieSlot (d : Bool) (n : BitVec 14) : Nat := b2n d * 16384 + n.toNat

/-- SLOT_PLACEMENT: a first touch with a home core, by index in the die, binds the slot to a zeroed frame. -/
def execSlotPlacement (d : Bool) (slot : BitVec 14) (home : BitVec 7) (s : State) : Host.Outcome State Fault Refusal :=
  match s.frame? (dieSlot d slot) with
  | some _ => .next s
  | none => .next ((s.placeSlot (dieSlot d slot) (some home.toNat)).getD s)

/-- Copy commands of an engine side that have bound a slot and not completed: in the queues, and by their writes that have not replayed
(R102). -/
def Engines.bound (e : Engines) (n : Nat) : Nat :=
  (((e.ce0 ++ e.ce1 ++ e.ce2 ++ e.ce3).filter (fun x => x.slots.contains n)).map (·.id) ++
    (e.logs.filter (fun x => x.bound.contains n)).map (·.src)).eraseDups.length

/-- Copy commands, on the cores and in save blocks, and copies of the sequencers, that have bound a slot and not completed (R136). -/
def State.inFlight (s : State) (n : Nat) : Nat :=
  (s.cores.map (fun c => c.eng.bound n)).sum + (s.crews.map (fun w => (w.saved.map (fun v => v.core.eng.bound n)).sum)).sum +
    (s.dies.map (fun d => (d.seq.copies.filter (fun c => c.slots.contains n)).length)).sum

/-- SEAM_REL: a release is asked for, unless one is in progress or the number names the other die. That of an unplaced slot sets BUSY
for a cycle and changes nothing else (R27). -/
def execSeamRel (d : Bool) (slot : BitVec 15) (s : State) : Host.Outcome State Fault Refusal :=
  if (s.die (b2n d)).rel.busy || slot.getLsbD 14 != d then .next s
  else .next (s.modDie (b2n d) (fun x => { x with rel := ⟨true, slot, 0, false, (s.frame? slot.toNat).isNone⟩ }))

/-- A slot loses its frame. -/
def State.unplace (s : State) (n : Nat) : State :=
  s.modDie (n / 16384) (fun x => { x with
    frames := x.frames.filter (fun e => decide (e.1 ≠ n % 16384)), homes := x.homes.filter (fun e => decide (e.1 ≠ n % 16384)) })

/-- SLOT_RELEASE_EFFECT: with no copy in flight the slot becomes unplaced; the release of a slot that was unplaced only ends. -/
def execSlotReleaseEffect (d : Bool) (s : State) : Host.Outcome State Fault Refusal :=
  let r := (s.die (b2n d)).rel
  let n := r.slot.toNat
  if !r.busy || (!r.unpl && decide (s.inFlight n ≠ 0)) then .next s
  else .next ((if r.unpl then s else s.unplace n).modDie (b2n d) (fun x => { x with rel := { x.rel with busy := false } }))

/-- A move cannot be made: no free frame in the target bank, or it is the slot's own; in reduced service slots have no bank. -/
def State.moveBad (s : State) (d n bank : Nat) : Bool :=
  s.head.held || (s.freeFrame d bank).isNone || (match s.frame? n with
    | some f => decide (f / 128 = bank)
    | none => true)

/-- SEAM_MIG: a move of a placed slot is asked for. What FAIL reads after a write that names an unplaced slot, and while a move is BUSY, is not
given: each of these writes clears it here (DESIGN CHOICE, log entry 68). -/
def execSeamMig (d : Bool) (bank : BitVec 7) (slot : BitVec 15) (s : State) : Host.Outcome State Fault Refusal :=
  let i := b2n d
  let n := slot.toNat
  if (s.die i).mig.busy || slot.getLsbD 14 != d then .next s
  else if (s.frame? n).isNone then .next (s.modDie i (fun x => { x with mig := ⟨false, slot, bank, false, true⟩ }))
  else if s.moveBad i n bank.toNat then .next (s.modDie i (fun x => { x with mig := ⟨false, slot, bank, true, false⟩ }))
  else .next (s.modDie i (fun x => { x with mig := ⟨true, slot, bank, false, false⟩ }))

/-- Words are copied to another place that keeps their LOC: single errors are corrected and logged, an uncorrectable word is logged and
stays one (log entry 69), and an injection armed for one of the words is performed (R80, R81, R84). -/
def State.copyWords (s : State) (hit : Nat → Nat → Nat → Bool) : State := ((s.meetHit hit).injectIf hit 0).injectIf hit 1

/-- The placement unit copies the words of a slot. -/
def State.copySlot (s : State) (n : Nat) : State :=
  s.copyWords (fun _ a l => decide (a = 5) && decide (slotBase n ≤ l) && decide (l < slotBase (n + 1)))

/-- SLOT_MIGRATION_DONE: with no copy in flight the slot is bound to the lowest free frame of the target bank, with its
contents. -/
def execSlotMigrationDone (d : Bool) (s : State) : Host.Outcome State Fault Refusal :=
  let i := b2n d
  let m := (s.die i).mig
  let n := m.slot.toNat
  if !m.busy || decide (s.inFlight n ≠ 0) then .next s
  else
    let fin (bad : Bool) (t : State) : State := t.modDie i (fun x => { x with mig := { x.mig with busy := false, fail := bad } })
    match s.freeFrame i m.bank.toNat, s.moveBad i n m.bank.toNat with
    | some f, false => .next (fin false ((s.copySlot n).modDie i (fun x => { x with
        frames := x.frames.map (fun e => if e.1 = n % 16384 then (e.1, f) else e) })))
    | _, _ => .next (fin true s)

end Sys2Proof.Machine
end

