-- ==== Sys2Proof/Machine/Crew.lean ====
section
/-!
DEFINITION. Crews: landings (R404), continuation records (R145 to R149, R406), the launch arbiter, placement and release
(R142, R143, R164), pre-emption and resumption (R165 to R167), trap records (R169) and completion (R99, R150, R384, R385).
-/

namespace Sys2Proof.Machine

/-! ### Completions of packets (R384, R385) -/

def State.cpq (s : State) (q : Nat) : Cpq := s.head.queues.getD q Cpq.reset

def State.modCpq (s : State) (q : Nat) (f : Cpq → Cpq) : State :=
  s.modHead (fun h => { h with queues := modAt f q h.queues })

/-- How a packet ended: STATUS, WORD and SUB (R385). -/
structure Ending where
  status : Nat
  word : Nat
  sub : Nat
  deriving DecidableEq, Repr

def Ending.ok : Ending := ⟨0, 0, 0⟩

/-- A status other than OK and KILLED halts the queue. -/
def Ending.halts (e : Ending) : Bool := decide (e.status ≠ 0) && decide (e.status ≠ 5)

/-- Word 0 of a completion record. -/
def Ending.word0 (e : Ending) (tag : BitVec 32) : Word :=
  BitVec.ofNat 64 (tag.toNat * 2 ^ 32 + e.sub * 2 ^ 24 + e.word * 2 ^ 16 + e.status)

/-- A packet ends: its completion record, if one is asked for, waits for its ring, and a failure halts the queue. -/
def State.complete (s : State) (q : Nat) (tag : BitVec 32) (cmpl : Bool) (idx : BitVec 32) (e : Ending) : State :=
  s.modCpq q (fun c => { c with
    pend := if cmpl then c.pend ++ [⟨e.word0 tag, s.time⟩] else c.pend
    halt := c.halt || e.halts
    hidx := if e.halts && !c.halt then idx else c.hidx })

/-- The completion of a crew's LAUNCH, and of the KILL packets that named the crew. -/
def State.completeCrew (s : State) (w : Crew) (status : Nat) : State :=
  w.kills.foldl (fun t p => t.complete w.queue p.1 p.2.1 p.2.2 Ending.ok) (s.complete w.queue w.tag w.cmpl w.pktIdx ⟨status, 0, 0⟩)

/-! ### Landing (R404) -/

/-- RESULT_LANDING: what is due at the tick of a context lands in the cycle in which its bundle issues or is suppressed (R404), and at no
other time. The cycle of a core performs its landings itself, so the event is the occasion for that cycle: where a result is due, the
core's cycle is the scheduler's next (log entry 46). -/
def execResultLanding (k r : Nat) (s : State) : Host.Outcome State Fault Refusal :=
  .next (if (s.ctx k r).due = [] then s else { s with agenda := .cycle k :: s.agenda })

/-! ### Continuation records (R145) -/

/-- The eight doublewords of a context's record. -/
def State.contRec (s : State) (k r st : Nat) (sp : Susp) (aux : Nat) : List Word :=
  let c := s.ctx k r
  let g := c.regs
  let (img, lc) := match s.crew? c.crew with
    | some w => (w.image.toNat, w.lcore k)
    | none => (0, 0)
  let im := (s.core k).imem
  let pc := fetchPc im (s.imglen c.crew) g.pc.toNat
  let wait := decide (st = 2)
  let w1 := c.crew.toNat * 2 ^ 48 + g.prio.toNat * 2 ^ 42 + st * 2 ^ 38 +
    (if wait then Wc.enc sp.cc * 2 ^ 35 + Scope.enc sp.scope * 2 ^ 32 + sp.sv.toNat * 2 ^ 29 else 0) +
    b2n (decide (g.loops ≠ [])) * 2 ^ 28 + g.p.toNat / 2 % 128 * 2 ^ 21 + b2n sp.any * 2 ^ 20 + lc
  let loop := match g.loops with
    | l :: _ => l.hdr.toNat * 2 ^ 46 + l.iter % 2 ^ 23 * 2 ^ 23 + l.left % 2 ^ 23
    | [] => 0
  [BitVec.ofNat 64 (img * 2 ^ 32 + pc % 2 ^ 18), BitVec.ofNat 64 w1, g.getS 1, g.getS 2, g.getS 3, g.getS 4,
   BitVec.ofNat 64 loop, BitVec.ofNat 64 aux]

/-- Fields of a record. -/
def recPrio (w : List Word) : Nat := bf (lrw w 1) 47 42
def recSt (w : List Word) : Nat := bf (lrw w 1) 41 38
def recAny (w : List Word) : Bool := wb (lrw w 1) 20
def recLcore (w : List Word) : Nat := bf (lrw w 1) 7 0
def recPc (w : List Word) : Nat := bf (lrw w 0) 17 0

/-- The record in a slot of a crew's queue. -/
def State.queueRec (s : State) (w : Crew) (i : Nat) : List Word := s.words8 (w.queueAt.1 + 64 * i)

/-- Write bytes after a touch of the slots under them; none where the latent seam is full (R25). -/
def State.poke (s : State) (agent : Option Nat) (a : Nat) (bs : List Byte) : Option State :=
  (s.touch a bs.length agent).map (fun t => t.write a bs)

/-- Rewrite STATE of a queue slot. -/
def State.setRecState (s : State) (w : Crew) (i st : Nat) : State :=
  let a := w.queueAt.1 + 64 * i + 8
  s.write64 a (putField (s.read64 a) 41 38 st)

/-- SUSPEND_COMPLETE: its publish over, a suspending context writes its record and leaves its slot (R147). -/
def execSuspendComplete (k r : Nat) (s : State) : Host.Outcome State Fault Refusal :=
  let c := s.ctx k r
  match c.mode, s.crew? c.crew with
  | .suspending q, some w =>
    if c.pubs ≠ [] then .next s
    else
      let ws := s.contRec k r (if q.waiting then 2 else 1) q (if q.waiting then q.addr.toNat else 0)
      (match s.poke (some k) (w.queueAt.1 + 64 * q.qslot) (ws.flatMap (toBytes 8)) with
       | none => .next s
       | some t =>
         .next ((t.modCrew c.crew (fun x => { x with
           reserved := x.reserved.filter (fun i => decide (i ≠ q.qslot))
           ages := (q.qslot, s.time) :: x.ages.filter (fun e => decide (e.1 ≠ q.qslot))
           uids := (q.qslot, c.uid) :: x.uids.filter (fun e => decide (e.1 ≠ q.qslot))
           kept := x.kept ++ c.conds.map (fun d => (q.qslot, d)) })).modCtx k r Ctx.vacate))
  | _, _ => .next s

/-! ### The wait monitor (R148) -/

/-- Physical place of a wait address under the launch record, with nothing set and nothing recorded. -/
def State.waitPlace (s : State) (w0 : Crew) (k : Nat) (va : Word) : Option Nat :=
  let w := s.recordNow w0
  if va.toNat % 8 ≠ 0 then none
  else
    match s.bindX k w.id w.xlat .waitRead va 8 with
    | some b =>
      (match b.parts with
       | [p] =>
         (match p.cls with
          | .loc => some (spadBase k + va.toNat % 0x100000)
          | .phys a => if s.heldAt a 8 then none else some a
          | .paged =>
            (match (s.walk (dieOf k) w.xlat.root va.toNat .waitRead).1 with
             | .leaf e _ bits => some (leafPa e bits va.toNat)
             | .fault _ _ => none))
       | _ => none)
    | none => none

/-- The comparison value that WVAL names. -/
def recVal (w : List Word) : Option Word :=
  let n := bf (lrw w 1) 31 29
  if n = 0 then some 0 else if n ≤ 4 then some (lrw w (n + 1)) else none

/-- WAIT_MONITOR_EVAL: a WAITING record whose condition holds becomes READY. The monitor is no core: its touch has core 0 of the slot's
die as its home (R25). -/
def execWaitMonitorEval (crew rec : Nat) (s : State) : Host.Outcome State Fault Refusal :=
  match s.crew? (BitVec.ofNat 16 crew) with
  | none => .next s
  | some w =>
    let r := s.queueRec w rec
    if w.queueAt.2 ≤ rec ∨ w.reserved.contains rec ∨ recSt r ≠ 2 then .next s
    else if s.recUe w rec then .next (s.meetUpsets (memLocs (w.queueAt.1 + 64 * rec) 64) none)
    else
      let k := w.phys (recLcore r)
      match s.waitPlace w k (lrw r 7), Wc.dec (bf (lrw r 1) 37 35), recVal r with
      | some pa, some cc, some v =>
        (match s.touch pa 8 none with
         | none => .next s
         | some t =>
           let ls := memLocs pa 8
           let u := t.meetUpsets ls none
           if t.ueAt ls || !wcHolds cc (t.read64 pa) v then .next u
           else .next ((u.setRecState w rec 1).modCrew w.id (fun x => { x with
             ages := (rec, s.time) :: x.ages.filter (fun e => decide (e.1 ≠ rec)) })))
      | _, _, _ => .next s

/-! ### Clearing a core for a crew (R50) -/

/-- A word of an array of a core, by die, array and LOC. -/
def inCoreArray (k : Nat) (arrays : Nat → Bool) (d a l : Nat) : Bool :=
  decide (d = dieOf k) && arrays a && decide (coreLoc k 0 ≤ l) && decide (l < coreLoc k 0x100000)

/-- Zero a core's shared state: tiles, accumulators, scales, scratchpad, running bests (R338), element types (R317); the
routine table becomes invalid (R336), the decoder FIFO and the snapshot cache empty. -/
def State.clearCore (s : State) (k : Nat) : State :=
  let t := s.modCore k (fun c => { c with
    tiles := [], acc := [], scales := [], mtab := [], ta := .e4m3, tb := .e4m3, best := List.replicate 128 Best.none, snap := []
    eng := { c.eng with fifo := [], lastClean := 0 } })
  { t with mem := Tab.clear t.mem (spadBase k) (spadBase k + 0xC0000) }.rewritten (inCoreArray k (fun a => decide (a ≤ 2)))

/-- A core passes to a crew: cleared when its shared state last belonged to another. -/
def State.claimCore (s : State) (k : Nat) (id : BitVec 16) : State :=
  (if (s.core k).lastCrew = some id then s else s.clearCore k).modCore k (fun c => { c with lastCrew := some id })

/-! ### Pickup (R149) -/

/-- CX_WDOG as the launch record loads it (R163). -/
def Crew.wdog (w : Crew) : Word :=
  BitVec.ofNat 64 (bf (lrw w.lr 22) 37 32 * 2 ^ 32 + bf (lrw w.lr 22) 29 24)

/-- The slot that a core presents for pickup: slot 0 first; none while a FUSE of it waits, one that is parked there included. -/
def State.pickupSlot (s : State) (w : Crew) (k : Nat) : Option Nat :=
  let c := s.core k
  if w.st ≠ .running ∨ w.killed ∨ c.fuse.isSome ∨ (s.fuseWaits k).isSome ∨ !w.members.contains k then none
  else if c.c0.mode = .empty then some 0
  else if c.c1.mode = .empty ∧ !wb (lrw w.lr 0) 6 then some 1
  else none

/-- A record is eligible for a core. -/
def State.eligibleFor (s : State) (w : Crew) (r : List Word) (k : Nat) : Bool :=
  recAny r || decide (w.lcore k = recLcore r) || decide (w.size < recLcore r) || (s.pickupSlot w (w.phys (recLcore r))).isNone

/-- Age of a queue slot: the time of its record. -/
def Crew.age (w : Crew) (i : Nat) : Nat :=
  match w.ages.find? (fun e => decide (e.1 = i)) with
  | some e => e.2.toNat
  | none => 0

/-- The first of two records: the higher priority, then the older. -/
def State.firstRec (s : State) (w : Crew) (i j : Nat) : Bool :=
  let a := recPrio (s.queueRec w i)
  let b := recPrio (s.queueRec w j)
  decide (b < a) || (decide (a = b) && decide (w.age i < w.age j))

/-- The READY records of a queue. -/
def State.readyRecs (s : State) (w : Crew) : List Nat :=
  (List.range w.queueAt.2).filter (fun i => !w.reserved.contains i && decide (recSt (s.queueRec w i) = 1) && !s.recUe w i)

/-- The record that a core would take. Which of two of equal PRIO and equal age is not given: here the lowest-numbered queue slot (DESIGN
CHOICE, log entry 70). -/
def State.bestRec (s : State) (w : Crew) (k : Nat) : Option Nat :=
  ((s.readyRecs w).filter (fun i => s.eligibleFor w (s.queueRec w i) k)).foldl (fun o i =>
    match o with
    | none => some i
    | some j => if s.firstRec w i j then some i else some j) none

/-- The core that takes a record: its own if it is among those that would, else the lowest logical one. -/
def State.takerOf (s : State) (w : Crew) (i : Nat) : Option Nat :=
  let ps := w.members.filter (fun k => (s.pickupSlot w k).isSome && decide (s.bestRec w k = some i))
  let own := w.phys (recLcore (s.queueRec w i))
  if ps.contains own then some own else ps.head?

/-- The loop of the LOOP bundle at an offset: its body and rings (R146, R149, R258). -/
def loopAt (im : List Byte) (len hdr : Nat) : Option LoopSt :=
  if len ≤ hdr then none
  else
    match decodeBundle (lineRest im hdr) with
    | .error _ => none
    | .ok b =>
      let a := hdr + b.len
      let go (l : BitVec 8) (x : Ext) : Option LoopSt :=
        (bodyOf im len (l.toNat + 1) a).map (fun e =>
          { hdr := BitVec.ofNat 18 hdr, first := BitVec.ofNat 18 (fetchPc im len a), last := BitVec.ofNat 18 e, iter := 0
            left := 0, rings := ringsOf x })
      firstSome (fun i => match i.2 with
        | .loopImm _ l _ x => go l x
        | .loopReg _ l _ x => go l x
        | _ => none) b.instrs

/-- The loops that a record restores; none where its loop fields are inconsistent (R146). -/
def recLoops (im : List Byte) (len : Nat) (w : List Word) : Option (List LoopSt) :=
  if !wb (lrw w 1) 28 then some []
  else
    match loopAt im len (bf (lrw w 6) 63 46) with
    | none => none
    | some l =>
      let left := bf (lrw w 6) 22 0
      if left = 0 ∨ !l.holds im (recPc w) then none else some [{ l with iter := bf (lrw w 6) 45 23, left := left }]

/-- A bad record: a state of 5 to 15, another crew, inconsistent loop fields (R146). -/
def State.badRec (s : State) (w : Crew) (k : Nat) (r : List Word) : Bool :=
  decide (5 ≤ recSt r) || decide (bf (lrw r 1) 63 48 ≠ w.id.toNat) || (recLoops (s.core k).imem w.imglen r).isNone

/-- What a crew kept for a queue slot goes with its record. -/
def Crew.dropRec (w : Crew) (i : Nat) : Crew :=
  { w with
    ages := w.ages.filter (fun e => decide (e.1 ≠ i)), uids := w.uids.filter (fun e => decide (e.1 ≠ i))
    kept := w.kept.filter (fun e => decide (e.1 ≠ i)) }

/-- The trap record of a bad record: RSLOT and LCORE zero, its PC and tick not given. -/
def State.postBadRec (s : State) (w : Crew) : State :=
  { s.postTrap w.id
      { cause := .badRecord, slots := 0, lcore := 0, rslot := 0, async := false, halted := false, image := w.image
        pc := (Config.openValue s.free).setWidth 18, tick := Config.openValue (s.free + 1), time := s.time, addr := 0, info := 0
        seq := 0, resume := none } with free := s.free + 2 }

/-- The registers that a record restores (R149). -/
def recRegs (r : List Word) (ls : List LoopSt) : Regs :=
  let g := { Regs.zero with
    pc := BitVec.ofNat 18 (recPc r), prio := BitVec.ofNat 6 (recPrio r), p := BitVec.ofNat 8 (bf (lrw r 1) 27 21 * 2 + 1), loops := ls }
  (((g.setS 1 (lrw r 2)).setS 2 (lrw r 3)).setS 3 (lrw r 4)).setS 4 (lrw r 5)

/-- Load a context into a free slot with the translation registers and the watchdog windows of the launch record. The core's contexts
have not yet been able to issue together (R154). -/
def State.seat (s : State) (w : Crew) (k r uid : Nat) (g : Regs) (conds : List Cond) : State :=
  ((s.modCore k (fun c => { c with firstWas := 0, denied := none })).modCtx k r (fun c => { c.vacate with
    mode := .running, uid := uid, crew := w.id, regs := g, xl := w.xlat, wdog := w.wdog, conds := conds })).seedCtx k r

/-- CONTEXT_PICKUP. -/
def execContextPickup (k r rec : Nat) (s : State) : Host.Outcome State Fault Refusal :=
  match s.crews.find? (fun w => decide (w.st = .running) && w.members.contains k) with
  | none => .next s
  | some w =>
    let x := s.queueRec w rec
    if s.pickupSlot w k ≠ some r ∨ w.queueAt.2 ≤ rec ∨ w.reserved.contains rec then .next s
    else if s.recUe w rec then .next (s.meetUpsets (memLocs (w.queueAt.1 + 64 * rec) 64) none)
    else if 5 ≤ recSt x ∨ (s.takerOf w rec = some k ∧ s.badRec w k x) then
      .next (((s.setRecState w rec 0).modCrew w.id (fun y => y.dropRec rec)).postBadRec w)
    else if s.takerOf w rec ≠ some k then .next s
    else
      let s1 := ((s.setRecState w rec 0).claimCore k w.id).refresh k
      let known := w.uids.find? (fun e => decide (e.1 = rec))
      let (uid, s2) := match known with
        | some e => (e.2, s1)
        | none => s1.fresh
      let conds := (w.kept.filter (fun e => decide (e.1 = rec))).map (·.2)
      .next ((s2.seat (s.recordNow w) k r uid (recRegs x ((recLoops (s.core k).imem w.imglen x).getD [])) conds).modCrew w.id (fun y => y.dropRec rec))

/-! ### Trap records (R169, R406) -/

/-- The eight doublewords of a trap record. -/
def TrapRec.words (t : TrapRec) (crew : BitVec 16) : List Word :=
  [BitVec.ofNat 64 (t.cause.code * 2 ^ 56 + t.slots.toNat * 2 ^ 48 + crew.toNat * 2 ^ 32 + t.lcore * 2 ^ 24 + t.rslot * 2 ^ 23 +
     b2n t.async * 2 ^ 22 + b2n t.halted * 2 ^ 21),
   BitVec.ofNat 64 (t.image.toNat * 2 ^ 32 + t.pc.toNat), t.tick, t.time, t.addr, t.info,
   BitVec.ofNat 64 (t.seq.toNat * 2 ^ 32), 0]

/-- Trap area of a crew: base and number of records. -/
def Crew.trapArea (w : Crew) : Nat × Nat := (bf (lrw w.lr 16) 51 6 * 64, 2 ^ (bf (lrw w.lr 16) 3 0 + 4))

/-- Change a crew, live or done, by its place in the order of submission. -/
def State.modOrder (s : State) (o : Nat) (f : Crew → Crew) : State :=
  { s with crews := s.crews.map (fun c => if c.order = o then f c else c) }

/-- TRAP_RECORD_WRITE: the oldest record of a crew is written once its slot's CAUSE byte is zero, with its MSI. A queue that
a halted context's failure stopped goes on. An uncorrectable CAUSE byte is logged, and the record goes on waiting (R80, R81; log entry 69). -/
def execTrapRecordWrite (crew : Nat) (s : State) : Host.Outcome State Fault Refusal :=
  match s.crews.find? (fun w => decide (w.id.toNat = crew) && decide (w.trapq ≠ [])) with
  | none => .next s
  | some w =>
    match w.trapq with
    | [] => .next s
    | t :: l =>
      let a := w.trapArea.1 + 64 * (t.seq.toNat % w.trapArea.2)
      match s.touch a 64 none with
      | none => .next s
      | some s0 =>
        let ls := memLocs (a + 7) 1
        let s1 := s0.meetUpsets ls none
        if s1.ueAt ls then .next s1
        else if s1.read (a + 7) 1 ≠ [0#8] then .next s
        else
          let s2 := (s1.write a ((t.words w.id).flatMap (toBytes 8))).modOrder w.order (fun x => { x with trapq := l })
          let s3 := s2.msi (msiAddr (lrw w.lr 17)) (bf (lrw w.lr 17) 62 52)
          let s4 := match t.resume with
            | some o => s3.unhaltAll o.uid
            | none => s3
          .next { s4 with crews := s4.crews.filter (fun x => decide (x.st ≠ .done) || decide (x.trapq ≠ [])) }

/-! ### The launch arbiter (R164) -/

/-- Crew priority. -/
def Crew.prio (w : Crew) : Nat := bf (lrw w.lr 0) 15 10

/-- The crew holds its cores. -/
def Crew.holding (w : Crew) : Bool :=
  match w.st with
  | .placed | .running => true
  | _ => false

/-- The crew waits at the arbiter. -/
def Crew.queued (w : Crew) : Bool :=
  match w.st with
  | .waiting | .preempted => true
  | _ => false

/-- The order in which the arbiter considers launches. -/
def Crew.before (a b : Crew) : Bool := decide (b.prio < a.prio) || (decide (a.prio = b.prio) && decide (a.order < b.order))

/-- Every core of a waiting launch is idle or held by lower priority, and named by no waiting launch of higher priority; no
other live crew has its id. R164 lists the third condition as an alternative to the others; it is read as one that holds beside either of
them, or a launch could take a core of its equal (DESIGN CHOICE, log entry 70). -/
def State.admissible (s : State) (w : Crew) : Bool :=
  w.members.all (fun p =>
    s.crews.all (fun x => !(x.holding && x.members.contains p) || decide (x.prio < w.prio)) &&
    s.crews.all (fun y => !(y.queued && decide (w.prio < y.prio) && y.members.contains p))) &&
  s.crews.all (fun x => decide (x.order = w.order) || decide (x.id ≠ w.id) || !x.live)

/-- The arbiter admits launches in reduced and in full service, outside a hand-over (R387, R394, R397). -/
def State.admits (s : State) : Bool := (decide (s.head.phase = 3) || decide (s.head.phase = 5)) && !s.head.fw.hover

/-- The launch whose turn it is: the first in order that can be admitted. -/
def State.nextLaunch (s : State) : Option Crew :=
  if !s.admits then none
  else
    (s.crews.filter (fun w => w.queued && s.admissible w)).foldl (fun o w =>
      match o with
      | none => some w
      | some x => if w.before x then some w else some x) none

/-- No crew holds a core of the launch. -/
def State.coresFree (s : State) (w : Crew) : Bool :=
  w.members.all (fun p => s.crews.all (fun x => !(x.holding && x.members.contains p)))

/-- A wake request for a core (R200). -/
def State.wake (s : State) (k : Nat) : State :=
  s.modCore k (fun c => { c with gate := match c.gate with
    | .active => .active
    | .hold _ => .active
    | .gating _ => .gating true
    | .gated => .waking
    | .waking => .waking })

/-- Every core of a launch is ACTIVE. -/
def State.awake (s : State) (w : Crew) : Bool := w.members.all (fun k => decide ((s.core k).gate = .active))

/-! ### Placement (R142, R143) -/

/-- The image enters the instruction memory of a member. -/
def State.loadImage (s : State) (w : Crew) (k : Nat) : State :=
  let a := bf (lrw w.lr 2) 51 0
  ((s.modCore k (fun c => { c with imem := s.read a w.imglen })).rewritten (inCoreArray k (fun x => decide (x = 4)))).elide
    (some (dieOf k)) a w.imglen

/-- The scratchpad preload of a member. -/
def State.preload (s : State) (w : Crew) (k : Nat) : State :=
  (s.write (spadBase k) (s.read (bf (lrw w.lr 4) 51 0) (bf (lrw w.lr 3) 51 32))).elide (some (dieOf k)) (bf (lrw w.lr 4) 51 0)
    (bf (lrw w.lr 3) 51 32)

/-- The words that a placement reads: the image and the preload. -/
def Crew.launchHit (w : Crew) (d arr l : Nat) : Bool :=
  memHit (bf (lrw w.lr 2) 51 0) w.imglen d arr l || memHit (bf (lrw w.lr 4) 51 0) (bf (lrw w.lr 3) 51 32) d arr l

/-- Members in a cluster. -/
def Crew.inCluster (w : Crew) (cl : Nat) : Nat := (w.members.filter (fun p => decide (clusterOf p = cl))).length

/-- OWNER and EXP of the clusters that hold members, with the swap arrival flags cleared. -/
def State.ownClusters (s : State) (w : Crew) : State :=
  w.clusters.foldl (fun t cl =>
    (coresOf cl).foldl (fun u p => u.modCore p (fun c => { c with swapArr := false }))
      ((t.setOwner cl w.id (BitVec.ofNat 5 (w.inCluster cl))).modCluster cl (fun c => { c with arr := 0 }))) s

/-- The registers of an initial context (R143). -/
def Crew.initRegs (w : Crew) : Regs := { Regs.zero with prio := BitVec.ofNat 6 w.prio }

/-- A release time at least 2 µs ahead, as the command processor chooses it (R142). -/
def State.releaseTime (s : State) : BitVec 64 :=
  s.time + BitVec.ofNat 64 (2000 + (Config.openValue s.free).toNat % 2 ^ 32)

/-- Write the preset flag words and mark the queue's records EMPTY; false where a latent seam is full. -/
def State.presets (s : State) (w : Crew) : State × Bool :=
  let flags := (List.range w.flagPas.length).map (fun i => (w.flagPas.getD i 0, toBytes 8 (lrw w.lr (24 + i))))
  let s1 : State × Bool := flags.foldl (fun x f =>
    if x.2 then (match x.1.poke none f.1 f.2 with
      | some t => (t, true)
      | none => (x.1, false)) else x) (s, true)
  (List.range w.queueAt.2).foldl (fun x i =>
    if x.2 then (match x.1.touch (w.queueAt.1 + 64 * i) 64 none with
      | some t => (t.setRecState w i 0, true)
      | none => (x.1, false)) else x) s1

/-- Remove a crew, keeping what its unwritten trap records need. -/
def State.dropCrew (s : State) (w : Crew) : State :=
  let s1 := s.modOrder w.order (fun x => { x with st := .done })
  { s1 with crews := s1.crews.filter (fun x => decide (x.order ≠ w.order) || decide (x.trapq ≠ [])) }

/-- A running crew in exact mode has members in a cluster. -/
def State.exactIn (s : State) (cl : Nat) : Bool := s.crews.any (fun w => w.holding && w.exact && w.clusters.contains cl)

/-- Set bits of a pattern. -/
def popPat (p : BitVec 16) : Nat := ((List.range 16).filter (fun i => p.getLsbD i)).length

/-- XPAT as it acts. -/
def Cluster.xact (c : Cluster) : BitVec 16 := if popPat c.xpat < 4 then 0xFFFF else c.xpat

/-- The clusters of a crew in exact mode carry XPAT from its placement on, but in reduced service and, by the model's choice, under
GOV_CTL.EN = 0 (R191, R396, R194; log entry 57). -/
def State.fixPatterns (s : State) (w : Crew) : State :=
  if !w.exact || s.head.held || !wb s.head.govCtl 0 then s
  else w.clusters.foldl (fun t cl => t.modCluster cl (fun c => { c with pat := c.xact })) s

/-- Place a crew (R142, steps 1 to 7). -/
def State.place (s : State) (w0 : Crew) : State :=
  let w := { s.recordNow w0 with exact := wb (lrw w0.lr 0) 7 || s.head.held }
  let s0 := s.modOrder w.order (fun x => { x with
    lr := w.lr, st := .placed, exact := w.exact, arrived := [], ages := [], kept := [], uids := [], ended := []
    reserved := [], trapSeq := 0 })
  let s1 := w.members.foldl (fun t k => (((t.loadImage w k).claimCore k w.id).preload w k)) s0
  let (s2, ok) := (s1.ownClusters w).presets w
  if !ok then ((s2.completeCrew w 7).idleCrew w).dropCrew w
  else
    let s3 := w.members.foldl (fun t k =>
      let (uid, u) := t.fresh
      (u.seat w k 0 uid w.initRegs []).refresh k) s2
    { (s3.fixPatterns w).modOrder w.order (fun x => { x with rt := s3.releaseTime }) with free := s3.free + 1 }

/-- Place a crew once its image and preload can be read: an uncorrectable word there is logged, and the launch goes on waiting (R80, R81; log
entry 69). -/
def State.placeRead (s : State) (w : Crew) : State :=
  if s.ueHit w.launchHit then s.meetHit w.launchHit else (s.meetHit w.launchHit).place w

/-- LAUNCH_ADMIT: the arbiter admits the launch whose turn it is once its cores are free; cores that sleep are woken first
(R164, R200). -/
def execLaunchAdmit (crew : Nat) (s : State) : Host.Outcome State Fault Refusal :=
  match s.nextLaunch with
  | some w =>
    if w.id.toNat ≠ crew ∨ w.st ≠ .waiting ∨ !s.coresFree w then .next s
    else
      let t := w.members.foldl (fun u k => u.wake k) s
      .next (if t.awake w then t.placeRead w else t)
  | none => .next s

/-- The reads before every recorded refresh of a context are over (R167); a publish before one is not waited for. -/
def State.refsFree (s : State) (k r : Nat) : Bool :=
  (s.ctx k r).refs.all (fun f => (s.core k).far.all (fun a => !f.after.contains a.id) && (s.core k).eng.rm.all (fun q => !f.after.contains q.id))

/-- The recorded refreshes of a context are performed before its first bundle. One behind a publish that is still outstanding is performed
again after it (R94; DEDUCED, log entry 71). -/
def State.doRefs (s : State) (k r : Nat) : State :=
  if (s.ctx k r).refs = [] then s
  else (s.refresh k).modCtx k r (fun c => { c with refs := c.refs.filter (fun f => !s.refReady k r f) })

/-- CREW_RELEASE: at the release time every member may issue; an armed sequencer enters LOAD of step 0 (R142, R175). A resumed crew's
recorded refreshes are performed first, once the reads before them are over (R167). -/
def execCrewRelease (crew : Nat) (s : State) : Host.Outcome State Fault Refusal :=
  match s.crew? (BitVec.ofNat 16 crew) with
  | some w =>
    if w.st ≠ .placed ∨ s.time.toNat < w.rt.toNat ∨ !w.members.all (fun k => s.refsFree k 0 && s.refsFree k 1) then .next s
    else
      let t0 := w.members.foldl (fun u k => ((u.doRefs k 0).doRefs k 1).sendRemotes k) (s.countTiles w)
      let t := t0.modCrew w.id (fun x => { x with st := .running })
      .next (match s.seqDie w.id with
        | some d => t.modSeq d (fun q => if q.st = .armed then q.enterLoad 0 s.time else q)
        | none => t)
  | none => .next s

/-! ### Pre-emption (R165, R166) -/

/-- First byte of a member's save block (R166). -/
def Crew.saveBlock (w : Crew) (n : Nat) : Nat :=
  let d := dieOf (w.phys n)
  let m := ((List.range n).filter (fun i => decide (dieOf (w.phys i) = d))).length
  if d = 0 then slotBase (bf (lrw w.lr 19) 13 0 + 20 * m) else slotBase (16384 + bf (lrw w.lr 19) 29 16 + 20 * m)

/-- Bytes of rows of a table from a key. -/
def rowBytes (t : Tab 1024) (n : Nat) : List Byte := (List.range n).flatMap (fun i => toBytes 128 (Tab.get t i))

/-- A table of rows from bytes. -/
def rowsOfBytes (n : Nat) (bs : List Byte) : Tab 1024 :=
  Tab.blit [] 0 ((List.range n).map (fun i => ofBytes 1024 ((bs.drop (128 * i)).take 128)))

/-- Free bytes: what the save block holds where only the device reads it. -/
def State.freeBytes (s : State) (n : Nat) : List Byte :=
  (List.range n).map (fun i => (Config.openValue (s.free + i)).setWidth 8)

/-- STATE of a saved context's record: TRAPPED for a parked one. -/
def savedSt (c : Ctx) : Nat :=
  match c.mode with
  | .trapped | .debug | .group => 4
  | _ => 3

/-- No suspension: a record that pre-emption writes. -/
def Susp.plain : Susp := ⟨0, false, false, .eq, .core, 0, 0⟩

/-- The first 64 bytes of a context block. -/
def State.blockRec (s : State) (k r a : Nat) : List Byte :=
  if (s.ctx k r).mode = .empty then List.replicate 64 0#8
  else (s.contRec k r (savedSt (s.ctx k r)) Susp.plain a).flatMap (toBytes 8)

/-- The rows of the decoder FIFO. -/
def fifoBytes (l : List FifoEnt) : List Byte :=
  let rows := l.filterMap (fun e => match e with
    | .row v => some v
    | _ => none)
  ((rows.flatMap (toBytes 128)) ++ List.replicate 0x4000 0#8).take 0x4000

/-- The words of a member's arrays that its save block holds: tiles, accumulators, scratchpad, decoder FIFO, landing buffers. -/
def saveHit (k : Nat) : Nat → Nat → Nat → Bool := inCoreArray k (fun a => decide (a ≤ 2) || decide (a = 8) || decide (a = 9))

/-- The 1,280 KiB of a member's save block. AUX of a context's record is the address of its own block within it (DEDUCED, log
entry 58). -/
def State.saveBytes (s : State) (k a : Nat) : List Byte :=
  let c := s.core k
  s.read (spadBase k) 0xC0000 ++ rowBytes c.tiles 512 ++ rowBytes c.acc 2048 ++ fifoBytes c.eng.fifo ++
    s.freeBytes 0x4000 ++ s.blockRec k 0 (a + 0x118000) ++ s.freeBytes (0x8000 - 64) ++ s.blockRec k 1 (a + 0x120000) ++
    s.freeBytes (0x8000 - 64) ++ List.replicate 0x18000 0#8

/-- A far access that pre-emption takes with its context: a read that has not been delivered, or an atomic with a result. -/
def FarAcc.goesWith (a : FarAcc) : Bool :=
  match a.kind with
  | .load | .scale _ | .waitRead | .atom _ _ true => true
  | _ => false

/-- A remote write that a publish of its context holds back: it goes with the context, behind the publish (R92). -/
def Core.heldRm (c : Core) (q : RmReq) : Bool := q.sent.isNone && q.pubs.any c.pending

/-- What of a core is kept beside the bytes of its block, the publishes of contexts that have left it among it (R92). -/
def Core.kept (c : Core) : Core :=
  { c with
    tiles := [], acc := [], imem := [], snap := [], far := c.far.filter FarAcc.goesWith
    tlbs := ⟨[], [], [], [], [], [], []⟩
    eng := { c.eng with rm := [], tileq := [], logL := [], log0 := [], log1 := [], log2 := [], log3 := [] } }

/-- What stays on a core whose crew has been taken: its side logs, the writes and requests already issued, and what
belongs to the core (R124, R165). -/
def Core.leave (c : Core) : Core :=
  { c with
    c0 := c.c0.vacate, c1 := c.c1.vacate, far := c.far.filter (fun a => farWrites a.kind && !a.goesWith), snap := []
    bankPaid := 0, denied := none, yielder := none, split := none, fuse := none, swapArr := false, orphans := []
    eng := { Engines.zero with
      logL := c.eng.logL, log0 := c.eng.log0, log1 := c.eng.log1, log2 := c.eng.log2, log3 := c.eng.log3
      rm := (c.eng.rm.filter (fun q => q.sent.isSome || !(decide (q.kind = .load) || decide (q.kind = .loadRow) || c.heldRm q))).map (fun q =>
        if q.kind = .load ∨ q.kind = .loadRow then { q with qrm := false } else q) } }

/-- The RLDs of a core that have not been answered. -/
def Core.openLoads (c : Core) : List RmReq := c.eng.rm.filter (fun q => q.qrm && (decide (q.kind = .load) || decide (q.kind = .loadRow)))

/-- Save one member; none while a slot of its block cannot be placed (R25). -/
def State.saveCore (s : State) (w : Crew) (n : Nat) : Option State :=
  let k := w.phys n
  let a := w.saveBlock n
  let c := s.core k
  (s.poke (some k) a (s.saveBytes k a)).map (fun t =>
    let held := { c.kept with eng := { c.kept.eng with rm := c.openLoads ++ c.eng.rm.filter (fun q =>
      !(decide (q.kind = .load) || decide (q.kind = .loadRow)) && c.heldRm q) } }
    let t1 := c.eng.sl.foldl (fun u x => u.countReads x.half (fun m => m - 1)) t
    ({ t1 with free := t1.free + 0x14000 }.modCore k Core.leave).modCrew w.id (fun x => { x with saved := x.saved ++ [(⟨n, held⟩ : Saved)] }))

/-- The clusters of a crew that is taken carry a pattern, whatever XPAT holds (R165). One shared with a running crew in exact mode has XPAT
again from the governor's next evaluation on (R191; log entry 57). -/
def State.crewPattern (s : State) (w : Crew) (p : BitVec 16) : State :=
  w.clusters.foldl (fun t cl => t.modCluster cl (fun c => { c with pat := p })) s

/-- Take a crew whole, fused groups included. -/
def State.preemptCrew (s : State) (w : Crew) : Option State :=
  let s0 := (s.pauseSeq w).crewPattern w (if s.head.held then 0x5555#16 else 0xFFFF#16)
  ((List.range (w.size + 1)).foldl (fun o n => o.bind (fun t => t.saveCore w n)) (some s0)).map (fun t =>
    t.modCrew w.id (fun x => { x with st := .preempted, pausedAt := s.time }))

/-- The arbiter asks for a running crew: for the launch whose turn it is, or for SWITCH (R164, R397). -/
def State.mustYield (s : State) (w : Crew) : Bool :=
  decide (w.st = .running) && !s.head.fw.hover &&
    (decide (s.head.phase = 4) || (match s.nextLaunch with
      | some x => decide (w.prio < x.prio) && x.members.any (fun p => w.members.contains p)
      | none => false))

/-- The head command of a queue stands inside a 128-byte piece: a copy that has written some of one, an export inside a block of its output.
One that makes no access, at a fault, in a halted queue or before a full log, stands where it stops (R165, R347; DEDUCED, log entry 72). -/
def Engines.inPiece (e : Engines) (q : Nat) : Bool :=
  match e.ce q with
  | c :: _ =>
    !c.failed && !e.halted.getLsbD q && c.flt.isNone && (match c.kind with
      | .copy _ _ => decide (c.put ≠ 0)
      | .xmeta _ _ o => c.begun && decide ((o.toNat + 4 * c.piece) % 128 ≠ 0) && decide ((e.log (q + 1)).length < logCap 1)
      | _ => false)
  | [] => false

/-- A core stands where pre-emption stops it: between bundles, and its copies and exports between pieces (R165, R347). -/
def Core.stands (c : Core) : Bool := c.split.isNone && (List.range 4).all (fun q => !c.eng.inPiece q)

/-- PREEMPT: contexts stand at bundle boundaries; a split bundle and a piece of a copy or an export are completed first. An uncorrectable
word of what is to be saved is logged, and the save stops (R80, R81; log entry 69). -/
def execPreempt (crew : Nat) (s : State) : Host.Outcome State Fault Refusal :=
  match s.crew? (BitVec.ofNat 16 crew) with
  | some w =>
    if !s.mustYield w || !w.members.all (fun k => (s.core k).stands) then .next s
    else
      let hit (d a l : Nat) : Bool := w.members.any (fun k => saveHit k d a l)
      .next (if s.ueHit hit then s.meetHit hit else (((s.meetHit hit).preemptCrew w).getD s))
  | none => .next s

/-! ### Resumption (R167) -/

/-- A saved context in its slot; the counters are the slot's. -/
def restoreCtx (old new : Ctx) : Ctx :=
  { new with holdFlt := old.holdFlt, holdSlog := old.holdSlog, holdSync := old.holdSync, mergeDeny := old.mergeDeny }

/-- A command as it resumes: it translates and binds its slots afresh, and reads a piece of which it has written nothing again. -/
def Cmd.again (c : Cmd) : Cmd := { c with flt := none, slots := [], got := 0, put := 0, buf := 0 }

/-- A far access as it is issued again: afresh; one that had faulted holds its context until it completes (R120). -/
def FarAcc.again (a : FarAcc) : FarAcc :=
  { a with parts := a.parts.map (fun p => { p with flt := none, unrec := false }), got := 0,
           held := a.held || a.parts.any (fun p => p.flt.isSome) }

/-- The FIFO of a core with its rows as its save block holds them. -/
def fifoFrom (rows : List Row) : List FifoEnt → List FifoEnt
  | [] => []
  | .row v :: l => .row (rows.headD v) :: fifoFrom (rows.drop 1) l
  | e :: l => e :: fifoFrom rows l

/-- Reload one core. -/
def Core.reload (c v : Core) : Core :=
  { c with
    c0 := restoreCtx c.c0 v.c0, c1 := restoreCtx c.c1 v.c1, scales := v.scales, steps := v.steps, mstore := v.mstore
    mtab := v.mtab, ta := v.ta, tb := v.tb, ascfg := v.ascfg, best := v.best, fuse := v.fuse, swapArr := v.swapArr, snap := [], orphans := v.orphans
    firstWas := 0, denied := none
    far := c.far ++ v.far.map FarAcc.again
    eng := { c.eng with
      ce0 := v.eng.ce0.map Cmd.again, ce1 := v.eng.ce1.map Cmd.again, ce2 := v.eng.ce2.map Cmd.again
      ce3 := v.eng.ce3.map Cmd.again, halted := v.eng.halted, sl := v.eng.sl, fifo := v.eng.fifo, lastClean := v.eng.lastClean
      mx := v.eng.mx.map (fun e => { e with flt := none }), sq := v.eng.sq } }

/-- An RLD is issued again under a number of its own; its entry of qrm and the refreshes behind it follow (R93, R94). -/
def State.reissueRld (s : State) (k : Nat) (q : RmReq) : State :=
  let (id, t) := s.fresh
  let u := t.modEng k (fun e => { e with rm := e.rm ++ [{ q with id := id, sent := none }] })
  u.onCtx q.who (fun c => { c with
    qrm := c.qrm.map (fun x => if x.id = q.id then { x with id := id } else x)
    refs := c.refs.map (fun f => { f with after := f.after.map (fun i => if i = q.id then id else i) }) })

/-- Issue a far read again: it translates, among the walks that run, and is performed where it can be (R115, R167). -/
def State.reissueFar (s : State) (k id : Nat) : State :=
  let go (f : State → FarAcc → State) (t : State) : State :=
    match t.far? k id with
    | some a => f t a
    | none => t
  let bound (t : State) (a : FarAcc) : State :=
    match (t.findCtx a.who.crew a.who.uid).bind (fun p => t.bindX k a.who.crew (t.ctx p.1 p.2).xl (farAk a.kind) a.va a.size) with
    | some b => t.modFar k a.id (fun x => { x with parts := b.parts })
    | none => t
  go (fun t a => match a.kind with
    | .atom _ _ _ => t
    | _ => t.loadNow a) (go State.farWalkEnd (go State.farWalkEnd (go State.askFar (go bound s))))

/-- Reload one member from its block and what was kept beside it. -/
def State.loadCore (s : State) (w : Crew) (v : Saved) : State :=
  let k := w.phys v.lcore
  let a := w.saveBlock v.lcore
  let s1 := (s.claimCore k w.id).loadImage w k
  let s2 := s1.write (spadBase k) (s1.read a 0xC0000)
  let rows : List Row := (List.range 128).map (fun i => ofBytes 1024 (s2.read (a + 0x110000 + 128 * i) 128))
  let s3 := (s2.modCore k (fun c =>
    let x := c.reload v.core
    { x with
      tiles := rowsOfBytes 512 (s2.read (a + 0xC0000) 0x10000), acc := rowsOfBytes 2048 (s2.read (a + 0xD0000) 0x40000)
      eng := { x.eng with fifo := fifoFrom rows x.eng.fifo, fifoAt := fifoRows x.eng.fifo % 128 } })).rewritten
    (inCoreArray k (fun x => decide (x ≤ 1) || decide (x = 8) || decide (x = 9)))
  let s4 := v.core.eng.sl.foldl (fun u x => u.countReads x.half (fun m => m + 1)) s3
  let s5 := v.core.eng.rm.foldl (fun u q =>
    if q.kind = .load ∨ q.kind = .loadRow then u.reissueRld k q else u.modEng k (fun e => { e with rm := e.rm ++ [q] })) s4
  (v.core.far.foldl (fun u x => u.reissueFar k x.id) s5).sendRemotes k

/-- The clusters of a resumed crew: its ownership, its open swap's arrivals, its pattern. -/
def State.resumeClusters (s : State) (w : Crew) : State :=
  w.clusters.foldl (fun t cl =>
    (t.setOwner cl w.id (BitVec.ofNat 5 (w.inCluster cl))).modCluster cl (fun c => { c with
      arr := BitVec.ofNat 5 ((w.saved.filter (fun v => v.core.swapArr && decide (clusterOf (w.phys v.lcore) = cl))).length) })) s

/-- The words of a crew's save blocks. -/
def Crew.savedHit (w : Crew) (d arr l : Nat) : Bool := (List.range (w.size + 1)).any (fun n => memHit (w.saveBlock n) 0x140000 d arr l)

/-- CREW_RESUME: a pre-empted crew whose turn it is is reloaded on its original cores, its sequencer goes on, and a release
time is chosen. An uncorrectable word of its image or its save blocks is logged, and the crew goes on waiting (R80, R81; log entry 69). -/
def execCrewResume (crew : Nat) (s : State) : Host.Outcome State Fault Refusal :=
  match s.nextLaunch with
  | some w =>
    if w.id.toNat ≠ crew ∨ w.st ≠ .preempted ∨ !s.coresFree w then .next s
    else
      let t := w.members.foldl (fun u k => u.wake k) s
      let hit (d a l : Nat) : Bool := w.savedHit d a l || memHit (bf (lrw w.lr 2) 51 0) w.imglen d a l
      if !t.awake w then .next t
      else if t.ueHit hit then .next (t.meetHit hit)
      else
        let rt := t.releaseTime
        let t1 := w.saved.foldl (fun u v => u.loadCore w v) ((t.meetHit hit).resumeClusters w)
        let t2 := t1.modCrew w.id (fun x => { x with st := .placed, rt := rt, saved := [] })
        .next { (t2.fixPatterns w).resumeSeq w rt with free := t2.free + 1 }
  | none => .next s

/-! ### KILL and completion (R99, R150, R384) -/

/-- The queue records of a crew become EMPTY, and the contexts that they held have halted: what was kept for them is
recorded (R406). -/
def State.endRecords (s : State) (w : Crew) : State :=
  let gone : List (Nat × Ended) := (w.uids.filter (fun e => !s.recUe w e.1)).map (fun e =>
    let r := s.queueRec w e.1
    (e.1, (⟨e.2, recLcore r, 0, BitVec.ofNat 18 (recPc r), 0⟩ : Ended)))
  let s1 := (List.range w.queueAt.2).foldl (fun t i => if recSt (t.queueRec w i) = 0 then t else t.setRecState w i 0) s
  let s2 := s1.modCrew w.id (fun x => { x with ended := x.ended ++ gone.map (·.2), uids := [], ages := [], kept := [], reserved := [] })
  w.kept.foldl (fun t c => match gone.find? (fun e => decide (e.1 = c.1)) with
    | some e => t.postTrap w.id (haltedRec t w e.2 (w.phys e.2.lcore) c.2)
    | none => t) s2

/-- The saved contexts of a crew end; their writes go on. -/
def endSaved (v : Saved) : Saved :=
  { v with core := { v.core with
      c0 := v.core.c0.vacate, c1 := v.core.c1.vacate, far := v.core.far.filter (fun a => farWrites a.kind), fuse := none } }

/-- What a record of R406 would name of the saved contexts. -/
def Saved.ends (v : Saved) : List Ended :=
  ([(0, v.core.c0), (1, v.core.c1)].filter (fun e => decide (e.2.mode ≠ .empty))).map (fun e =>
    (⟨e.2.uid, v.lcore, e.1, e.2.regs.pc, e.2.regs.tick⟩ : Ended))

/-- Every context of a crew ends as by KILL; its queues and side logs drain, and its ordered sums are discarded. -/
def State.killCrew (s : State) (w : Crew) : State :=
  let s1 := w.members.foldl (fun t k => [0, 1].foldl (fun u r =>
    let c := u.ctx k r
    if c.mode ≠ .empty ∧ c.crew = w.id then (u.endCtx k r c.regs.pc c.regs.tick).unhaltAll c.uid else u) t) s
  let s2 := s1.modCrew w.id (fun x => { x with
    killed := true, saved := x.saved.map endSaved, ended := x.ended ++ x.saved.flatMap Saved.ends })
  let s3 := s2.endRecords w
  { s3 with dies := s3.dies.map (fun d => { d with ordsum := d.ordsum.filter (fun e => decide (e.crew ≠ w.id)) }) }

/-- The queues of a member are empty, its side-log entries for the crew gone, its writes performed. -/
def Core.drained (c : Core) (id : BitVec 16) : Bool :=
  let e := c.eng
  decide (c.c0.mode = .empty) && decide (c.c1.mode = .empty) && decide (e.ce0 = []) && decide (e.ce1 = []) &&
    decide (e.ce2 = []) && decide (e.ce3 = []) && decide (e.sl = []) && decide (e.mx = []) && decide (e.rm = []) &&
    decide (e.sq = []) && e.logs.all (fun x => decide (x.who.crew ≠ id)) && c.far.all (fun a => decide (a.who.crew ≠ id) || !farWrites a.kind)

/-- A crew has reached its completion (R150). -/
def State.finished (s : State) (w : Crew) : Bool :=
  decide (w.st = .running) && w.members.all (fun k => (s.core k).drained w.id) && decide (w.reserved = []) &&
    (List.range w.queueAt.2).all (fun i => decide (recSt (s.queueRec w i) = 0) && !s.recUe w i) && w.trapq.all (fun t => t.resume.isNone)

/-- CREW_COMPLETE: the remaining ordered sums are applied, or after a KILL discarded (R99), the sequencer goes idle, the LAUNCH completes, and
the cores are released. -/
def execCrewComplete (crew : Nat) (s : State) : Host.Outcome State Fault Refusal :=
  match s.crew? (BitVec.ofNat 16 crew) with
  | some w =>
    if !s.finished w then .next s
    else
      let mine (e : OrdSum) : Bool := decide (e.crew = w.id)
      let s1 := if w.killed then { s with dies := s.dies.map (fun d => { d with ordsum := d.ordsum.filter (fun e => !mine e) }) } else s.drainSums mine
      let s2 := s1.idleCrew w
      let s3 := w.members.foldl (fun t k => t.modCore k (fun c => { c with
        orphans := [], far := c.far.filter (fun a => decide (a.who.crew ≠ w.id) || decide (a.kind = .prefetch)), fuse := none
        eng := { c.eng with halted := 0, tileq := [] } })) s2
      .next ((s3.completeCrew w (if w.killed then 5 else 0)).dropCrew w)
  | none => .next s

end Sys2Proof.Machine
end

