-- ==== Sys2Proof/Machine/Power.lean ====
section
/-!
DEFINITION. The governor (R192 to R198), the power meter (R199), power gating (R200) and droop pressure (R157).
-/

namespace Sys2Proof.Machine

/-! ### Power gating (R200) -/

/-- The conditions under which a core may sleep: no crew has placed it, no context, empty queues and side logs. -/
def State.coreIdle (s : State) (k : Nat) : Bool :=
  let c := s.core k
  let e := c.eng
  s.crews.all (fun w => !(w.holding && w.members.contains k)) && decide (c.c0.mode = .empty) && decide (c.c1.mode = .empty) &&
    decide (e.ce0 = []) && decide (e.ce1 = []) && decide (e.ce2 = []) && decide (e.ce3 = []) && decide (e.sl = []) &&
    decide (e.mx = []) && decide (e.rm = []) && decide (e.sq = []) && decide (e.logs = [])

/-- At a cycle of the core: ACTIVE passes to HOLD when the conditions hold, and HOLD back when they do not. -/
def State.gateCheck (s : State) (k : Nat) : State :=
  match (s.core k).gate with
  | .active =>
    if (s.die (dieOf k)).gateEn && s.coreIdle k then s.modCore k (fun c => { c with gate := .hold s.time }) else s
  | .hold _ => if s.coreIdle k then s else s.modCore k (fun c => { c with gate := .active })
  | _ => s

/-- The break-even hold in nanoseconds. -/
def Die.behNs (d : Die) : Nat := max 1 d.gateBeh.toNat * 1000

/-- GATE_HOLD_EXPIRE. -/
def execGateHoldExpire (k : Nat) (s : State) : Host.Outcome State Fault Refusal :=
  match (s.core k).gate with
  | .hold t =>
    if s.coreIdle k && decide ((s.die (dieOf k)).behNs ≤ (s.time - t).toNat) then
      .next (s.modCore k (fun c => { c with gate := .gating false }))
    else .next s
  | _ => .next s

/-- GATING_DONE: a wake request kept meanwhile is acted on. -/
def execGatingDone (k : Nat) (s : State) : Host.Outcome State Fault Refusal :=
  match (s.core k).gate with
  | .gating w => .next (s.modCore k (fun c => { c with gate := if w then .waking else .gated }))
  | _ => .next s

/-- WAKE_REQUEST. -/
def execWakeRequest (k : Nat) (s : State) : Host.Outcome State Fault Refusal := .next (s.wake k)

/-- WAKE_COMPLETE: the core's arrays, scratchpad and instruction memory are zero, and it last belonged to no crew. -/
def execWakeComplete (k : Nat) (s : State) : Host.Outcome State Fault Refusal :=
  if (s.core k).gate = .waking then
    .next (((s.clearCore k).rewritten (inCoreArray k (fun a => decide (a = 4)))).modCore k (fun c =>
      { c with imem := [], lastCrew := none, gate := .active }))
  else .next s

/-- PWR_GATE_DISABLE: a write of PWR_GATE with EN = 0. -/
def execPwrGateDisable (d : Bool) (beh : BitVec 16) (s : State) : Host.Outcome State Fault Refusal :=
  .next ((dieCores (b2n d)).foldl (fun t k => t.wake k) (s.modDie (b2n d) (fun x => { x with gateEn := false, gateBeh := beh })))

/-! ### Droop pressure (R157) -/

/-- Cores of a quadrant: two clusters. -/
def quadCores (d q : Nat) : List Nat := (List.range 32).map (fun i => d * 128 + q * 32 + i)

/-- DROOP_PRESSURE_CHANGE. -/
def execDroopPressureChange (d : Bool) (q : BitVec 2) (on : Bool) (s : State) : Host.Outcome State Fault Refusal :=
  .next ((quadCores (b2n d) q.toNat).foldl (fun t k => t.modCore k (fun c => { c with press := on })) s)

/-! ### The clock that a crew needs (R195, R197), in MHz -/

/-- C[n]: mean cycles per tile. -/
def Node.cost (x : Node) : Option Rat := x.mean.map (fun m => (m.1 : Rat) / m.2)

/-- Tiles neither completed nor removed by a skip. -/
def Node.left (x : Node) : Nat := if x.complete then 0 else x.tiles - x.doneT.length

/-- A clock beyond every step of the master clock stands for an infinite need. -/
def needMax : Rat := 1000000

/-- f_need of a sequencer in RUN: D is the absolute deadline of the step, g the guard time in ns, p the members. -/
def Seq.needs (q : Seq) (dl g now p : Nat) : Rat :=
  if dl = 0 then 1250
  else if q.nodes.any (fun x => decide (0 < x.left) && x.cost.isNone) then 1600
  else
    let pred : Rat := (q.nodes.map (fun x => match x.cost with
      | some c => c * x.doneT.length
      | none => 0)).foldl (· + ·) 0
    let act : Rat := (q.nodes.map (fun x => match x.cost with
      | some _ => (x.cyc : Rat)
      | none => 0)).foldl (· + ·) 0
    let factor : Rat := if pred = 0 then 1 else act / pred
    let left : Rat := factor * (q.nodes.map (fun x => match x.cost with
      | some c => c * x.left
      | none => 0)).foldl (· + ·) 0
    let avail : Int := (dl : Int) - g - now
    if avail ≤ 0 then needMax else left / ((p : Rat) * avail) * 1000

/-- GOV_CTL's fields (R194). -/
def Head.govPeriod (h : Head) : Nat := max 1 (bf h.govCtl 47 40)
def Head.govLower (h : Head) : Nat := max 1 (bf h.govCtl 39 36)
def Head.govGuardNs (h : Head) : Nat := bf h.govCtl 31 16 * 1000
def Head.govPlim (h : Head) : Nat := min 1800 (bf h.govCtl 15 4)
def Head.govEn (h : Head) : Bool := wb h.govCtl 0

/-- A fraction as a pair of naturals. -/
def ratPair (r : Rat) : Nat × Nat := (r.num.toNat, r.den)

/-- Evaluate the sequencer of a die: its need where it runs a step. -/
def State.evalSeq (s : State) (d : Nat) : State :=
  let q := (s.die d).seq
  match s.seqCrew d with
  | some w =>
    if q.st = .run ∧ w.st = .running then
      let n := q.needs (s.seqDeadline d).toNat s.head.govGuardNs s.time.toNat (w.size + 1)
      s.modSeq d (fun x => { x with need := some (ratPair n) })
    else s
  | none => s

/-- The clock that a crew asks for. -/
def State.crewNeed (s : State) (w : Crew) : Rat :=
  match s.seqDie w.id with
  | some d =>
    (match (s.die d).seq.need with
     | some n => (n.1 : Rat) / n.2
     | none => 1250)
  | none => 1250

/-- The requirement of a cluster: the largest need of the crews that have members there and are not pre-empted. -/
def State.clusterNeed (s : State) (cl : Nat) : Option Rat :=
  (s.crews.filter (fun w => w.holding && w.clusters.contains cl)).foldl (fun o w =>
    let n := s.crewNeed w
    match o with
    | some m => some (if m < n then n else m)
    | none => some n) none

/-! ### Points (R192, R193, R196) -/

/-- The governor's pattern of popcount p. -/
def patOf (p : Nat) : BitVec 16 :=
  BitVec.ofNat 16 (((List.range 16).map (fun i => if i * p / 16 < (i + 1) * p / 16 then 2 ^ i else 0)).sum)

/-- A pre-empted crew has its members in a cluster. -/
def State.pausedIn (s : State) (cl : Nat) : Bool := s.crews.any (fun w => decide (w.st = .preempted) && w.clusters.contains cl)

/-- The master clock that a cluster asks for. -/
def State.clusterMaster (s : State) (cl : Nat) : Rat :=
  match s.clusterNeed cl with
  | none => 0
  | some f => if s.exactIn cl then f * 16 / popPat (s.cluster cl).xact else f

/-- The lowest step from 900 to 1,600 MHz that is at least a clock; the highest where none is. -/
def clockStep (f : Rat) : Nat :=
  match ((List.range 29).map (fun (i : Nat) => (900 + 25 * i : Nat))).find? (fun (m : Nat) => decide (f ≤ (m : Rat))) with
  | some m => m
  | none => 1600

/-- The master clock that a quadrant's two clusters call for. -/
def State.quadClock (s : State) (i : Nat) : Nat := max (clockStep (s.clusterMaster (2 * i))) (clockStep (s.clusterMaster (2 * i + 1)))

/-- Change a quadrant, 0 to 7. -/
def State.modQuad (s : State) (i : Nat) (f : Quad → Quad) : State :=
  s.modDie (i / 4) (fun d => { d with quads := modAt f (i % 4) d.quads })

/-- Ask for a point: the clock and its fused minimum supply. -/
def State.setPoint (s : State) (i mhz mv : Nat) : State :=
  s.modQuad i (fun q => { q with mhzT := mhz, mvT := mv, ramp := decide (q.mhz ≠ mhz) || decide (q.mv ≠ mv) })

/-- A quadrant's evaluation: raised at once, lowered after LOWER evaluations that agree; above the power limit never raised. -/
def State.evalQuad (s : State) (high : Bool) (i : Nat) : State :=
  let q := s.quad i
  let m := if high then min q.mhzT (s.quadClock i) else s.quadClock i
  if q.mhzT < m then (s.setPoint i m (Config.fusedMinMv i m)).modQuad i (fun x => { x with lower := 0 })
  else if m < q.mhzT then
    if s.head.govLower ≤ q.lower + 1 then (s.setPoint i m (Config.fusedMinMv i m)).modQuad i (fun x => { x with lower := 0 })
    else s.modQuad i (fun x => { x with lower := x.lower + 1 })
  else (s.setPoint i m (Config.fusedMinMv i m)).modQuad i (fun x => { x with lower := 0 })

/-- The quadrant with the highest clock, the lowest number among equals. -/
def State.topQuad (s : State) : Nat :=
  (List.range 8).foldl (fun b i => if (s.quad b).mhzT < (s.quad i).mhzT then i else b) 0

/-- Above the power limit the highest quadrant comes down by 25 MHz. -/
def State.shave (s : State) : State :=
  let i := s.topQuad
  let m := max 900 ((s.quad i).mhzT - 25)
  s.setPoint i m (Config.fusedMinMv i m)

/-- The pattern of a cluster at its quadrant's clock. In a cluster that a running exact-mode crew shares with a pre-empted one, XPAT comes
before the all-ones pattern (R191 against R165 and R196: DEDUCED, log entry 57). -/
def State.clusterPat (s : State) (cl : Nat) : BitVec 16 :=
  if s.exactIn cl then (s.cluster cl).xact
  else if s.pausedIn cl then 0xFFFF
  else
    match s.clusterNeed cl with
    | none => patOf 4
    | some f =>
      let m := (s.quad (cl / 2)).mhzT
      patOf ((((List.range 13).map (fun i => 4 + i)).find? (fun p => decide (f ≤ (m * p : Nat) / (16 : Rat)))).getD 16)

/-- Every cluster takes its pattern. -/
def State.setPatterns (s : State) : State :=
  (List.range 16).foldl (fun t cl => t.modCluster cl (fun c => { c with pat := s.clusterPat cl })) s

/-! ### Deadline risk (R198) -/

/-- The effective clock of a cluster at the point asked for, in MHz. -/
def State.effClock (s : State) (cl : Nat) : Rat := ((s.quad (cl / 2)).mhzT * popPat (s.cluster cl).pat : Nat) / (16 : Rat)

/-- A sequencer's step, evaluated in RUN with a deadline, cannot be met: the risk is raised once per step. -/
def State.judgeRisk (s : State) (d : Nat) : State :=
  let q := (s.die d).seq
  match s.seqCrew d with
  | some w =>
    if q.st = .run ∧ w.st = .running ∧ !q.riskDone ∧ s.seqDeadline d ≠ 0 ∧
        w.clusters.any (fun cl => decide (s.effClock cl < s.crewNeed w)) then
      let t := (s.modSeq d (fun x => { x with riskDone := true })).modDie d (fun x => { x with risk := true })
      t.msi (msiAddr s.head.govMsia) (msiId s.head.govMsid)
    else s
  | none => s

/-! ### The evaluation -/

/-- The meters: the package's energy over the period at the power measured; each die's share is a measurement, and so are the toggles
avoided on its interfaces, whose beats no step of the model carries, and the sectors of zeros among what the die moves without an
access of a unit, a PCIe device or an application core (walks, scrubs, records). The sectors of the accesses are counted as they move (State.elide;
R77 to R79, R199; log entry 37). -/
def State.meter (s : State) (watts : Nat) : State :=
  let n := s.free
  let v (i j : Nat) : Word := Config.openValue (n + 5 * i + j)
  { (s.modHead (fun h => { h with energy := h.energy + BitVec.ofNat 64 (watts * h.govPeriod * 1000) })) with
    dies := (List.range s.dies.length).map (fun i => let d := s.dies.getD i Die.reset
      { d.credit (ifEnergy (v i 1).toNat (v i 2).toNat (v i 3).toNat (v i 4).toNat) with energy := d.energy + v i 0 })
    free := n + 5 * s.dies.length }

/-- With EN = 0 every quadrant is held at 350 mV and 1,250 MHz, and every pattern is all ones, that of an exact-mode crew's clusters too
(R194 against R191: DEDUCED, log entry 57). -/
def State.govOff (s : State) : State :=
  { (List.range 8).foldl (fun t i => t.setPoint i 1250 350) s with
    clusters := s.clusters.map (fun c => { c with pat := 0xFFFF }) }

/-- GOV_EVALUATE with the package power over the last period; in reduced service the governor evaluates nothing (R396). When a change of
GOV_CTL.EN takes effect is not given: here at the next evaluation, up to which points and patterns stay as they are, those of exact-mode
clusters included (DESIGN CHOICE, log entry 74). A power equal to PLIM neither exceeds it nor lies below it: here no quadrant is lowered at
it (DESIGN CHOICE, log entry 62). -/
def execGovEvaluate (watts : Nat) (s : State) : Host.Outcome State Fault Refusal :=
  let s0 := s.meter watts
  if s.head.held then .next s0
  else if !s.head.govEn then .next s0.govOff
  else
    let high := decide (s.head.govPlim < watts)
    let s1 := (s0.evalSeq 0).evalSeq 1
    let s2 := (List.range 8).foldl (fun t i => t.evalQuad high i) s1
    let s3 := if high then s2.shave else s2
    .next ((s3.setPatterns.judgeRisk 0).judgeRisk 1)

/-- QUADRANT_RAMP_DONE: on a raise the supply arrives before the clock, on a lowering the clock before the supply (R192). -/
def execQuadrantRampDone (d : Bool) (q : BitVec 2) (s : State) : Host.Outcome State Fault Refusal :=
  .next (s.modQuad (b2n d * 4 + q.toNat) (fun x =>
    if !x.ramp then x
    else
      let y := if x.mhz < x.mhzT then (if x.mv ≠ x.mvT then { x with mv := x.mvT } else { x with mhz := x.mhzT })
        else if x.mhz ≠ x.mhzT then { x with mhz := x.mhzT } else { x with mv := x.mvT }
      { y with ramp := decide (y.mhz ≠ y.mhzT) || decide (y.mv ≠ y.mvT) }))

end Sys2Proof.Machine
end

