-- ==== Sys2Proof/Machine/Debug.lean ====
section
/-!
DEFINITION. Debugger access to a context (R53, R170 to R172), the heap-window registers (R29 to R32), and the error log, its
injection and the patrol scrub (R82 to R84).
-/

namespace Sys2Proof.Machine

/-! ### CX_CTL (R170) -/

/-- CX_CTL.STAT. -/
def Ctx.stat (c : Ctx) : Nat :=
  match c.mode with
  | .empty => 3
  | .trapped | .group => 1
  | .debug => 2
  | .running => if decide (0 < c.stallCnt) && c.held then 4 else 0
  | .suspending _ | .barrier _ _ | .fuseWait _ | .rejoinWait => 4

/-- CX_RESUME: the parked context issues the bundle at CX_PC, a breakpoint there included. -/
def execCxResume (k r : Nat) (s : State) : Host.Outcome State Fault Refusal :=
  let t := s.wake k
  .next (if (s.ctx k r).parked then (t.resumeTrap k r).modCtx k r (fun c => { c with skipBrk := true }) else t)

/-- CX_STEP: one bundle issues, then the context parks with cause DEBUG. -/
def execCxStep (k r : Nat) (s : State) : Host.Outcome State Fault Refusal :=
  let t := s.wake k
  .next (if (s.ctx k r).parked then
      (t.resumeTrap k r).modCtx k r (fun c => { c with skipBrk := true, stepOne := true }) else t)

/-- CX_STOP: a context that is neither parked nor absent parks at its next boundary. -/
def execCxStop (k r : Nat) (s : State) : Host.Outcome State Fault Refusal :=
  let t := s.wake k
  .next (if (s.ctx k r).parked || decide ((s.ctx k r).mode = .empty) then t else t.postCond k r ⟨.debug, 0, 0, none⟩)

/-- CX_KILL: a parked context ends as by HALT, and a queue that its failure halted goes on. -/
def execCxKill (k r : Nat) (s : State) : Host.Outcome State Fault Refusal :=
  let t := s.wake k
  let c := s.ctx k r
  .next (if c.parked then (t.endCtx k r c.regs.pc c.regs.tick).unhaltAll c.uid else t)

/-! ### CX_DSEL and CX_DDATA (R171, R172) -/

/-- The 64-bit piece i of a value. -/
def piece64 {w : Nat} (v : BitVec w) (i : Nat) : Word := v.extractLsb' (64 * i) 64

/-- A value with its 64-bit piece i replaced. -/
def putPiece {w : Nat} (v : BitVec w) (i : Nat) (x : Word) : BitVec w :=
  (v &&& ~~~((0xFFFFFFFFFFFFFFFF#64).setWidth w <<< (64 * i))) ||| (x.setWidth w <<< (64 * i))

/-- The element that CX_DSEL names: class, index, piece. -/
structure DSel where
  cls : Nat
  index : Nat
  piece : Nat

def Ctx.sel (c : Ctx) : DSel := ⟨bf c.dsel 23 20, bf c.dsel 19 8, bf c.dsel 7 0⟩

/-- A tile row as the context names it: its key, where it exists (R144). -/
def State.selTile (s : State) (k r i : Nat) : Option Nat :=
  if s.split? (s.ctx k r).crew then (if i < 256 then some (i + 256 * r) else none) else if i < 512 then some i else none

/-- A quarter of an accumulator row as the context names it, with its piece. -/
def State.selAcc (s : State) (k r i p : Nat) : Option Nat :=
  if s.split? (s.ctx k r).crew then (if i < 256 ∧ p < 64 then some ((i + 256 * r) * 4 + p / 16) else none)
  else if i < 512 ∧ p < 64 then some (i * 4 + p / 16) else none

/-- A value of a ring of four, zero past its end. -/
def ringGet {w : Nat} (l : List (BitVec w)) (n : Nat) : BitVec w := l.getD n 0

/-- Latch n of a slot, by the slot's number in header order. -/
def Rings.latch (g : Rings) (u n : Nat) : Row :=
  match u with
  | 0 => (ringGet g.c n).setWidth 1024
  | 1 => (ringGet g.i n).setWidth 1024
  | 2 => (ringGet g.l n).setWidth 1024
  | 3 => ringGet g.v0 n
  | 4 => ringGet g.v1 n
  | 5 => ringGet g.x n
  | 6 => ringGet g.m n
  | _ => (ringGet g.e n).setWidth 1024

/-- Bits of a slot's latches. -/
def latchBits (u : Nat) : Nat := if 3 ≤ u ∧ u ≤ 6 then 1024 else 64

/-- A ring of four with one value replaced. -/
def ringPut {w : Nat} (l : List (BitVec w)) (n : Nat) (v : BitVec w) : List (BitVec w) :=
  (List.range 4).map (fun i => if i = n then v else ringGet l i)

/-- A slot's latch n replaced. -/
def Rings.putLatch (g : Rings) (u n : Nat) (v : Row) : Rings :=
  match u with
  | 0 => { g with c := ringPut g.c n (v.setWidth 64) }
  | 1 => { g with i := ringPut g.i n (v.setWidth 64) }
  | 2 => { g with l := ringPut g.l n (v.setWidth 64) }
  | 3 => { g with v0 := ringPut g.v0 n v }
  | 4 => { g with v1 := ringPut g.v1 n v }
  | 5 => { g with x := ringPut g.x n v }
  | 6 => { g with m := ringPut g.m n v }
  | _ => { g with e := ringPut g.e n (v.setWidth 64) }

/-- The storage words under the selected piece. -/
def State.selWords (s : State) (k r : Nat) : List (Nat × Nat × Nat) :=
  let e := (s.ctx k r).sel
  if e.cls = 3 ∧ e.piece < 16 then
    (match s.selTile k r e.index with
     | some i => [(k / 128, 0, coreLoc k (i * 128 + 8 * e.piece))]
     | none => [])
  else if e.cls = 4 then
    (match s.selAcc k r e.index e.piece with
     | some i => [(k / 128, 1, coreLoc k (i * 128 + 8 * (e.piece % 16)))]
     | none => [])
  else []

/-- The selected piece. The layouts of the loop state and of a landing-buffer entry are not given, so their pieces are free
values. -/
def State.selGet (s : State) (k r : Nat) : Word :=
  let c := s.ctx k r
  let e := c.sel
  match e.cls with
  | 0 => if e.index < 32 ∧ e.piece = 0 then c.regs.getS (BitVec.ofNat 5 e.index) else 0
  | 1 => if e.piece = 0 then (c.regs.p ||| 1#8).setWidth 64 else 0
  | 2 =>
    if e.index < 32 ∧ 64 * e.piece < latchBits (e.index / 4) then piece64 (c.regs.rings.latch (e.index / 4) (e.index % 4)) e.piece
    else 0
  | 3 =>
    (match s.selTile k r e.index with
     | some i => if e.piece < 16 then piece64 (Tab.get (s.core k).tiles i) e.piece else 0
     | none => 0)
  | 4 =>
    (match s.selAcc k r e.index e.piece with
     | some i => piece64 (Tab.get (s.core k).acc i) (e.piece % 16)
     | none => 0)
  | 5 => if e.index < 8 ∧ e.piece < 8 then piece64 (Tab.get (s.core k).scales e.index) e.piece else 0
  | 6 => if e.index < 16 ∧ e.piece = 0 then Tab.get (s.core k).steps e.index else 0
  | 7 | 8 => Config.openValue s.free
  | _ => 0

/-- The write of the selected piece: the architectural element only (R172). -/
def State.selPut (s : State) (k r : Nat) (v : Word) : State :=
  let e := (s.ctx k r).sel
  match e.cls with
  | 0 => if e.index < 32 ∧ e.piece = 0 then s.modRegs k r (fun g => g.setS (BitVec.ofNat 5 e.index) v) else s
  | 1 => if e.piece = 0 then s.modRegs k r (fun g => { g with p := v.setWidth 8 ||| 1#8 }) else s
  | 2 =>
    if e.index < 32 ∧ 64 * e.piece < latchBits (e.index / 4) then
      s.modRegs k r (fun g =>
        let x := putPiece (g.rings.latch (e.index / 4) (e.index % 4)) e.piece v
        { g with rings := g.rings.putLatch (e.index / 4) (e.index % 4) x })
    else s
  | 3 =>
    (match s.selTile k r e.index with
     | some i =>
       if e.piece < 16 then
         (s.modCore k (fun c => { c with tiles := Tab.set c.tiles i (putPiece (Tab.get c.tiles i) e.piece v) })).clearUpsets (s.selWords k r)
       else s
     | none => s)
  | 4 =>
    (match s.selAcc k r e.index e.piece with
     | some i =>
       (s.modCore k (fun c => { c with acc := Tab.set c.acc i (putPiece (Tab.get c.acc i) (e.piece % 16) v) })).clearUpsets (s.selWords k r)
     | none => s)
  | 5 =>
    if e.index < 8 ∧ e.piece < 8 then
      s.modCore k (fun c => { c with scales := Tab.set c.scales e.index (putPiece (Tab.get c.scales e.index) e.piece v) })
    else s
  | 6 => if e.index < 16 ∧ e.piece = 0 then s.modCore k (fun c => { c with steps := Tab.set c.steps e.index v }) else s
  | 7 =>
    let n := s.free
    { (s.modRegs k r (fun g => { g with loops := modAt (fun l => { l with
        iter := (Config.openValue n).toNat, left := (Config.openValue (n + 1)).toNat }) e.index g.loops })) with
      free := n + 2 }
  | _ => s

/-- CX_DDATA_WRITE: ignored while the context is not parked. -/
def execCxDdataWrite (k r : Nat) (v : Word) (s : State) : Host.Outcome State Fault Refusal :=
  let t := s.wake k
  .next (if (s.ctx k r).parked then t.selPut k r v else t)

/-! ### What is in flight (R53) -/

/-- The bit of CORE_DPEND that a pending destination sets. -/
def LandDst.pend (d : LandDst) : Nat :=
  match d with
  | .scal n => if n.toNat = 0 then 0 else 2 ^ n.toNat
  | .pred n => if n.toNat = 0 then 0 else 2 ^ (32 + n.toNat)
  | .tile _ t _ _ => 2 ^ (40 + t.toNat)
  | .acc i => 2 ^ (56 + i / 512 % 4)
  | .scale _ | .scaleEl _ _ => 2 ^ 60
  | .spad _ => 2 ^ 61
  | .none | .csr _ | .mp _ => 0

/-- CORE_DPEND. -/
def Ctx.dpend (c : Ctx) : Word := BitVec.ofNat 64 (c.landing.foldl (fun m e => m ||| e.dst.pend) 0)

/-- CORE_DLBN. -/
def Ctx.dlbn (c : Ctx) : Word := BitVec.ofNat 64 c.landing.length

/-! ### The heap-window registers (R29 to R32) -/

/-- CX_HCTL_WRITE: EN = 1 is accepted only for a window that passes the checks of R30. -/
def execCxHctlWrite (k r : Nat) (v : Word) (s : State) : Host.Outcome State Fault Refusal :=
  .next ((s.wake k).modCtx k r (fun c =>
    let x : Xlat := { c.xl with hctl := v &&& 6#64 }
    let y : Xlat :=
      if !wb v 0 then { x with hctl := x.hctl ||| (c.xl.hctl &&& 8#64) }
      else if x.windowOk then { x with hctl := x.hctl ||| 1#64 } else { x with hctl := x.hctl ||| 8#64 }
    { c with xl := y }))

/-- HEAP_WINDOW_REG_WRITE of CX_HB (0), CX_HL (1) or CX_HO (2): an active window is checked again. -/
def execHeapWindowRegWrite (k r : Nat) (which : BitVec 2) (v : Word) (s : State) : Host.Outcome State Fault Refusal :=
  .next ((s.wake k).modCtx k r (fun c =>
    let y : Xlat := match which.toNat with
      | 0 => ({ c.xl with hb := v &&& 0x00FFFFFFFFFF0000#64 } : Xlat).checked
      | 1 => ({ c.xl with hl := v &&& 0x0000FFFFFFFF0000#64 } : Xlat).checked
      | 2 => ({ c.xl with ho := v &&& 0xFFFFFFFFFFFF0000#64 } : Xlat).checked
      | _ => c.xl
    { c with xl := y }))

/-! ### Error logs and injection (R82 to R84) -/

/-- The array exists and the word is one of the die's: the injection may be armed (R84, R375). -/
def injOk (d : Nat) (v : Word) : Bool :=
  decide (bf v 61 56 ≤ 11) &&
    decide ((if 5 ≤ bf v 61 56 ∧ bf v 61 56 ≤ 7 then (memLoc (bf v 51 0)).1 else bf v 39 39) = d)

/-- A position that the injection would invert is above 71; the second one is asked for only with DOUBLE (log entry 36). -/
def injPosBad (v pos : Word) : Bool := decide (71 < bf pos 6 0) || (wb v 62 && decide (71 < bf pos 14 8))

/-- The fields of ERR_INJ. -/
def injMask : Word := 0xFF0FFFFFFFFFFFFF

/-- ERR_INJ (R84): a write that would arm a position above 71 is ignored whole; one whose array does not exist or whose word is one of the
other die's leaves ARM at 0 (R375). -/
def execErrInj (d : Bool) (v : Word) (s : State) : Host.Outcome State Fault Refusal :=
  let i := b2n d
  let x := v &&& injMask
  if wb x 63 && injPosBad x (s.die i).injPos then .next s
  else .next (s.modDie i (fun y => { y with inj := if wb x 63 && !injOk i x then putField x 63 63 0 else x }))

/-- ERR_INJ_PERFORM: the armed word is written, with the data that it holds and its positions inverted, and ARM clears. A write by a step of
the machine performs the injection itself; the event is a write by any other agent (log entry 21). -/
def execErrInjPerform (d : Bool) (s : State) : Host.Outcome State Fault Refusal :=
  let x := s.die (b2n d)
  let ls := [(b2n d, bf x.inj 61 56, bf x.inj 51 3 * 8)]
  .next (if wb x.inj 63 then s.clearUpsets ls else s)

/-- The log with a lower count, the oldest records dropped, and the bits of OVF cleared that are written as ones, as every field W1CP has it
(R8): all ones clear it whole. What the words of a dropped record's place read is not given: here the record is gone and they read zero
(DESIGN CHOICE, log entry 61). Nor is a write of a higher COUNT than the log's: it keeps the count here (DESIGN CHOICE, log entry 61). -/
def ErrLog.written (l : ErrLog) (v : Word) : ErrLog :=
  let n := min l.count (bf v 12 8)
  { l with
    ovf := (BitVec.ofNat 32 l.ovf &&& ~~~(BitVec.ofNat 32 (bf v 63 32))).toNat
    count := n
    recs := l.recs.filter (fun e => decide ((l.head + 15 - e.1) % 16 < n)) }

/-- ERR_LSTAT_WRITE. -/
def execErrLstatWrite (d : Bool) (a : BitVec 4) (v : Word) (s : State) : Host.Outcome State Fault Refusal :=
  .next (s.modDie (b2n d) (fun x => { x with logs := modAt (·.written v) a.toNat x.logs }))

/-- ERR_LSTAT. -/
def ErrLog.lstat (l : ErrLog) : Word := BitVec.ofNat 64 (l.ovf * 2 ^ 32 + l.count * 2 ^ 8 + l.head)

/-- The scrub period of a die has passed since its last sweep; a period of 0 stops the scrub (R82). When the first sweep after reset comes is
not given, only the period: here it may come at once (DESIGN CHOICE, log entry 73). -/
def State.scrubDue (s : State) (d : Nat) : Bool :=
  let x := s.die d
  decide (x.scrub ≠ 0) && (match x.scrubAt with
    | some t => decide (x.scrub.toNat * 1000000000 ≤ (s.time - t).toNat)
    | none => true)

/-- One sweep of a die: every word of its latent seam and HBM4E is read, single errors are corrected, uncorrectable words stay. -/
def State.scrubDie (s : State) (d : Nat) : State :=
  if s.scrubDue d then
    (s.meetUpsets ((s.upsets.filter (fun u => (decide (u.array = 5) || decide (u.array = 7)) && decide (u.die = d))).map
      (fun u => (u.die, u.array, u.loc))) none).modDie d (fun x => { x with scrubAt := some s.time })
  else s

/-- PATROL_SCRUB: each die whose scrub period has come is swept once (R82). -/
def execPatrolScrub (s : State) : Host.Outcome State Fault Refusal := .next ((s.scrubDie 0).scrubDie 1)

end Sys2Proof.Machine
end

