-- ==== Sys2Proof/Machine/Digest.lean ====
section
/-!
DEFINITION. SHA3-512 (R386, R388): FIPS 202 names the function and is outside the manual; its permutation and padding are taken
from there (PRESUMED, log entry 6). The 1,600 bits stand here as five sheets of one row of five words each, so that a step along a row
is a rotation of the sheet by whole words; no table of constants or offsets is kept: both come from their generating rules.
-/

namespace Sys2Proof.Machine

/-- One sheet: five words side by side, the first in the low bits. -/
abbrev Sheet := BitVec 320

/-- Word x of a sheet. -/
def Sheet.word (p : Sheet) (x : Nat) : Word := p.extractLsb' (64 * x) 64

/-- A sheet with one word put in by exclusive or. -/
def Sheet.mix (p : Sheet) (x : Nat) (v : Word) : Sheet := p ^^^ (v.setWidth 320 <<< (64 * x))

/-- The exclusive or of all sheets, and of each word of it rotated by one bit: what two neighbouring columns spread. -/
def columnMix (st : List Sheet) : Sheet :=
  let par : Sheet := st.foldl (· ^^^ ·) 0#320
  let turned := (List.range 5).foldl (fun q x => Sheet.mix q x ((par.word x).rotateLeft 1)) 0#320
  par.rotateLeft 64 ^^^ turned.rotateRight 64

/-- One stop of the walk that carries the words of the state to their new places: the word at column x of sheet y goes, turned left by
the n-th triangular number, to column y of sheet 2 x + 3 y, where the walk goes on. -/
def carryWords : Nat → Nat → Nat → Nat → List Sheet → List Sheet → List Sheet
  | 0, _, _, _, _, out => out
  | fuel + 1, n, x, y, st, out =>
    let y' := (2 * x + 3 * y) % 5
    let v := ((st.getD y 0#320).word x).rotateLeft (n * (n + 1) / 2 % 64)
    carryWords fuel (n + 1) y y' st (out.modify y' (fun q => Sheet.mix q y v))

/-- A sheet in which each word has taken the next two of its row. -/
def nextTwo (p : Sheet) : Sheet := p ^^^ (~~~(p.rotateRight 64) &&& p.rotateRight 128)

/-- The next state of the shift register that generates the round constants: the feedback polynomial is
x^8 + x^6 + x^5 + x^4 + 1. -/
def roundReg (r : Nat) : Nat := if r < 128 then 2 * r else Nat.xor (2 * r) 0x171

/-- The round constant that the register's next seven low bits give, bit j at position 2^j - 1, and the register after them. -/
def roundConst (r : Nat) : Word × Nat :=
  (List.range 7).foldl
    (fun (a : Word × Nat) j => (if a.2.testBit 0 then a.1 ||| (1#64 <<< (2 ^ j - 1)) else a.1, roundReg a.2)) (0#64, r)

/-- The rounds of the permutation of 1,600 bits. -/
def permute : Nat → Nat → List Sheet → List Sheet
  | 0, _, st => st
  | n + 1, r, st =>
    let d := columnMix st
    let st := st.map (· ^^^ d)
    let start := (st.take 1).map (fun p => (p.word 0).setWidth 320) ++ List.replicate 4 0#320
    let (rc, r) := roundConst r
    permute n r (((carryWords 24 1 1 0 st start).map nextTwo).modify 0 (fun p => Sheet.mix p 0 rc))

/-- The state after one block of 72 bytes: it fills the first sheet and four words of the second. -/
def takeBlock (st : List Sheet) (b : List Byte) : List Sheet :=
  let v := ofBytes 640 b
  permute 24 1 (List.zipWith (· ^^^ ·) st [v.setWidth 320, v.extractLsb' 320 320, 0#320, 0#320, 0#320])

/-- The state after n blocks. -/
def takeBlocks : Nat → List Byte → List Sheet → List Sheet
  | 0, _, st => st
  | n + 1, l, st => takeBlocks n (l.drop 72) (takeBlock st (l.take 72))

/-- The SHA3-512 digest of a byte string: the suffix 01 and the pad 1 0…0 1 fill the last block. -/
def sha3x512 (l : List Byte) : BitVec 512 :=
  let full := l.length / 72
  let free := 71 - l.length % 72
  let last := (0x06#8 :: List.replicate free 0#8).modify free (· ||| 0x80#8)
  let st := takeBlocks (full + 1) (l ++ last) (List.replicate 5 0#320)
  (st.getD 1 0#320).setWidth 512 <<< 320 ||| (st.getD 0 0#320).setWidth 512

end Sys2Proof.Machine
end

