-- ==== Sys2Proof/Machine/System.lean ====
section
/-!
DEFINITION. The command processors: submission queues, capabilities and packets (R380 to R385), the checks of a launch record
(R140), firmware and its hand-over (R386, R387), attestation (R388), and bring-up (R394 to R397).
-/

namespace Sys2Proof.Machine

/-! ### Capabilities (R381, R382) -/

def Cap.tag (c : Cap) : Bool := wb c.hi 63
def Cap.len (c : Cap) : Nat := bf c.hi 51 0
def Cap.base (c : Cap) : Nat := bf c.lo 51 0
/-- C, X, W, R as a four-bit number. -/
def Cap.perms (c : Cap) : BitVec 4 := BitVec.ofNat 4 (bf c.lo 55 52)

/-- Needs: R 1, W 2, X 4, C 8. -/
def Cap.permits (c : Cap) (need : BitVec 4) : Bool := c.perms &&& need == need

/-- A sealed range lies in HBM4E or in one die's slots, and is not empty. -/
def Cap.valid (c : Cap) : Bool := decide (1 ≤ c.len) && (inHbm c.base c.len || inSlots c.base c.len)

/-- SEAL. -/
def Cap.seal (c : Cap) : Cap := { c with hi := putField c.hi 63 63 (b2n c.valid) }

/-- A range lies in the capability with the permissions needed; a held bypass range is out of reach (R396). -/
def State.inCap (s : State) (c : Cap) (need : BitVec 4) (a n : Nat) : Bool :=
  c.tag && c.permits need && decide (c.base ≤ a) && decide (a + n ≤ c.base + c.len) && !s.heldAt a n

def Cpq.cap (c : Cpq) (i : Nat) : Cap := c.caps.getD i ⟨0, 0⟩

/-- The range of n bytes that a pointer names: its physical address. -/
def State.ptr (s : State) (c : Cpq) (p : Word) (need : BitVec 4) (n : Nat) : Option Nat :=
  let k := c.cap (bf p 63 61)
  if 2 ≤ bf p 63 61 ∧ bf p 60 52 = 0 ∧ s.inCap k need (k.base + bf p 51 0) n then some (k.base + bf p 51 0) else none

/-- A range named by its physical address lies in one data capability. -/
def State.named (s : State) (c : Cpq) (need : BitVec 4) (a n : Nat) : Bool :=
  (List.range 6).any (fun i => s.inCap (c.cap (i + 2)) need a n)

/-! ### Queues (R380, R383) -/

def Cpq.en (c : Cpq) : Bool := wb c.ctl 0
def Cpq.fwOk (c : Cpq) : Bool := wb c.ctl 2
def Cpq.prio (c : Cpq) : Nat := min 47 (bf c.ctl 13 8)
def Cpq.size (c : Cpq) : Nat := 2 ^ (min 12 (bf c.ctl 19 16) + 4)
def Cpq.csize (c : Cpq) : Nat := 2 ^ (min 12 (bf c.ctl 23 20) + 4)

/-- A ring's capability serves it. -/
def State.ringOk (s : State) (c : Cap) (need : BitVec 4) (n : Nat) : Bool := s.inCap c need c.base n

/-- A ring's capability does not serve it: no packet is taken. CPQ_STAT.CAPF shows it of an enabled queue, as its table gives it 0 at reset,
where every capability is untagged (R383; DEDUCED, log entry 75). -/
def State.capf (s : State) (c : Cpq) : Bool :=
  !s.ringOk (c.cap 0) 1 (c.size * 64) || !s.ringOk (c.cap 1) 2 (c.csize * 16)

/-- The completion ring is full. -/
def Cpq.cfull (c : Cpq) : Bool := decide (c.csize ≤ (c.ctail - c.chead).toNat)

/-- Address and doublewords of the next packet. -/
def Cpq.pktAt (c : Cpq) : Nat := (c.cap 0).base + c.head.toNat % c.size * 64
def State.pkt (s : State) (c : Cpq) : List Word := s.words8 c.pktAt

/-- A FWLOAD of the queue is in progress. -/
def State.loads (s : State) (q : Nat) : Bool := s.head.fw.loading.any (fun x => decide (x.1 = q))

/-- Packets of a queue that have not completed: launches in flight, the packet that waits, the image that loads. -/
def State.outstanding (s : State) (q : Nat) : Bool :=
  (s.cpq q).waitPkt.isSome || s.loads q || s.crews.any (fun w => decide (w.queue = q) && decide (w.st ≠ .done))

/-- The firmware of the command processors runs (R394). -/
def Head.fwRuns (h : Head) : Bool := decide (2 ≤ h.phase.toNat) && !(decide (h.phase = 7) && decide (h.fcode = 1)) && !h.fw.hover

/-- The next packet of a queue can be taken. -/
def State.ready (s : State) (q : Nat) : Bool :=
  let c := s.cpq q
  s.head.fwRuns && c.en && !c.halt && !s.capf c && decide (c.tail ≠ c.head) && c.waitPkt.isNone && !s.loads q &&
    !(wb (lrw (s.pkt c) 0) 8 && s.outstanding q)

/-- Place of a queue in its processor's rotation: the queue after the one served last comes first. -/
def State.rotKey (s : State) (q : Nat) : Nat := (q % 16 + 31 - s.head.rot.getD (q / 16) 15) % 16

/-- The queue whose turn it is at its command processor. -/
def State.turn (s : State) (q : Nat) : Bool :=
  s.ready q && (List.range 16).all (fun i =>
    let p := q / 16 * 16 + i
    !s.ready p || decide ((s.cpq p).prio < (s.cpq q).prio) ||
      (decide ((s.cpq p).prio = (s.cpq q).prio) && decide (s.rotKey q ≤ s.rotKey p)))

/-- The last queues served, one per processor. -/
def Head.served (h : Head) (q : Nat) : Head :=
  { h with rot := modAt (fun _ => q % 16) (q / 16) ((List.range 4).map (fun i => h.rot.getD i 15)) }

/-- How the work of a packet ends: performed and complete, performed and to complete later, refused, or stopped at an
uncorrectable word among some, which are met, so that the packet is not taken (R80, R81; log entry 69). -/
inductive Work
  | done (s : State)
  | later (s : State)
  | fail (e : Ending)
  | stuck (ls : List (Nat × Nat × Nat))

/-- BADPACKET and CAPFAULT at a doubleword of the packet. -/
def badPacket (w : Nat) : Work := .fail ⟨1, w, 0⟩
def capFault (w : Nat) : Work := .fail ⟨2, w, 0⟩
def seamFullAt (w : Nat) : Work := .fail ⟨7, w, 0⟩

/-- Fields of P0. -/
def pktTag (p : List Word) : BitVec 32 := BitVec.ofNat 32 (bf (lrw p 0) 63 32)
def pktCmpl (p : List Word) : Bool := wb (lrw p 0) 9
def pktType (p : List Word) : Nat := bf (lrw p 0) 7 0

/-- The first doubleword that breaches R384: other bits of P0, or an unused doubleword that is not zero. -/
def pktBreach (p : List Word) (used : List Nat) : Option Nat :=
  if bf (lrw p 0) 31 10 ≠ 0 then some 0 else ((List.range 8).filter (fun i => i ≠ 0 && !used.contains i)).find? (fun i => lrw p i ≠ 0)

/-- Take the next packet of a queue when it has the type; used names the doublewords that the type uses beside P0. A packet of
an unknown type is taken as type 0 is, and is a BADPACKET. -/
def State.packet (s : State) (q ty : Nat) (used : List Nat) (f : State → Cpq → List Word → BitVec 32 → Work) :
    Host.Outcome State Fault Refusal :=
  let c := s.cpq q
  match (if s.turn q then s.touch c.pktAt 64 none else none) with
  | none => .next s
  | some s0 =>
    let p := s0.pkt c
    if s0.ueAt (memLocs c.pktAt 64) then .next (s.meetUpsets (memLocs c.pktAt 64) none)
    else if pktType p ≠ ty ∧ !(decide (ty = 0) && decide (6 < pktType p)) then .next s
    else
      let s1 := ((s0.meetUpsets (memLocs c.pktAt 64) none).modCpq q (fun x => { x with head := x.head + 1 })).modHead (·.served q)
      let finish (e : Ending) (t : State) : Host.Outcome State Fault Refusal :=
        .next (t.complete q (pktTag p) (pktCmpl p) c.head e)
      if 6 < pktType p then finish ⟨1, 0, 0⟩ s1
      else
        match pktBreach p used with
        | some w => finish ⟨1, w, 0⟩ s1
        | none =>
          match f s1 c p c.head with
          | .done t => finish Ending.ok t
          | .later t => .next t
          | .fail e => finish e s1
          | .stuck ls => .next (s.meetUpsets ls none)

/-- A command processor's read: a touch, single errors corrected. -/
def State.cpRead (s : State) (a n w : Nat) (f : State → List Byte → Work) : Work :=
  match s.touch a n none with
  | none => seamFullAt w
  | some t => if t.ueAt (memLocs a n) then .stuck (memLocs a n) else f ((t.meetUpsets (memLocs a n) none).elide none a n) (t.read a n)

/-- Its write at the home copy. -/
def State.cpWrite (s : State) (a w : Nat) (bs : List Byte) : Work :=
  match s.poke none a bs with
  | some t => .done (t.elide none a bs.length)
  | none => seamFullAt w

/-- CPQ_DOORBELL. -/
def execCpqDoorbell (q : BitVec 6) (v : BitVec 32) (s : State) : Host.Outcome State Fault Refusal :=
  .next (s.modCpq q.toNat (fun c => { c with tail := v }))

/-- CPQ_RESUME: a write of RESUME = 1. -/
def execCpqResume (q : BitVec 6) (s : State) : Host.Outcome State Fault Refusal :=
  .next (s.modCpq q.toNat (fun c => { c with halt := false }))

/-- CPQ_CAP_SEAL: a write of SEAL = 1. -/
def execCpqCapSeal (q : BitVec 6) (i : BitVec 3) (s : State) : Host.Outcome State Fault Refusal :=
  .next (s.modCpq q.toNat (fun c => { c with caps := modAt Cap.seal i.toNat c.caps }))

/-! ### NOP, WRITE, WAIT -/

/-- NOP. -/
def execNop (q : BitVec 6) (s : State) : Host.Outcome State Fault Refusal := s.packet q.toNat 0 [] (fun t _ _ _ => .done t)

/-- WRITE. -/
def execWrite (q : BitVec 6) (s : State) : Host.Outcome State Fault Refusal :=
  s.packet q.toNat 3 [1, 2] (fun t c p _ =>
    match t.ptr c (lrw p 1) 2 8 with
    | none => capFault 1
    | some a => if a % 8 ≠ 0 then badPacket 1 else t.cpWrite a 1 (toBytes 8 (lrw p 2)))

/-- WAIT: later packets of the queue wait behind it. -/
def execWait (q : BitVec 6) (s : State) : Host.Outcome State Fault Refusal :=
  s.packet q.toNat 4 [1, 2, 3] (fun t c p _ =>
    match t.ptr c (lrw p 1) 1 8 with
    | none => capFault 1
    | some a =>
      if a % 8 ≠ 0 then badPacket 1
      else if (Wc.dec (bf (lrw p 3) 2 0)).isNone then badPacket 3
      else .later (t.modCpq q.toNat (fun x => { x with waitPkt := some p })))

/-- WAIT_PACKET_COMPLETE: the condition of the packet that waits holds at the home copy. -/
def execWaitPacketComplete (q : BitVec 6) (s : State) : Host.Outcome State Fault Refusal :=
  let c := s.cpq q.toNat
  match c.waitPkt with
  | none => .next s
  | some p =>
    let fin (e : Ending) (t : State) : Host.Outcome State Fault Refusal :=
      .next ((t.modCpq q.toNat (fun x => { x with waitPkt := none })).complete q.toNat (pktTag p) (pktCmpl p) (c.head - 1) e)
    if s.head.fw.hover then .next s
    else
      match s.ptr c (lrw p 1) 1 8, Wc.dec (bf (lrw p 3) 2 0) with
      | some a, some cc =>
        (match s.touch a 8 none with
         | none => fin ⟨7, 1, 0⟩ s
         | some t =>
           let u := t.meetUpsets (memLocs a 8) none
           if t.ueAt (memLocs a 8) || !wcHolds cc (t.read64 a) (lrw p 2) then .next u else fin Ending.ok u)
      | _, _ => fin ⟨2, 1, 0⟩ s

/-! ### LAUNCH: the checks of R140 -/

/-- A check of a launch record: the word named by the first that fails. -/
abbrev Check := Option Nat

def checkIf (ok : Bool) (w : Nat) : Check := if ok then none else some w

/-- The first check that fails. -/
def firstFail : List Check → Check
  | [] => none
  | c :: l =>
    match c with
    | some w => some w
    | none => firstFail l

/-- Word that holds a level's descriptor. -/
def levWord (j : Nat) : Nat := if j < 4 then 10 else 11

def levScope (d : Nat) : Nat := d / 1024 % 8

/-- Largest extent product of a domain (R139). -/
def levMax (dom : Nat) : Nat :=
  match dom with
  | 0 | 3 => 4
  | 1 => 1
  | 2 => 2
  | 4 => 16
  | 5 => 128
  | 6 => 256
  | _ => 1024

/-- Physical cores in an instance of a domain. -/
def domCores (dom : Nat) : Nat := if dom ≤ 6 then levMax dom else 256

/-- Check 1: reserved fields, in the order of their words. -/
def chkReserved (l : List Word) : Check :=
  let spare (w : Nat) : Bool := (List.range 8).all (fun j => decide (levWord j ≠ w) || decide (j < nlev l) || decide (levelDesc l j = 0))
  firstFail [checkIf (bf (lrw l 0) 9 8 = 0 && bf (lrw l 0) 4 0 = 0) 0, checkIf (bf (lrw l 1) 51 0 = 0) 1, checkIf (spare 10) 10,
    checkIf (spare 11) 11, checkIf (lrw l 23 = 0) 23]

/-- Check 2. -/
def chkPrio (l : List Word) : Check :=
  firstFail [checkIf (decide (bf (lrw l 0) 15 10 ≤ 47) && decide (bf (lrw l 0) 31 16 ≠ 0xFFFF)) 0,
    checkIf (decide (1 ≤ nlev l) && decide (nlev l ≤ 8)) 1]

/-- Check 3. -/
def chkRanges (l : List Word) : Check :=
  let img := bf (lrw l 3) 17 0
  let sp := bf (lrw l 3) 51 32
  let wlog := bf (lrw l 22) 29 24
  let slog := bf (lrw l 22) 37 32
  firstFail [checkIf (decide (img % 64 = 0) && decide (64 ≤ img) && decide (img ≤ 196608) && decide (sp % 128 = 0) && decide (sp ≤ 786432)) 3,
    checkIf (decide (bf (lrw l 16) 3 0 ≤ 12)) 16, checkIf (decide (bf (lrw l 18) 3 0 ≤ 12)) 18,
    checkIf (decide (10 ≤ wlog) && decide (wlog ≤ 40) && decide (16 ≤ slog) && decide (slog ≤ 40) && decide (bf (lrw l 22) 3 0 ≤ 8)) 22]

/-- A level as check 4 sees it: domains ascend, a lane-group level is level 0, a core level comes before wider ones, a fabric
level is the last, and the scope is wide enough. -/
def levOk (l : List Word) (j : Nat) : Bool :=
  let d := levelDesc l j
  let dom := levDomain d
  let below := (List.range j).map (fun i => levDomain (levelDesc l i))
  below.all (fun b => decide (b < dom)) && (decide (dom ≠ 0) || decide (j = 0)) && (decide (dom ≤ 1) || below.contains 1) &&
    (decide (dom ≠ 7) || decide (j + 1 = nlev l)) && decide (levScope d ≠ 7) && decide (dom - 1 ≤ levScope d)

/-- Check 4. -/
def chkLevels (l : List Word) : Check :=
  match (List.range (nlev l)).find? (fun j => !levOk l j) with
  | some j => some (levWord j)
  | none => checkIf ((List.range (nlev l)).any (fun j => decide (levDomain (levelDesc l j) = 1))) 10

/-- Check 5. -/
def chkPidx (l : List Word) : Check :=
  firstFail ((List.range (nlev l)).map (fun j =>
    checkIf (decide (levDomain (levelDesc l j) ≠ 7) || decide (bf (lrw l 22) 63 54 < levExtent (levelDesc l j))) 22))

/-- Product of the extents from the core level up to level j. -/
def extentTo (l : List Word) (j : Nat) : Nat := extentBelow l j * levExtent (levelDesc l j)

/-- Levels with domains core to pkg. -/
def coreLevels (l : List Word) : List Nat :=
  (List.range (nlev l)).filter (fun j => decide (1 ≤ levDomain (levelDesc l j)) && decide (levDomain (levelDesc l j) ≤ 6))

def recSize (l : List Word) : Nat := bf (lrw l 1) 63 56 + 1

/-- Check 6. -/
def chkSize (l : List Word) : Check :=
  let prod := (coreLevels l).foldl (fun a j => a * levExtent (levelDesc l j)) 1
  firstFail (checkIf (decide (prod = recSize l)) 1 ::
    (coreLevels l).map (fun j => checkIf (decide (extentTo l j ≤ levMax (levDomain (levelDesc l j)))) (levWord j)))

/-- Check 7: the cores of a level instance, which are those that share the instance's coordinates above the level, lie in one
physical instance. -/
def chkPlace (l : List Word) : Check :=
  let ps := membersOf l
  checkIf (decide (ps.length = recSize l) && (coreLevels l).all (fun j =>
    let b := extentTo l j
    let c := domCores (levDomain (levelDesc l j))
    (List.range ps.length).all (fun n => decide (ps.getD n 0 / c = ps.getD (n / b * b) 0 / c)))) 12

/-- Lane groups that a launch asks for. -/
def laneExtent (l : List Word) : Nat := if levDomain (levelDesc l 0) = 0 then levExtent (levelDesc l 0) else 0

/-- Check 8. -/
def State.chkCores (s : State) (l : List Word) : Check :=
  match (membersOf l).find? (fun p => s.head.clus.getLsbD (clusterOf p) ||
      decide (((List.range 4).filter (fun i => (s.core p).lgmap.getLsbD i)).length < laneExtent l)) with
  | some p => some (12 + p / 64)
  | none => none

/-- A record area: in memory, aligned to its size. -/
def areaOk (w : Word) : Bool :=
  let n := 2 ^ (bf w 3 0 + 4) * 64
  let a := bf w 51 6 * 64
  decide (a % n = 0) && (inHbm a n || inSlots a n)

/-- Members on a die. -/
def onDie (l : List Word) (d : Nat) : Nat := ((membersOf l).filter (fun p => decide (dieOf p = d))).length

/-- Check 9. -/
def chkAreas (l : List Word) : Check :=
  let img := bf (lrw l 2) 51 0
  let sp := bf (lrw l 4) 51 0
  let slots (d first : Nat) : Bool := decide (onDie l d = 0) || decide (first + 20 * onDie l d ≤ 16384)
  firstFail [checkIf (decide (img % 64 = 0) && inHbm img (bf (lrw l 3) 17 0)) 2, checkIf (decide (sp % 128 = 0) && inHbm sp (bf (lrw l 3) 51 32)) 4,
    checkIf (areaOk (lrw l 16)) 16, checkIf (areaOk (lrw l 18)) 18,
    checkIf (slots 0 (bf (lrw l 19) 13 0) && slots 1 (bf (lrw l 19) 29 16)) 19]

/-- A preset flag word resolved as a store of logical core 0: through the heap window, else through the page tables with the
bits that a store sets; the aperture is no target (R142). -/
def State.flagPlace (s : State) (w : Crew) (va : Word) : Option (Nat × State) :=
  let k := w.phys 0
  if va.toNat % 8 ≠ 0 ∨ bf va 56 48 = 0xFF then none
  else
    match s.bindX k w.id w.xlat .store va 8 with
    | some b =>
      (match b.parts with
       | [p] =>
         (match p.cls with
          | .loc => none
          | .phys a => if s.heldAt a 8 then none else some (a, s)
          | .paged =>
            (match s.walk (dieOf k) w.xlat.root va.toNat .store with
             | (.leaf e ea bits, _, _) =>
               some (leafPa e bits va.toNat, if wantBits e .store = e then s else s.write64 ea (wantBits e .store))
             | (.fault _ _, _, _) => none))
       | _ => none)
    | none => none

/-- Check 10: every flag word resolves to a place in a data capability with W. -/
def State.chkFlags (s : State) (c : Cpq) (w : Crew) : Option (List Nat × State) :=
  (List.range (bf (lrw w.lr 22) 3 0)).foldl (fun o i => match o with
    | none => none
    | some (l, t) =>
      (match t.flagPlace w (lrw w.lr 21 + BitVec.ofNat 64 (8 * i)) with
       | some (a, u) => if u.named c 2 a 8 then some (l ++ [a], u) else none
       | none => none)) (some ([], s))

/-- The record's ranges in the queue's capabilities: the word of the first that is not (R384). -/
def State.chkCaps (s : State) (c : Cpq) (w : Crew) : Check :=
  let l := w.lr
  firstFail [checkIf (s.named c 5 (bf (lrw l 2) 51 0) (bf (lrw l 3) 17 0)) 2,
    checkIf (decide (bf (lrw l 3) 51 32 = 0) || s.named c 1 (bf (lrw l 4) 51 0) (bf (lrw l 3) 51 32)) 4,
    checkIf (s.named c 10 w.trapArea.1 (64 * w.trapArea.2)) 16, checkIf (s.named c 11 w.queueAt.1 (64 * w.queueAt.2)) 18,
    checkIf ((List.range (w.size + 1)).all (fun n => s.named c 11 (w.saveBlock n) 0x140000)) 19]

/-- The checks of R140 up to check 9. -/
def State.chkRecord (s : State) (l : List Word) : Check :=
  firstFail [chkReserved l, chkPrio l, chkRanges l, chkLevels l, chkPidx l, chkSize l, chkPlace l, s.chkCores l, chkAreas l]

/-- A crew that waits at the arbiter, from its record at an address. -/
def waitingCrew (a : Nat) (l : List Word) (q : Nat) (p : List Word) (idx : BitVec 32) : Crew :=
  { id := BitVec.ofNat 16 (bf (lrw l 0) 31 16), lr := l, queue := q, tag := pktTag p, pktIdx := idx, cmpl := pktCmpl p
    order := 0, st := .waiting, exact := false, flagPas := [], rt := 0, arrived := [], ages := [], kept := [], uids := []
    ended := [], reserved := [], trapSeq := 0, trapq := [], killed := false, kills := [], saved := [], pausedAt := 0, lrAt := some a }

/-- LAUNCH: the record's checks, then the crew goes to the arbiter in the order in which packets are taken. -/
def execLaunch (q : BitVec 6) (s : State) : Host.Outcome State Fault Refusal :=
  s.packet q.toNat 1 [1] (fun t c p idx =>
    match t.ptr c (lrw p 1) 1 256 with
    | none => capFault 1
    | some a =>
      if a % 64 ≠ 0 ∨ !inHbm a 256 then badPacket 1
      else
        t.cpRead a 256 1 (fun t0 _ =>
          let l := (List.range 32).map (fun i => t0.read64 (a + 8 * i))
          match t0.chkRecord l with
          | some w => .fail ⟨3, 1, w⟩
          | none =>
            let w := waitingCrew a l q.toNat p idx
            match t0.chkFlags c w with
            | none => .fail ⟨3, 1, 21⟩
            | some (pas, t1) =>
              match t0.chkCaps c w with
              | some x => .fail ⟨2, 1, x⟩
              | none =>
                if c.prio < w.prio then .fail ⟨4, 1, 0⟩
                else
                  let (n, t2) := t1.fresh
                  .later { t2 with crews := t2.crews ++ [{ w with order := n, flagPas := pas }] }))

/-! ### KILL -/

/-- KILL of a crew launched from the queue: one that waits leaves the arbiter, one that runs ends; the packet completes with the
crew. -/
def execKill (q : BitVec 6) (s : State) : Host.Outcome State Fault Refusal :=
  s.packet q.toNat 2 [1] (fun t _ p idx =>
    match t.crews.find? (fun w => decide (w.queue = q.toNat) && decide (w.id.toNat = bf (lrw p 1) 15 0) && decide (w.st ≠ .done)) with
    | none => badPacket 1
    | some w =>
      let w1 := { w with kills := w.kills ++ [(pktTag p, pktCmpl p, idx)] }
      let t1 := t.modOrder w.order (fun x => { x with kills := w1.kills })
      if w.st = .waiting then .later (((t1.completeCrew w1 5).idleCrew w1).dropCrew w1)
      else .later (t1.killCrew w1))

/-! ### Firmware images (R386) -/

/-- Bytes of a bank. -/
def Bank.image (b : Bank) (n : Nat) : List Byte :=
  match b with
  | .initial => (List.range (Config.firmwareLen n)).map (Config.firmwareByte n)
  | .none => []
  | .bytes l => l

/-- Little-endian field of an image. -/
def imgField (l : List Byte) (a n : Nat) : Nat := leNat ((l.drop a).take n)

def imgVersion (l : List Byte) : BitVec 32 := BitVec.ofNat 32 (imgField l 4 4)
def imgSvn (l : List Byte) : Nat := imgField l 8 4

/-- An image of P2 bytes is accepted: header fields in range, its length, its signature, and its SVN. -/
def imageOk (l : List Byte) (svn : BitVec 12) : Bool :=
  decide (imgField l 0 4 = 0x4657395A) && decide (imgSvn l ≤ 4095) && decide (imgField l 0x10 4 ≤ 0x400000) &&
    decide (imgField l 0x14 12 = 0) && decide (l.length = 32 + imgField l 0x10 4 + 4627) && Config.mldsaVerifies l &&
    decide (svn.toNat ≤ imgSvn l)

def Fw.bank (f : Fw) (b : Bool) : List Byte := (if b then f.bank1 else f.bank0).image (b2n b)
def Fw.active (f : Fw) : List Byte := f.bank f.act
def Fw.inactive (f : Fw) : List Byte := f.bank (!f.act)

/-- Put an image into the inactive bank. -/
def Fw.loadBank (f : Fw) (l : List Byte) (stage : BitVec 2) : Fw :=
  if f.act then { f with bank0 := .bytes l, stage := stage } else { f with bank1 := .bytes l, stage := stage }

/-- STAGE of the inactive bank, and the FWLOAD in progress. -/
def Fw.staged (f : Fw) (stage : BitVec 2) (l : Option (Nat × List Word × BitVec 32)) : Fw := { f with stage := stage, loading := l }

/-- The end of the FWLOAD in progress: its image is copied into the inactive bank and verified. Where it cannot be read any more, the bank
is left as it was, with STAGE 0 (log entry 45). -/
def State.fwloadEnd (s : State) (q : Nat) (p : List Word) (idx : BitVec 32) : State :=
  let fin (e : Ending) (t : State) (f : Fw → Fw) : State :=
    (t.modHead (fun h => { h with fw := { f h.fw with loading := none } })).complete q (pktTag p) (pktCmpl p) idx e
  match s.ptr (s.cpq q) (lrw p 1) 1 (lrw p 2).toNat with
  | none => fin ⟨2, 1, 0⟩ s (·.staged 0 none)
  | some a =>
    match s.cpRead a (lrw p 2).toNat 1 (fun t l => .done (if imageOk l t.head.fw.fsvn then fin Ending.ok t (·.loadBank l 2)
        else fin ⟨6, 1, 0⟩ t (·.loadBank l 3))) with
    | .done t | .later t => t
    | .fail e => fin e s (·.staged 0 none)
    | .stuck ls => s.meetUpsets ls none

/-- FWLOAD: the packet is taken and the image begins to load; the next FWLOAD of its queue is the end of the load. One image loads at a
time, so that another queue's packet waits (log entry 45). -/
def execFwload (q : BitVec 6) (s : State) : Host.Outcome State Fault Refusal :=
  match s.head.fw.loading with
  | some (j, p, idx) => .next (if j = q.toNat ∧ s.head.fwRuns then s.fwloadEnd j p idx else s)
  | none =>
    s.packet q.toNat 6 [1, 2] (fun t c p idx =>
      if !c.fwOk then badPacket 0
      else
        match t.ptr c (lrw p 1) 1 (lrw p 2).toNat with
        | none => capFault 1
        | some _ => .later (t.modHead (fun h => { h with fw := h.fw.staged 1 (some (q.toNat, p, idx)) })))

/-- FW_SWAP: a write of SWAP = 1 starts a hand-over when the inactive bank is verified. -/
def execFwSwap (s : State) : Host.Outcome State Fault Refusal :=
  let f := s.head.fw
  .next (if f.stage = 2 ∧ !f.hover then s.modHead (fun h => { h with fw := { h.fw with hover := true, hoverAt := s.time } }) else s)

/-- FW_HANDOVER_DONE: the new firmware takes over if it accepts the state block's version, else the old one goes on. -/
def execFwHandoverDone (s : State) : Host.Outcome State Fault Refusal :=
  let f := s.head.fw
  let l := f.inactive
  let v := (Config.stateBlockVersion f.aver).toNat
  if !f.hover then .next s
  else if imgField l 0xC 2 ≤ v ∧ v ≤ imgField l 0xE 2 then
    .next (s.modHead (fun h => { h with fw := { h.fw with hover := false, act := !f.act, aver := imgVersion l, rollbk := false } }))
  else .next (s.modHead (fun h => { h with fw := { h.fw with hover := false, rollbk := true } }))

/-- FW_COMMIT: the fused SVN rises to the active image's. -/
def execFwCommit (s : State) : Host.Outcome State Fault Refusal :=
  .next (s.modHead (fun h => { h with fw := { h.fw with
    fsvn := if h.fw.fsvn.toNat < imgSvn h.fw.active then BitVec.ofNat 12 (imgSvn h.fw.active) else h.fw.fsvn } }))

/-! ### Attestation (R388) -/

/-- BRG_STAT. -/
def Head.brgStat (h : Head) : Word :=
  BitVec.ofNat 64 (h.fullms.toNat * 2 ^ 32 + h.fcode.toNat * 2 ^ 8 + b2n h.held * 8 + h.phase.toNat)

/-- Every SHAFT_MAP in offset order: on each die the clusters' weight shafts, then the cores' latent shafts. -/
def State.shaftMaps (s : State) : List Word :=
  [0, 1].flatMap (fun d =>
    (List.range 8).flatMap (fun c => (List.range 4).map (fun i => Tab.get (s.cluster (d * 8 + c)).shafts i)) ++
      (List.range 128).map (fun k => (s.core (d * 128 + k)).shaft))

/-- A SHA3-512 digest as bytes. -/
def sha3 (l : List Byte) : List Byte := toBytes 64 (sha3x512 l)

/-- Bytes 0x000 to 0x11F of the report. -/
def State.reportBody (s : State) (nonce : List Byte) : List Byte :=
  let f := s.head.fw
  nonce ++ sha3 f.active ++ (if f.stage = 2 then sha3 f.inactive else List.replicate 64 0#8) ++
    toBytes 4 (BitVec.ofNat 32 (imgSvn f.active)) ++ toBytes 4 (f.fsvn.setWidth 32) ++ toBytes 8 s.time ++
    toBytes 8 s.head.brgStat ++ toBytes 8 (s.head.clus.setWidth 64) ++ sha3 (s.shaftMaps.flatMap (toBytes 8))

/-- The report with its signature. -/
def State.report (s : State) (nonce : List Byte) : List Byte :=
  let b := s.reportBody nonce
  b ++ (List.range 4627).map (Config.mldsaSignByte s.resets (sha3x512 b))

/-- Length L of the key and its certificates, at most 16,380. -/
def keyLen : Nat := 2592 + min Config.chainLen 13788

/-- The key and its certificates behind their length. -/
def State.identity (s : State) : List Byte :=
  toBytes 4 (BitVec.ofNat 32 keyLen) ++ (List.range keyLen).map (Config.identityByte s.resets)

/-- ATTEST. -/
def execAttest (q : BitVec 6) (s : State) : Host.Outcome State Fault Refusal :=
  s.packet q.toNat 5 [1, 2, 3] (fun t c p _ =>
    match t.ptr c (lrw p 1) 1 64 with
    | none => capFault 1
    | some a =>
      t.cpRead a 64 1 (fun t0 nonce =>
        let out := if wb (lrw p 3) 0 then t0.identity else t0.report nonce
        match t0.ptr c (lrw p 2) 2 out.length with
        | none => capFault 2
        | some b => t0.cpWrite b 2 out))

/-! ### Completion records (R383, R385) -/

/-- COMPLETION_WRITE: the oldest completion enters its ring once there is room, and its MSI follows. -/
def execCompletionWrite (q : BitVec 6) (s : State) : Host.Outcome State Fault Refusal :=
  let c := s.cpq q.toNat
  match c.pend with
  | [] => .next s
  | r :: l =>
    let a := (c.cap 1).base + c.ctail.toNat % c.csize * 16
    if c.cfull || !s.ringOk (c.cap 1) 2 (c.csize * 16) then .next s
    else
      match s.poke none a (toBytes 8 r.w0 ++ toBytes 8 r.time) with
      | none => .next s
      | some t =>
        .next ((t.modCpq q.toNat (fun x => { x with pend := l, ctail := x.ctail + 1 })).msi (msiAddr c.msia) (msiId c.msid))

/-! ### Bring-up (R394 to R397) -/

/-- A phase change with its MSI. -/
def State.enterPhase (s : State) (p : BitVec 3) : State :=
  (s.modHead (fun h => { h with phase := p })).msi (msiAddr s.head.brgMsia) (msiId s.head.brgMsid)

/-- PACKAGE_RESET: everything as after reset, but for the firmware banks, the bank last active and the fused SVN; the inputs of
the machine go on. -/
def execPackageReset (s : State) : Host.Outcome State Fault Refusal :=
  let f := s.head.fw
  .next { State.reset with
    head := { Head.reset with fw := { Fw.reset with act := f.act, fsvn := f.fsvn, bank0 := f.bank0, bank1 := f.bank1 } }
    steps := s.steps, free := s.free, resets := s.resets + 1, agenda := s.agenda, focus := s.focus }

/-- BOOT_VERIFY_DONE: in RESET, BOOT begins, for RESET ends at once; in BOOT, the bank last active, else the other, starts, and bring-up has
FAILED if neither verifies (R394). -/
def execBootVerifyDone (s : State) : Host.Outcome State Fault Refusal :=
  let f := s.head.fw
  let start (b : Bool) : State :=
    (s.modHead (fun h => { h with fw := { h.fw with act := b, aver := imgVersion (f.bank b) } })).enterPhase 2
  if s.head.phase = 0 then .next (s.enterPhase 1)
  else if s.head.phase ≠ 1 then .next s
  else if imageOk (f.bank f.act) f.fsvn then .next (start f.act)
  else if imageOk (f.bank (!f.act)) f.fsvn then .next (start (!f.act))
  else .next ((s.modHead (fun h => { h with fcode := 1 })).enterPhase 7)

/-- BASE_TRAINING_DONE: reduced service begins with pattern 0x5555 in every cluster, or bring-up fails. -/
def execBaseTrainingDone (ok : Bool) (s : State) : Host.Outcome State Fault Refusal :=
  let t : State := { s with clusters := s.clusters.map (fun c => { c with pat := 0x5555 }) }
  if s.head.phase ≠ 2 then .next s
  else if ok then .next (t.enterPhase 3)
  else .next ((s.modHead (fun h => { h with fcode := 2 })).enterPhase 7)

/-- SHAFT_MAP of a shaft by the faults found in each group of connections: four bits per group, the faulty data connections
in bits 1:0 (three stands for three or more) and the faulty spares in bits 3:2 (R63, R395). -/
def shaftMap (f : BitVec 64) : Word :=
  let data (g : Nat) : Nat := f.toNat / 16 ^ g % 4
  let spare (g : Nat) : Nat := f.toNat / 16 ^ g / 4 % 4
  BitVec.ofNat 64 (((List.range 16).map (fun g => min 2 (data g) * 4 ^ g)).sum +
    (if (List.range 16).any (fun g => decide (3 ≤ data g + spare g)) then 2 ^ 63 else 0))

/-- Install a shaft's repair: shafts are numbered 160 to a die, the clusters' weight shafts first. -/
def State.setShaft (s : State) (n : Nat) (v : Word) : State :=
  let d := n / 160
  let i := n % 160
  if i < 32 then s.modCluster (d * 8 + i / 4) (fun c => { c with shafts := Tab.set c.shafts (i % 4) v })
  else s.modCore (d * 128 + (i - 32)) (fun c => { c with shaft := v })

/-- Clusters whose four weight shafts are all retired. -/
def State.deadClusters (s : State) : BitVec 16 :=
  BitVec.ofNat 16 (((List.range 16).filter (fun c => (List.range 4).all (fun i => wb (Tab.get (s.cluster c).shafts i) 63))).map (2 ^ ·)).sum

/-- REDUCED_WORK_DONE: the repairs are installed, and SWITCH begins. -/
def execReducedWorkDone (faults : List (Nat × BitVec 64)) (s : State) : Host.Outcome State Fault Refusal :=
  if s.head.phase ≠ 3 then .next s
  else
    let t := faults.foldl (fun u f => u.setShaft f.1 (shaftMap f.2)) s
    .next ((t.modHead (fun h => { h with clus := t.deadClusters })).enterPhase 4)

/-- Bind the placed slots of a die to frames chosen by R25 with their recorded home cores; none where one finds no frame. -/
def State.rebind (s : State) (d : Nat) : Option State :=
  let old := (s.die d).frames
  let hs := (s.die d).homes
  (old.foldl (fun o e => o.bind (fun t =>
    let home := ((hs.find? (fun h => decide (h.1 = e.1))).map (·.2)).getD 0
    (firstSome (t.freeFrame d) (bankOrder home)).map (fun f =>
      t.modDie d (fun x => { x with frames := x.frames ++ [(e.1, f)] }))))
    (some (s.modDie d (fun x => { x with frames := [], homes := [] })))).map id

/-- The held ranges become ordinary memory, zero-filled. -/
def State.unhold (s : State) : State :=
  let t : State := { s with mem := Tab.clear (Tab.clear s.mem 0x2F00000000 0x3000000000) 0x5F00000000 0x6000000000 }
  (t.rewritten (fun _ a l => decide (a = 7) && inHeld l 1)).modHead (fun h => { h with held := false })

/-- Slots and weights are written into the seams (R84, R397). -/
def State.fillSeams (s : State) : State :=
  s.copyWords (fun _ a l => (decide (a = 5) && (s.frame? (slotOf l)).isSome) || decide (a = 6))

/-- SWITCH_DONE: with every crew pre-empted, slots and weights stand in the seams, the held ranges become memory, and full
service begins; the crews resume as the arbiter takes them, and the governor starts. -/
def execSwitchDone (s : State) : Host.Outcome State Fault Refusal :=
  if s.head.phase ≠ 4 ∨ s.crews.any (·.holding) then .next s
  else
    match (s.rebind 0).bind (fun t => t.rebind 1) with
    | none => .next s
    | some t =>
      let u := (t.unhold.fillSeams.modHead (fun h => { h with fullms := BitVec.ofNat 32 (s.time.toNat / 1000000) })).enterPhase 5
      .next (if u.head.govEn then u.setPatterns else u.govOff)

end Sys2Proof.Machine
end

