-- ==== Sys2Proof/Machine/Registers.lean ====
section
/-!
DEFINITION. The control-register space (R373 to R375) and its two views (R8, R9).
-/

namespace Sys2Proof.Machine

/-! ### The map (R374, R375) -/

/-- The registers; i is the place in the block's row of R375. Clusters are numbered 0 to 15 and cores 0 to 255 over both dies. -/
inductive Reg
  | pkg (i : Nat)
  | trs (i : Nat)
  | exp (n : Nat) (hi : Bool)
  | route (q : Nat)
  | port (p i : Nat)
  | cpq (q i : Nat)
  | cap (q n : Nat) (hi : Bool)
  | fw (i : Nat)
  | pci (p i : Nat)
  | brg (i : Nat)
  | die (d i : Nat)
  | lstat (d a : Nat)
  | errRec (d a i w : Nat)
  | cluster (c i : Nat)
  | core (k i : Nat)
  | slot (k r i : Nat)
  deriving DecidableEq, Repr

/-- A register of a block of n. -/
def within (o n : Nat) (f : Nat → Reg) : Option Reg := if o / 8 < n then some (f (o / 8)) else none

/-- Registers of a die by offset in its 2 GiB. -/
def dieReg (d o : Nat) : Option Reg :=
  if o < 0x10000 then within o 30 (.die d)
  else if o < 0x1C000 then
    let a := (o - 0x10000) / 0x1000
    let x := o % 0x1000
    if x = 0 then some (.lstat d a)
    else if 0x100 ≤ x ∧ x < 0x300 then some (.errRec d a ((x - 0x100) / 32) ((x - 0x100) / 8 % 4))
    else none
  else if 0x1000000 ≤ o ∧ o < 0x1800000 then within (o % 0x100000) 8 (.cluster (d * 8 + (o - 0x1000000) / 0x100000))
  else if 0x10000000 ≤ o ∧ o < 0x18000000 then
    let k := d * 128 + (o - 0x10000000) / 0x100000
    let x := o % 0x100000
    if x < 0x8000 then within x 12 (.core k)
    else if x < 0x10000 then within ((x - 0x8000) % 0x4000) 29 (.slot k ((x - 0x8000) / 0x4000))
    else none
  else none

/-- The register at an offset; none is a hole. -/
def regAt (o : Nat) : Option Reg :=
  if o < 0x10000 then within o 8 .pkg
  else if o < 0x20000 then
    let x := o - 0x10000
    if x < 0x28 then within x 5 .trs
    else if x < 0x128 then some (.exp ((x - 0x28) / 16) (decide ((x - 0x28) / 8 % 2 = 1)))
    else if 0x1000 ≤ x ∧ x < 0x9000 then some (.route ((x - 0x1000) / 8))
    else none
  else if o < 0x28000 then within (o % 0x1000) 4 (.port ((o - 0x20000) / 0x1000))
  else if 0x100000 ≤ o ∧ o < 0x104000 then
    let q := (o - 0x100000) / 0x100
    let x := o % 0x100
    if x < 0x40 then within x 8 (.cpq q)
    else if x < 0xC0 then some (.cap q ((x - 0x40) / 16) (decide (x / 8 % 2 = 1)))
    else none
  else if 0x200000 ≤ o ∧ o < 0x201000 then within (o - 0x200000) 2 .fw
  else if 0x300000 ≤ o ∧ o < 0x302000 then within (o % 0x1000) 3 (.pci ((o - 0x300000) / 0x1000))
  else if 0x400000 ≤ o ∧ o < 0x401000 then within (o - 0x400000) 4 .brg
  else if 0x80000000 ≤ o ∧ o < 0x180000000 then dieReg ((o - 0x80000000) / 0x80000000) (o % 0x80000000)
  else none

/-! ### Values in the privileged view -/

/-- MSI address and data registers (R129). -/
def msiaMask : Word := 0x000FFFFFFFFFFFFC
def msidMask : Word := 0x7FF

/-- SSQ_STAT.STATE (R175). -/
def SeqSt.code : SeqSt → Nat
  | .idle => 0 | .armed => 1 | .load => 2 | .run => 3 | .close => 4 | .paused => 5 | .done => 6 | .stopped => 7

/-- SSQ_STAT (R174). -/
def Seq.stat (q : Seq) : Word :=
  BitVec.ofNat 64 (q.step * 2 ^ 52 + (q.nodes.filter (·.complete)).length * 2 ^ 32 + q.badrep * 2 ^ 16 + q.err * 16 + q.st.code)

/-- FLT_STAT (R129). -/
def Flt.stat (f : Flt) : Word :=
  BitVec.ofNat 64 (f.seq.toNat * 2 ^ 32 + b2n f.badRing * 2 ^ 17 + b2n f.waits * 2 ^ 16 + f.opened.length)

/-- SEAM_MIG (R136). -/
def SlotOp.migWord (m : SlotOp) : Word :=
  BitVec.ofNat 64 (b2n m.busy * 2 ^ 31 + b2n m.fail * 2 ^ 30 + b2n m.unpl * 2 ^ 29 + m.bank.toNat * 2 ^ 16 + m.slot.toNat)

/-- Cores of a die in GATED, saturating at 128 (R200). -/
def State.gatedCount (s : State) (d : Nat) : Nat :=
  min 128 ((dieCores d).filter (fun k => decide ((s.core k).gate = .gated))).length

/-- The crew of a die's sequencer is pre-empted (R198). -/
def State.seqPaused (s : State) (d : Nat) : Bool :=
  match s.seqCrew d with
  | some w => decide (w.st = .preempted)
  | none => false

/-- GOV_QST (R193). -/
def Quad.qst (q : Quad) : Word := BitVec.ofNat 64 (q.mv % 512 * 2 ^ 32 + q.mhz % 2048 * 2 ^ 16 + b2n q.ramp)

/-- SEAM_WSTAT (R65). -/
def Cluster.wstat (c : Cluster) : Word :=
  BitVec.ofNat 64 (c.owner.toNat * 2 ^ 48 + c.epoch.toNat * 2 ^ 32 + c.exp.toNat * 2 ^ 16 + c.arr.toNat * 2 ^ 8 + c.band.toNat * 16 +
    b2n c.lost * 8 + b2n c.clr * 4 + b2n (decide (1 ≤ c.arr.toNat) && decide (c.arr.toNat < c.exp.toNat)) * 2 + b2n c.act)

/-- TRS_PST (R393). -/
def Port.pst (p : Port) : Word := BitVec.ofNat 64 (b2n p.en * 16 + b2n p.up * 8 + p.lanes.toNat)

/-- CPQ_STAT (R383). -/
def State.cpqStat (s : State) (q : Nat) : Word :=
  let c := s.cpq q
  BitVec.ofNat 64 (c.hidx.toNat * 2 ^ 32 + b2n (decide (c.pend ≠ []) && c.cfull) * 8 + b2n (c.en && s.capf c) * 4 + b2n c.halt * 2 +
    b2n (c.waitPkt.isSome || s.loads q))

/-- CP_FWSTAT (R386). -/
def Fw.stat (f : Fw) : Word :=
  BitVec.ofNat 64 (f.aver.toNat * 2 ^ 32 + f.fsvn.toNat * 2 ^ 20 + b2n f.rollbk * 32 + b2n f.hover * 16 + f.stage.toNat * 4 + b2n f.act)

/-- Registers of a die. -/
def State.dieVal (s : State) (d i : Nat) : Word :=
  let x := s.die d
  match i with
  | 0 => x.seq.ctl
  | 1 => x.seq.stab
  | 2 => x.seq.graph
  | 3 => x.seq.blkt
  | 4 => x.seq.stat
  | 5 => x.seq.msia
  | 6 => x.seq.msid
  | 7 => x.flt.ctl
  | 8 => x.flt.ring
  | 9 => x.flt.prod.setWidth 64
  | 10 => x.flt.cons.setWidth 64
  | 11 => x.flt.msia
  | 12 => x.flt.msid
  | 13 => x.flt.stat
  | 15 => x.flt.recsCnt
  | 16 => BitVec.ofNat 64 (b2n x.rel.busy * 2 ^ 31)
  | 17 => x.mig.migWord
  | 18 => x.scrub
  | 19 => BitVec.ofNat 64 (b2n x.gateEn * 2 ^ 63 + x.gateBeh.toNat * 2 ^ 32 + s.gatedCount d)
  | 20 => x.energy
  | 21 => x.ifcred
  | 22 => x.skipcred
  | 23 => BitVec.ofNat 64 (x.late * 2 ^ 32 + b2n (s.seqPaused d) * 2 + b2n x.risk)
  | 24 => (x.quads.getD 0 Quad.reset).qst
  | 25 => (x.quads.getD 1 Quad.reset).qst
  | 26 => (x.quads.getD 2 Quad.reset).qst
  | 27 => (x.quads.getD 3 Quad.reset).qst
  | 28 => x.inj
  | 29 => x.injPos
  | _ => 0

/-- Registers of a core. -/
def State.coreVal (s : State) (k i : Nat) : Word :=
  let c := s.core k
  match i with
  | 0 => c.ilim
  | 1 => BitVec.ofNat 64 (b2n c.splitEn * 512 + b2n c.press * 256 + c.splitMask.toNat)
  | 2 => c.lgmap.setWidth 64
  | 3 => c.shaft
  | n => s.csr k 0 (.core (BitVec.ofNat 3 (n - 4)))

/-- CX_PC: the suppressed bundle's offset while the context is parked; a free value otherwise. -/
def State.cxPc (s : State) (k r : Nat) : Word :=
  let c := s.ctx k r
  if c.parked then BitVec.ofNat 64 (fetchPc (s.core k).imem (s.imglen c.crew) c.regs.pc.toNat % 2 ^ 18) else (Config.openValue s.free) &&& 0x3FFFF#64

/-- Registers of a resident slot. -/
def State.slotVal (s : State) (k r i : Nat) : Word :=
  let c := s.ctx k r
  match i with
  | 0 => BitVec.ofNat 64 (c.stat * 16)
  | 1 => s.cxPc k r
  | 2 => c.dsel
  | 3 => if c.parked then s.selGet k r else 0
  | 4 => c.dbrk
  | 5 => c.xl.hb
  | 6 => c.xl.hl
  | 7 => c.xl.ho
  | 8 => c.xl.hctl
  | 9 => c.xl.root
  | 10 => c.wdog
  | 11 => s.csr k r .tick
  | 12 => s.csr k r .prio
  | 13 => s.csr k r .crew
  | 22 => s.csr k r .fflags
  | 23 => c.dpend
  | 24 => c.dlbn
  | 25 => c.holdFlt
  | 26 => c.holdSlog
  | 27 => c.holdSync
  | 28 => c.mergeDeny
  | n => if 14 ≤ n ∧ n < 22 then s.csr k r (.lvl (BitVec.ofNat 3 (n - 14))) else 0

/-- Registers of a cluster. -/
def State.clusterVal (s : State) (c i : Nat) : Word :=
  let x := s.cluster c
  match i with
  | 0 => BitVec.ofNat 64 (x.xpat.toNat * 2 ^ 16 + x.pat.toNat)
  | 1 => x.wstat
  | 6 => x.stall0
  | 7 => x.stall1
  | n => Tab.get x.shafts (n - 2)

/-- Registers of a submission queue. -/
def State.cpqVal (s : State) (q i : Nat) : Word :=
  let c := s.cpq q
  match i with
  | 0 => c.ctl
  | 1 => s.cpqStat q
  | 2 => c.tail.setWidth 64
  | 3 => c.head.setWidth 64
  | 4 => c.ctail.setWidth 64
  | 5 => c.chead.setWidth 64
  | 6 => c.msia
  | _ => c.msid

/-- Package, trestle and bring-up registers. -/
def Head.pkgVal (h : Head) (i : Nat) : Word :=
  match i with
  | 0 => h.govCtl
  | 1 => h.govMsia
  | 2 => h.govMsid
  | 3 => h.inva
  | 5 => BitVec.ofNat 64 (h.invDone.toNat * 2 ^ 32 + b2n h.invDrop)
  | 6 => h.energy
  | 7 => h.msiDrop
  | _ => 0

def Head.trsVal (h : Head) (i : Nat) : Word :=
  match i with
  | 0 => h.trsId.setWidth 64
  | 1 => h.trsEtype.setWidth 64
  | 2 => h.trsTmo
  | 3 => h.trsRqbase
  | _ => h.trsNpkg

def Head.brgVal (h : Head) (i : Nat) : Word :=
  match i with
  | 0 => h.brgStat
  | 1 => h.clus.setWidth 64
  | 2 => h.brgMsia
  | _ => h.brgMsid

def Port.val (p : Port) (i : Nat) : Word :=
  match i with
  | 0 => p.pst
  | 1 => p.crcerr
  | 2 => p.replay
  | _ => p.shed

def Pci.val (p : Pci) (i : Nat) : Word :=
  match i with
  | 0 => p.ctl
  | 1 => p.msia
  | _ => p.msid

def Cap.half (c : Cap) (hi : Bool) : Word := if hi then c.hi else c.lo

/-- Record i of an error log. -/
def ErrLog.word (l : ErrLog) (i w : Nat) : Word :=
  match l.recs.find? (fun e => decide (e.1 = i)) with
  | some e =>
    (match w with
     | 0 => e.2.w0
     | 1 => e.2.w1
     | 2 => e.2.w2
     | _ => e.2.w3)
  | none => 0

def State.errLog (s : State) (d a : Nat) : ErrLog := (s.die d).logs.getD a ErrLog.zero

/-- A register's value in the privileged view. -/
def State.reg (s : State) (r : Reg) : Word :=
  match r with
  | .pkg i => s.head.pkgVal i
  | .trs i => s.head.trsVal i
  | .exp n hi => (s.head.exps.getD n ⟨0, 0⟩).half hi
  | .route q => (Tab.get s.head.routes q).setWidth 64
  | .port p i => (s.port p).val i
  | .cpq q i => s.cpqVal q i
  | .cap q n hi => ((s.cpq q).cap n).half hi
  | .fw i => if i = 1 then s.head.fw.stat else 0
  | .pci p i => (s.head.pci.getD p Pci.reset).val i
  | .brg i => s.head.brgVal i
  | .die d i => s.dieVal d i
  | .lstat d a => (s.errLog d a).lstat
  | .errRec d a i w => (s.errLog d a).word i w
  | .cluster c i => s.clusterVal c i
  | .core k i => s.coreVal k i
  | .slot k r i => s.slotVal k r i

/-! ### Access codes (R8, R9) -/

/-- The bits of fields whose access code ends in P. -/
def Reg.priv (r : Reg) : Word :=
  let all : Word := 0xFFFFFFFFFFFFFFFF
  match r with
  | .pkg i => if i = 6 ∨ i = 7 then 0 else all
  | .trs _ | .exp _ _ | .route _ | .cpq _ _ | .cap _ _ _ | .fw _ | .pci _ _ | .brg _ | .lstat _ _ => all
  | .port _ i => if i = 0 then all else 0
  | .die _ i => if i = 15 ∨ i = 16 ∨ i = 20 ∨ i = 21 ∨ i = 22 then 0 else all
  | .errRec _ _ _ _ => 0
  | .cluster _ i => if i = 1 then 0xFFFF0000001F0000 else if 6 ≤ i then 0 else all
  | .core _ i => if i = 1 then ~~~0x100 else if i < 4 then all else 0
  | .slot _ _ i =>
    if i ≤ 2 ∨ (4 ≤ i ∧ i ≤ 10) ∨ i = 23 ∨ i = 24 then all else 0

/-- The bits of WOP fields. -/
def Reg.wop (r : Reg) : Word :=
  match r with
  | .port _ i => if i = 0 then 0x20 else 0
  | .cpq _ i => if i = 0 then 2 else 0
  | .cap _ _ hi => if hi then 0x4000000000000000 else 0
  | .fw i => if i = 0 then 6 else 0
  | .slot _ _ i => if i = 0 then 7 else 0
  | _ => 0

/-- Registers every store to which acts on privileged state: TLB_INVC, FLT_ACK, SEAM_MIG and CX_DDATA. -/
def Reg.command (r : Reg) : Bool :=
  match r with
  | .pkg i => decide (i = 4)
  | .die _ i => decide (i = 14) || decide (i = 17)
  | .slot _ _ i => decide (i = 3)
  | _ => false

/-- Registers with a field that the unprivileged view may write: SEAM_REL, CX_PRIO, CX_FFLAGS. -/
def Reg.userWritable (r : Reg) : Bool :=
  match r with
  | .die _ i => decide (i = 16)
  | .slot _ _ i => decide (i = 12) || decide (i = 22)
  | _ => false

/-! ### Writes in the privileged view -/

/-- The state that an event leaves. -/
def after (o : Host.Outcome State Fault Refusal) (s : State) : State :=
  match o with
  | .next t => t
  | _ => s

/-- GOV_CTL's fields (R194). -/
def govMask : Word := 0x0000FFF0FFFFFFF1

/-- TLB_INVC (R133). -/
def State.writeInvc (s : State) (v : Word) : State :=
  s.startInv (wb v 7) (BitVec.ofNat 3 (bf v 2 0)) (BitVec.ofNat 16 (bf v 63 48)) (bf v 47 20)

/-- Writes of the package's registers. GOV_CTL.EN, cleared or set, acts with the governor's next evaluation: points and patterns stand until then
(DESIGN CHOICE, log entry 74). -/
def State.setPkg (s : State) (i : Nat) (v : Word) : State :=
  match i with
  | 0 => s.modHead (fun h => { h with govCtl := v &&& govMask })
  | 1 => s.modHead (fun h => { h with govMsia := v &&& msiaMask })
  | 2 => s.modHead (fun h => { h with govMsid := v &&& msidMask })
  | 3 => s.modHead (fun h => { h with inva := v &&& 0x01FFFFFFFFFFF000#64 })
  | 4 => s.writeInvc v
  | 5 => s.modHead (fun h => { h with invDrop := h.invDrop && !wb v 0 })
  | _ => s

def State.setTrs (s : State) (i : Nat) (v : Word) : State :=
  s.modHead (fun h =>
    match i with
    | 0 => { h with trsId := v.setWidth 12 }
    | 1 => { h with trsEtype := v.setWidth 16 }
    | 2 => { h with trsTmo := v }
    | 3 => { h with trsRqbase := v }
    | _ => { h with trsNpkg := v })

/-- Fields of TRS_EXP (R393). -/
def expMask (hi : Bool) : Word := if hi then 0xF80FFFFFFFFFFFFF else 0x000FFFFFFFFFF000

/-- A half of a 128-bit register replaced. -/
def Cap.setHalf (c : Cap) (hi : Bool) (v : Word) : Cap := if hi then { c with hi := v } else { c with lo := v }

/-- A write of a capability: a change of BASE, LEN or a permission clears TAG, and SEAL = 1 seals (R381). -/
def Cap.written (c : Cap) (hi : Bool) (v : Word) : Cap :=
  let len := v &&& 0x000FFFFFFFFFFFFF#64
  let lo := v &&& 0x00FFFFFFFFFFFFFF#64
  if hi then
    let d : Cap := { c with hi := if bf c.hi 51 0 = bf len 51 0 then c.hi else len }
    if wb v 62 then d.seal else d
  else if c.lo = lo then c
  else { hi := putField c.hi 63 63 0, lo := lo }

/-- TRS_PST: EN, and a retraining. -/
def State.setPst (s : State) (p : Nat) (v : Word) : State :=
  let t := s.modPort p (fun x => { x with en := wb v 4 })
  if wb v 5 then after (execRetrain (BitVec.ofNat 3 p) t) t else t

def State.setCpq (s : State) (q i : Nat) (v : Word) : State :=
  s.modCpq q (fun c =>
    match i with
    | 0 => { c with ctl := v &&& 0xFF3F05#64, halt := c.halt && !wb v 1 }
    | 2 => { c with tail := v.setWidth 32 }
    | 5 => { c with chead := v.setWidth 32 }
    | 6 => { c with msia := v &&& msiaMask }
    | 7 => { c with msid := v &&& msidMask }
    | _ => c)

/-- CP_FWCTL: SWAP, then COMMIT. -/
def State.setFw (s : State) (v : Word) : State :=
  let t := if wb v 1 then after (execFwSwap s) s else s
  if wb v 2 then after (execFwCommit t) t else t

/-- PCI_CTL_WRITE: EN, at which the links train or go down, and BIF for the next link reset (R376). -/
def execPciCtlWrite (port : Bool) (v : Word) (s : State) : Host.Outcome State Fault Refusal :=
  .next (s.modHead (fun h => { h with pci := modAt (fun p => { p with ctl := v &&& 0xD#64, up := wb v 0 }) (b2n port) h.pci }))

/-- LINK_RESET: the bifurcation asked for takes effect, and the links train where EN is 1. -/
def execLinkReset (port : Bool) (s : State) : Host.Outcome State Fault Refusal :=
  .next (s.modHead (fun h => { h with pci := modAt (fun p => { p with
    bifNow := BitVec.ofNat 2 (bf p.ctl 3 2), up := wb p.ctl 0 }) (b2n port) h.pci }))

def State.setPci (s : State) (p i : Nat) (v : Word) : State :=
  match i with
  | 0 => after (execPciCtlWrite (decide (p = 1)) v s) s
  | 1 => s.modHead (fun h => { h with pci := modAt (fun x => { x with msia := v &&& msiaMask }) p h.pci })
  | _ => s.modHead (fun h => { h with pci := modAt (fun x => { x with msid := v &&& msidMask }) p h.pci })

def State.setBrg (s : State) (i : Nat) (v : Word) : State :=
  match i with
  | 2 => s.modHead (fun h => { h with brgMsia := v &&& msiaMask })
  | 3 => s.modHead (fun h => { h with brgMsid := v &&& msidMask })
  | _ => s

/-- FLT_CTL: a TIMER of 0 and a THRESH of 0 or above 512 leave their fields (R129). -/
def Flt.written (f : Flt) (v : Word) : Flt :=
  let timer := if bf v 47 32 = 0 then bf f.ctl 47 32 else bf v 47 32
  let th := if bf v 25 16 = 0 ∨ 512 < bf v 25 16 then bf f.ctl 25 16 else bf v 25 16
  { f with ctl := BitVec.ofNat 64 (timer * 2 ^ 32 + th * 2 ^ 16 + b2n (wb v 0)) }

/-- SSQ_CTL (R174). -/
def State.setSsq (s : State) (d : Nat) (v : Word) : State :=
  if wb v 0 then s.armSeq d v else (s.idleSeq d).modSeq d (fun q => { q with ctl := ssqMask v })

/-- A die number as a Boolean. -/
def dieB (d : Nat) : Bool := decide (d = 1)

def State.setDie (s : State) (d i : Nat) (v : Word) : State :=
  let base : Word := v &&& 0x000FFFFFFFFFFFC0#64
  match i with
  | 0 => s.setSsq d v
  | 1 => s.modSeq d (fun q => { q with stab := base })
  | 2 => s.modSeq d (fun q => { q with graph := base })
  | 3 => s.modSeq d (fun q => { q with blkt := base })
  | 5 => s.modSeq d (fun q => { q with msia := v &&& msiaMask })
  | 6 => s.modSeq d (fun q => { q with msid := v &&& msidMask })
  | 7 => s.modFlt d (fun f => f.written v)
  | 8 => s.modFlt d (fun f => { f with ring := v &&& 0x000FFFFFFFFFF80F#64 })
  | 10 => s.modFlt d (fun f => { f with cons := v.setWidth 32 })
  | 11 => s.modFlt d (fun f => { f with msia := v &&& msiaMask })
  | 12 => s.modFlt d (fun f => { f with msid := v &&& msidMask })
  | 14 => after (execFltAck (dieB d) (v.setWidth 32) s) s
  | 16 => after (execSeamRel (dieB d) (v.setWidth 15) s) s
  | 17 => after (execSeamMig (dieB d) (BitVec.ofNat 7 (bf v 22 16)) (v.setWidth 15) s) s
  | 18 => s.modDie d (fun x => { x with scrub := BitVec.ofNat 64 (min (2 ^ 20) v.toNat) })
  | 19 =>
    if wb v 63 then s.modDie d (fun x => { x with gateEn := true, gateBeh := BitVec.ofNat 16 (bf v 47 32) })
    else after (execPwrGateDisable (dieB d) (BitVec.ofNat 16 (bf v 47 32)) s) s
  | 23 => s.modDie d (fun x => { x with risk := x.risk && !wb v 0 })
  | 28 => after (execErrInj (dieB d) v s) s
  | 29 => s.modDie d (fun x => { x with injPos := v &&& 0x7F7F#64 })
  | _ => s

/-- GOV_PAT.XPAT acts at once where a crew in exact mode runs (R191). -/
def State.setXpat (s : State) (c : Nat) (v : Word) : State :=
  let t := s.modCluster c (fun x => { x with xpat := BitVec.ofNat 16 (bf v 31 16) })
  if t.exactIn c && !t.head.held && t.head.govEn then t.modCluster c (fun x => { x with pat := x.xact }) else t

def State.setCluster (s : State) (c i : Nat) (v : Word) : State :=
  match i with
  | 0 => s.setXpat c v
  | 1 => s.setOwner c (BitVec.ofNat 16 (bf v 63 48)) (BitVec.ofNat 5 (bf v 20 16))
  | _ => s

def State.setCore (s : State) (k i : Nat) (v : Word) : State :=
  match i with
  | 0 => s.modCore k (fun c => { c with ilim := v &&& 0xFFF#64 })
  | 1 => s.modCore k (fun c => { c with splitEn := wb v 9, splitMask := v.setWidth 8 })
  | _ => s

/-- CX_CTL.ACT (R170). -/
def State.cxAct (s : State) (k r act : Nat) : State :=
  match act with
  | 1 => after (execCxResume k r s) s
  | 2 => after (execCxStep k r s) s
  | 3 => after (execCxStop k r s) s
  | 4 => after (execCxKill k r s) s
  | _ => s

def State.setSlot (s : State) (k r i : Nat) (v : Word) : State :=
  match i with
  | 0 => s.cxAct k r (bf v 2 0)
  | 1 => if (s.ctx k r).parked then s.modRegs k r (fun g => { g with pc := v.setWidth 18 }) else s
  | 2 => s.modCtx k r (fun c => { c with dsel := v &&& 0xFFFFFF#64 })
  | 3 => after (execCxDdataWrite k r v s) s
  | 4 => s.modCtx k r (fun c => { c with dbrk := v &&& 0xC003FFFF0003FFFF#64 })
  | 5 => after (execHeapWindowRegWrite k r 0 v s) s
  | 6 => after (execHeapWindowRegWrite k r 1 v s) s
  | 7 => after (execHeapWindowRegWrite k r 2 v s) s
  | 8 => after (execCxHctlWrite k r v s) s
  | 9 => s.modCtx k r (fun c => { c with xl := { c.xl with root := rootReg v } })
  | 10 => s.modCtx k r (fun c => { c with wdog := v &&& 0x0000003F0000003F#64 })
  | 12 => landCsr s k r .prio v
  | 22 => landCsr s k r .fflags v
  | _ => s

/-- A write in the privileged view. -/
def State.setReg (s : State) (r : Reg) (v : Word) : State :=
  match r with
  | .pkg i => s.setPkg i v
  | .trs i => s.setTrs i v
  | .exp n hi => s.modHead (fun h => { h with exps := modAt (fun c => c.setHalf hi (v &&& expMask hi)) n h.exps })
  | .route q => s.modHead (fun h => { h with routes := Tab.set h.routes q (v.setWidth 8) })
  | .port p i => if i = 0 then s.setPst p v else s
  | .cpq q i => s.setCpq q i v
  | .cap q n hi => s.modCpq q (fun c => { c with caps := modAt (fun x => x.written hi v) n c.caps })
  | .fw i => if i = 0 then s.setFw v else s
  | .pci p i => s.setPci p i v
  | .brg i => s.setBrg i v
  | .die d i => s.setDie d i v
  | .lstat d a => after (execErrLstatWrite (dieB d) (BitVec.ofNat 4 a) v s) s
  | .errRec _ _ _ _ => s
  | .cluster c i => s.setCluster c i v
  | .core k i => s.setCore k i v
  | .slot k r i => s.setSlot k r i v

/-! ### Loads and stores in a view (R9, R373) -/

/-- A debug access wakes its core (R200). -/
def State.touchReg (s : State) (r : Reg) : State :=
  match r with
  | .slot k _ _ => s.wake k
  | _ => s

/-- A load: the fields of the view, a hole reads zero; a debugger's read of an uncorrectable word is stopped (R81). -/
def State.loadReg (s : State) (priv : Bool) (o : Nat) : State :=
  if o % 8 ≠ 0 then { s with resp := .accessFault }
  else
    match regAt o with
    | none => { s with resp := .value 0 }
    | some r =>
      let t := s.touchReg r
      let v := t.reg r &&& (if priv then 0xFFFFFFFFFFFFFFFF#64 else ~~~r.priv)
      (match r with
       | .slot k q i =>
         if i = 3 ∧ (t.ctx k q).parked then
           let ls := t.selWords k q
           let u := t.meetUpsets ls none
           if t.ueAt ls then { u with resp := .accessFault } else { u with resp := .value (v.setWidth 1024), free := u.free + 1 }
         else if i = 1 then { t with resp := .value (v.setWidth 1024), free := t.free + 1 }
         else { t with resp := .value (v.setWidth 1024) }
       | _ => { t with resp := .value (v.setWidth 1024) })

/-- The store would change a field of a register whose access code ends in P. -/
def State.trapsUser (s : State) (r : Reg) (v : Word) : Bool :=
  r.command || decide (v &&& r.wop ≠ 0) || decide ((s.reg r ^^^ (s.setReg r v).reg r) &&& r.priv ≠ 0)

/-- A store: a hole ignores it; in the unprivileged view one that would change a privileged field is an access fault and
writes nothing. -/
def State.storeReg (s : State) (priv : Bool) (o : Nat) (v : Word) : State :=
  let ok (t : State) : State := { t with resp := .value 0 }
  if o % 8 ≠ 0 then { s with resp := .accessFault }
  else
    match regAt o with
    | none => ok s
    | some r =>
      let t := s.touchReg r
      if priv then ok (t.setReg r v)
      else if t.trapsUser r v then { t with resp := .accessFault }
      else ok (if r.userWritable then t.setReg r v else t)

/-- REG_WRITE. -/
def execRegWrite (priv : Bool) (off : BitVec 33) (v : Word) (s : State) : Host.Outcome State Fault Refusal :=
  .next (s.storeReg priv off.toNat v)

end Sys2Proof.Machine
end

