-- ==== Sys2Proof/Machine/Outside.lean ====
section
/-!
DEFINITION. The accesses of the agents outside the compute dies (R22, R109, R371, R372, R376 to R379): the root ports with their
configuration space, the application harts, the IOMMU and inbound PCIe.
-/

namespace Sys2Proof.Machine

/-! ### Root ports (R376 to R378) -/

/-- Logical root ports that a port forms. -/
def Pci.logical (p : Pci) : Nat :=
  match p.bifNow.toNat with
  | 1 => 2
  | 2 => 4
  | _ => 1

/-- Change a root port. -/
def State.modPci (s : State) (p : Nat) (f : Pci → Pci) : State := s.modHead (fun h => { h with pci := modAt f p h.pci })

/-- Whether a device stands behind a logical port after an event of it: the event does not say, so it is a free value (log entry 63). A
change of presence is one that the slot status shows. -/
def State.plug (s : State) (p j : Nat) : State :=
  let b := (Config.openValue s.free).getLsbD 0
  let m : BitVec 4 := BitVec.ofNat 4 (2 ^ j)
  { s.modPci p (fun x => { x with
      present := if b then x.present ||| m else x.present &&& ~~~m
      changed := if x.present.getLsbD j = b then x.changed else x.changed ||| m }) with free := s.free + 1 }

/-- ROOT_PORT_EVENT: a link, hot-plug or AER event of a logical port sends its MSI. -/
def execRootPortEvent (port : Bool) (j : BitVec 2) (s : State) : Host.Outcome State Fault Refusal :=
  let p := s.head.pci.getD (b2n port) Pci.reset
  let id := msiId p.msid
  if p.logical ≤ j.toNat then .next s
  else
    let t := s.plug (b2n port) j.toNat
    if id = 0 ∨ 2047 < id + j.toNat then .next t else .next (t.msi (msiAddr p.msia) (id + j.toNat))

/-- Where an address of the root ports' windows lies (R377, R378): the port, the logical port, the offset in its part. -/
def State.pciPlace (s : State) (a : Nat) : Nat × Nat × Nat :=
  let p := (a - 0x8000000000000) / 0x4000000000000
  let o := (a - 0x8000000000000) % 0x4000000000000
  let part := 0x4000000000000 / (s.head.pci.getD p Pci.reset).logical
  (p, o / part, o % part)

/-! The configuration space of a logical root port, as PCI Express lays out a type-1 function; the offsets of its capabilities are the model's:
the PCI Express capability at 0x40, AER at 0x100, ACS at 0x140 (PRESUMED, log entry 63). -/

/-- A byte of it as software left it, else as the port holds it; the bus numbers and the ACS control stand at 0 before. -/
def Pci.raw (x : Pci) (p j o : Nat) : Byte :=
  match x.cfg.find? (fun e => decide (e.1 = j * 4096 + o)) with
  | some e => e.2
  | none => if (0x18 ≤ o ∧ o < 0x1B) ∨ o = 0x146 ∨ o = 0x147 then 0#8 else Config.pciConfigByte (p * 4 + j) o

/-- A byte that is read: the slot status at 0x5A shows a change of presence (bit 3) and presence (bit 6); the uncorrectable error status stands
at 0x104. -/
def State.cfgByte (s : State) (p j o : Nat) : Byte :=
  let x := s.head.pci.getD p Pci.reset
  if o = 0x5A then (x.raw p j o &&& 0xB7#8) ||| BitVec.ofNat 8 (8 * b2n (x.changed.getLsbD j) + 64 * b2n (x.present.getLsbD j))
  else if 0x104 ≤ o ∧ o < 0x108 then BitVec.ofNat 8 ((Tab.get x.uncor j).toNat / 2 ^ (8 * (o - 0x104)))
  else x.raw p j o

/-- Bytes that no write changes: the identities, the class, the header type and the capability pointer. -/
def cfgFixed (o : Nat) : Bool := decide (o < 4) || (decide (8 ≤ o) && decide (o < 12)) || decide (o = 14) || decide (o = 0x34)

/-- Write one byte of it: ones clear the change of presence and the error status. -/
def State.cfgPut (s : State) (p j o : Nat) (b : Byte) : State :=
  if cfgFixed o then s
  else s.modPci p (fun x =>
    let x := if o = 0x5A && b.getLsbD 3 then { x with changed := x.changed &&& ~~~(BitVec.ofNat 4 (2 ^ j)) } else x
    if 0x104 ≤ o ∧ o < 0x108 then { x with uncor := Tab.set x.uncor j (Tab.get x.uncor j &&& ~~~(BitVec.ofNat 32 (b.toNat * 2 ^ (8 * (o - 0x104))))) }
    else { x with cfg := (j * 4096 + o, b) :: x.cfg.filter (fun y => decide (y.1 ≠ j * 4096 + o)) })

/-- Write bytes of it. -/
def State.cfgWrite (s : State) (p j o : Nat) (bs : List Byte) : State := bs.zipIdx.foldl (fun t e => t.cfgPut p j (o + e.2) e.1) s

/-- n bytes of it as a number, as the routing reads them. -/
def Pci.field (x : Pci) (p j o n : Nat) : Nat := leNat ((List.range n).map (fun i => x.raw p j (o + i)))

/-- A bus lies in the range of a logical port: its secondary to its subordinate bus. -/
def Pci.busIn (x : Pci) (p j bus : Nat) : Bool := decide (x.field p j 0x19 1 ≤ bus) && decide (bus ≤ x.field p j 0x1A 1) && decide (0 < bus)

/-- A logical port forwards an address of its memory window: its memory range or its prefetchable range holds it. -/
def Pci.memIn (x : Pci) (p j a : Nat) : Bool :=
  let f (o : Nat) : Nat := x.field p j o 2 / 16
  let pre (o up : Nat) : Nat := x.field p j up 4 * 2 ^ 32 + f o * 2 ^ 20
  (decide (f 0x20 * 2 ^ 20 ≤ a) && decide (a < (f 0x22 + 1) * 2 ^ 20)) || (decide (pre 0x24 0x28 ≤ a) && decide (a < pre 0x26 0x2C + 2 ^ 20))

/-- An error enters a logical port's AER log and its uncorrectable status: Unsupported Request (bit 20), Completer Abort (bit 15), an ACS
violation (bit 21), which is answered with Completer Abort. -/
def State.aer (s : State) (p j bit : Nat) (r : Resp) : State :=
  s.modPci p (fun x => { x with aer := x.aer ++ [(j, r)], uncor := Tab.set x.uncor j (Tab.get x.uncor j ||| BitVec.ofNat 32 (2 ^ bit)) })

/-! ### Accesses of outside agents -/

/-- An access to memory at its home copy: its outcome with the state, or what stops it. -/
def State.outAccess (s : State) (a : OutAcc) (seamFull uncorrectable : Resp) : State :=
  let n := a.addr.toNat
  match s.touch n a.size none with
  | none => { s with resp := seamFull }
  | some t =>
    match t.accessAt a.kind n a.size with
    | (some v, u) => { u with resp := .value v }
    | (none, u) => { u with resp := uncorrectable }

/-- The kind reads. -/
def kindReads (k : AccKind) : Bool :=
  match k with
  | .store _ | .storeRow _ => false
  | _ => true

/-- The kind writes. -/
def kindWrites (k : AccKind) : Bool :=
  match k with
  | .load | .loadRow => false
  | _ => true

/-- A 4-byte store to an interrupt file is an MSI; other accesses to the files' range are access faults, but a load of a file's
register, which reads zero. -/
def State.imsicAccess (s : State) (a : OutAcc) (bad : Resp) : State :=
  match a.kind with
  | .store v => if a.size = 4 then { s.msi a.addr.toNat (bf v 31 0) with resp := .value 0 } else { s with resp := bad }
  | .load => if a.size = 4 ∧ bad = .accessFault then { s with resp := .value 0 } else { s with resp := bad }
  | _ => { s with resp := bad }

/-- A load from or a store to the control range. -/
def State.ctlAccess (s : State) (a : OutAcc) : State :=
  let o := a.addr.toNat - 0x40000000000
  let priv := decide (o < 0x200000000)
  match a.kind with
  | .load => if a.size = 8 then s.loadReg priv (o % 0x200000000) else { s with resp := .accessFault }
  | .store v => if a.size = 8 then s.storeReg priv (o % 0x200000000) v else { s with resp := .accessFault }
  | _ => { s with resp := .accessFault }

/-- Memory that an application core reaches. -/
def appMem (a n : Nat) : Bool := decide (0 < n) && (inHbm a n || inSlots a n || inSpad a n || inHalf a n)

/-- An access to the root ports' windows (R377, R378): a logical port's own configuration space, bus 0, device 0, function 0 of its segment, is
state; a request that the port's bus range or windows route over a link that is up answers a read with a free value, as an endpoint gives it;
no other is claimed, and a read of it is all ones (log entry 63). -/
def State.pciAccess (s : State) (a : OutAcc) : State :=
  let (p, j, o) := s.pciPlace a.addr.toNat
  let x := s.head.pci.getD p Pci.reset
  let own := decide (o + a.size ≤ 4096)
  let ones : Row := BitVec.ofNat 1024 (2 ^ (8 * a.size) - 1)
  let routed := x.up && (if o < 0x10000000 then x.busIn p j (o / 0x100000) else x.memIn p j a.addr.toNat)
  match a.kind, own with
  | .load, true => { s with resp := .value (ofBytes 1024 ((List.range a.size).map (fun i => s.cfgByte p j (o + i)))) }
  | .store v, true => { s.cfgWrite p j o (toBytes a.size v) with resp := .value 0 }
  | k, _ =>
    if !kindReads k then { s with resp := .value 0 }
    else if routed then { s with resp := .value (freeRow s.free &&& ones), free := s.free + 16 }
    else { s with resp := .value ones }

/-! ### The IOMMU (R379)

The registers, tables and queues are those of the RISC-V IOMMU specification, with first-stage Sv57 and flat MSI tables (PRESUMED, log entry 59). -/

/-- A 32-bit half of a word. -/
def half32 (v : Word) (hi : Bool) : BitVec 32 := v.extractLsb' (if hi then 32 else 0) 32

/-- A word with one of its halves replaced. -/
def setHalf32 (v : Word) (hi : Bool) (h : BitVec 32) : Word := if hi then putField v 63 32 h.toNat else putField v 31 0 h.toNat

/-- What the IOMMU can do: version 1.0, Sv57, Svpbmt, flat MSI tables, updates of A and D, MSIs, 52-bit addresses. -/
def iommuCaps : Word := 0x0000003401408810

/-- A register of the IOMMU, by its offset, 32 bits. -/
def Iommu.word (m : Iommu) (o : Nat) : BitVec 32 :=
  let h := decide (o % 8 = 4)
  match o / 8 * 8 with
  | 0x00 => half32 iommuCaps h
  | 0x08 => if h then 0 else m.fctl
  | 0x10 => half32 m.ddtp h
  | 0x18 => half32 m.cqb h
  | 0x20 => if h then m.cqt else m.cqh
  | 0x28 => half32 m.fqb h
  | 0x30 => if h then m.fqt else m.fqh
  | 0x48 => if h then m.fqcsr else m.cqcsr
  | 0x50 => if h then m.ipsr else 0
  | 0x2F8 => half32 m.icvec h
  | _ => if 0x300 ≤ o ∧ o < 0x400 then Tab.get m.msiCfg (o / 4) else 0

/-- Change the IOMMU. -/
def State.modIommu (s : State) (f : Iommu → Iommu) : State := s.modHead (fun h => { h with iommu := f h.iommu })

/-- Entries of a queue by its base register. -/
def iqSize (b : Word) : Nat := 2 ^ (bf b 4 0 + 1)

/-- Place of its entry i. -/
def iqEnt (b : Word) (i w : Nat) : Nat := bf b 53 10 * 4096 + i % iqSize b * w

/-- An interrupt of a queue, 0 the commands, 1 the faults: pending, and sent once as the MSI of its vector unless that is masked. -/
def State.iommuIrq (s : State) (q : Nat) (en : Bool) : State :=
  let m := s.head.iommu
  if !en || m.ipsr.getLsbD q then s
  else
    let v := 0x300 / 4 + bf m.icvec (4 * q + 3) (4 * q) * 4
    let t := s.modIommu (fun x => { x with ipsr := x.ipsr ||| BitVec.ofNat 32 (2 ^ q) })
    if (Tab.get m.msiCfg (v + 3)).getLsbD 0 then t
    else t.msi ((Tab.get m.msiCfg v).toNat + (Tab.get m.msiCfg (v + 1)).toNat * 2 ^ 32) (Tab.get m.msiCfg (v + 2)).toNat

/-- A fault record enters the fault queue: nothing while the queue is off or in error; a full queue, and a record that cannot be written, are
errors of it. -/
def State.iommuFault (s : State) (a : OutAcc) (cause : Nat) : State :=
  let m := s.head.iommu
  let err (b : Nat) : State := (s.modIommu (fun x => { x with fqcsr := x.fqcsr ||| BitVec.ofNat 32 (2 ^ b) })).iommuIrq 1 (m.fqcsr.getLsbD 1)
  if !m.fqcsr.getLsbD 16 || m.fqcsr.getLsbD 8 || m.fqcsr.getLsbD 9 then s
  else
    let next := (m.fqt.toNat + 1) % iqSize m.fqb
    let e := iqEnt m.fqb m.fqt.toNat 32
    let w0 := cause + (if kindWrites a.kind then 3 else 2) * 2 ^ 34 + a.agent % 2 ^ 24 * 2 ^ 40
    if next = m.fqh.toNat % iqSize m.fqb then err 9
    else if !inHbm e 32 || s.heldAt e 32 then err 8
    else
      let t := s.write e (leBytes 8 w0 ++ leBytes 8 0 ++ leBytes 8 a.addr.toNat ++ leBytes 8 0)
      (t.modIommu (fun x => { x with fqt := BitVec.ofNat 32 next })).iommuIrq 1 (m.fqcsr.getLsbD 1)

/-- A command: an invalidation, of which there is nothing to do where no translation is cached, and a fence, which writes its data where it asks
for that, to memory or to an interrupt file; anything else, and a fence that asks for a wire, is illegal and stops the queue. -/
def State.iommuCmd (s : State) (lo hi : Word) : Option State :=
  match bf lo 6 0, bf lo 9 7 with
  | 1, 0 | 1, 1 | 3, 0 | 3, 1 => some s
  | 2, 0 =>
    let p := bf hi 61 0 * 4
    if wb lo 11 then none
    else if !wb lo 10 then some s
    else if inHbm p 4 && !s.heldAt p 4 then some (s.write p (leBytes 4 (bf lo 63 32)))
    else some (s.msi p (bf lo 63 32))
  | _, _ => none

/-- The commands up to the tail, in order; one that is illegal, or cannot be read, stays at the head. -/
def State.iommuRun (s : State) : Nat → State
  | 0 => s
  | f + 1 =>
    let m := s.head.iommu
    let n := iqSize m.cqb
    let e := iqEnt m.cqb m.cqh.toNat 16
    let stop (b : Nat) (t : State) : State :=
      (t.modIommu (fun x => { x with cqcsr := x.cqcsr ||| BitVec.ofNat 32 (2 ^ b) })).iommuIrq 0 (m.cqcsr.getLsbD 1)
    if !m.cqcsr.getLsbD 16 || decide (bf (m.cqcsr.setWidth 64) 10 8 ≠ 0) || decide (m.cqh.toNat % n = m.cqt.toNat % n) then s
    else if !inHbm e 16 || s.heldAt e 16 || s.ueAt (memLocs e 16) then stop 8 (s.meetUpsets (memLocs e 16) none)
    else
      let t := s.meetUpsets (memLocs e 16) none
      match t.iommuCmd (t.read64 e) (t.read64 (e + 8)) with
      | none => stop 10 t
      | some u => (u.modIommu (fun x => { x with cqh := BitVec.ofNat 32 ((m.cqh.toNat + 1) % n) })).iommuRun f

/-- A queue's control: enabling it empties it and clears its errors; ones clear errors. -/
def iqCsr (old v : BitVec 32) (w1c : BitVec 32) : BitVec 32 :=
  let on := v.getLsbD 0
  let err := if on && !old.getLsbD 16 then 0 else old &&& w1c &&& ~~~v
  (v &&& 3#32) ||| err ||| (if on then 0x10000#32 else 0)

/-- A 32-bit write of a register of the IOMMU. -/
def State.iommuSet (s : State) (o : Nat) (v : BitVec 32) : State :=
  let h := decide (o % 8 = 4)
  let m := s.head.iommu
  match o / 8 * 8 with
  | 0x08 => if h then s else s.modIommu (fun x => { x with fctl := v &&& 0#32 })
  | 0x10 =>
    if !h && decide (4 < v.toNat % 16) then s else s.modIommu (fun x => { x with ddtp := setHalf32 x.ddtp h v &&& 0x003FFFFFFFFFFC0F#64 })
  | 0x18 => s.modIommu (fun x => { x with cqb := setHalf32 x.cqb h v &&& 0x003FFFFFFFFFFC1F#64 })
  | 0x20 => if h then (s.modIommu (fun x => { x with cqt := BitVec.ofNat 32 (v.toNat % iqSize x.cqb) })).iommuRun (iqSize m.cqb) else s
  | 0x28 => s.modIommu (fun x => { x with fqb := setHalf32 x.fqb h v &&& 0x003FFFFFFFFFFC1F#64 })
  | 0x30 => if h then s else s.modIommu (fun x => { x with fqh := BitVec.ofNat 32 (v.toNat % iqSize x.fqb) })
  | 0x48 =>
    if h then s.modIommu (fun x => { x with
      fqcsr := iqCsr m.fqcsr v 0x300, fqt := if v.getLsbD 0 && !m.fqcsr.getLsbD 16 then 0 else x.fqt })
    else s.modIommu (fun x => { x with
      cqcsr := iqCsr m.cqcsr v 0xF00, cqh := if v.getLsbD 0 && !m.cqcsr.getLsbD 16 then 0 else x.cqh })
  | 0x50 => if h then s.modIommu (fun x => { x with ipsr := x.ipsr &&& ~~~v }) else s
  | 0x2F8 => s.modIommu (fun x => { x with icvec := setHalf32 x.icvec h v &&& 0xFF#64 })
  | _ => if 0x300 ≤ o ∧ o < 0x400 then s.modIommu (fun x => { x with msiCfg := Tab.set x.msiCfg (o / 4) v }) else s

/-- The page of the IOMMU's registers: one page among the root ports' windows, whose number is not given (log entry 59). -/
def iommuPage (a : Nat) : Bool := decide (a / 4096 = 0x8000000000 + Config.iommuPage % 0x8000000000)

/-- An access to it: aligned, of 4 or 8 bytes. -/
def State.iommuAccess (s : State) (a : OutAcc) : State :=
  let o := a.addr.toNat % 4096
  let ok := (decide (a.size = 4) || decide (a.size = 8)) && decide (o % a.size = 0)
  match a.kind, ok with
  | .load, true =>
    let lo := (s.head.iommu.word o).setWidth 1024
    { s with resp := .value (if a.size = 4 then lo else lo ||| (s.head.iommu.word (o + 4)).setWidth 1024 <<< 32) }
  | .store v, true =>
    let t := s.iommuSet o (half32 v false)
    { (if a.size = 4 then t else t.iommuSet (o + 4) (half32 v true)) with resp := .value 0 }
  | _, _ => { s with resp := .accessFault }

/-- The outcome of a translation: a place, or a cause with whether the device's context lets it be reported. -/
inductive IoEnd
  | at (p : Nat)
  | bad (cause : Nat) (quiet : Bool)
  deriving DecidableEq, Repr

/-- Doublewords of a table of the IOMMU: none where it is not memory, or a word is uncorrectable. -/
def State.iommuRead (s : State) (a n : Nat) : Except Bool (List Word × State) :=
  let t := s.meetUpsets (memLocs a (8 * n)) none
  if !inHbm a (8 * n) || s.heldAt a (8 * n) then .error false
  else if s.ueAt (memLocs a (8 * n)) then .error true
  else .ok ((List.range n).map (fun i => s.read64 (a + 8 * i)), t)

/-- The walk of the device directory from a table of a level: the entry of 64 bytes of the device, or a cause. A device number has 6 bits at
level 0 and 9 at the levels above. -/
def State.iommuDc (s : State) (did : Nat) : Nat → Nat → State × Except Nat (List Word)
  | 0, tab =>
    let a := tab + did % 64 * 64
    match s.iommuRead a 8 with
    | .error ue => (s.meetUpsets (memLocs a 64) none, .error (if ue then 268 else 257))
    | .ok (l, t) => (t, if wb (l.headD 0) 0 then .ok l else .error 258)
  | l + 1, tab =>
    let a := tab + did / 2 ^ (6 + 9 * l) % 512 * 8
    match s.iommuRead a 1 with
    | .error ue => (s.meetUpsets (memLocs a 8) none, .error (if ue then 268 else 257))
    | .ok (e, t) =>
      let e := e.headD 0
      if !wb e 0 then (t, .error 258)
      else if bf e 9 1 ≠ 0 ∨ bf e 63 54 ≠ 0 then (t, .error 259)
      else t.iommuDc did l (bf e 53 10 * 4096)

/-- The bits of a number at the ones of a mask, packed. -/
def packBits (x m : Nat) : Nat :=
  (((List.range 52).filter (fun i => m.testBit i)).zipIdx.map (fun e => b2n (x.testBit e.1) * 2 ^ e.2)).sum

/-- MSI translation of an address by a device's context: none where it is no address of a virtual interrupt file. -/
def State.iommuMsi (s : State) (dc : List Word) (p : Nat) (quiet : Bool) : Option (State × IoEnd) :=
  let ptp := dc.getD 4 0
  let mask := bf (dc.getD 5 0) 51 0
  let page := BitVec.ofNat 64 (p / 4096)
  let m64 := BitVec.ofNat 64 mask
  if bf ptp 63 60 ≠ 1 ∨ page &&& ~~~m64 ≠ BitVec.ofNat 64 (bf (dc.getD 6 0) 51 0) &&& ~~~m64 then none
  else
    let a := bf ptp 43 0 * 4096 + packBits (p / 4096) mask * 16
    match s.iommuRead a 2 with
    | .error ue => some (s.meetUpsets (memLocs a 16) none, .bad (if ue then 270 else 261) quiet)
    | .ok (l, t) =>
      let e := l.headD 0
      if !wb e 0 then some (t, .bad 262 quiet)
      else if bf e 2 1 ≠ 3 ∨ wb e 63 then some (t, .bad 263 quiet)
      else some (t, .at (bf e 53 10 * 4096 + p % 4096))

/-- The kind of a request as the translation sees it. -/
def accAk (k : AccKind) : AK :=
  match k with
  | .load | .loadRow => .load
  | .store _ | .storeRow _ => .store
  | .atom _ _ _ => .atomic

/-- First-stage translation by a device's context: none, or Sv57 with the update of A and D where the context allows it (its SADE), read
from memory. A page that faults gives the page fault of the kind, one outside memory the access fault. -/
def State.iommuFirst (s : State) (dc : List Word) (a : OutAcc) (quiet : Bool) : State × IoEnd :=
  let p := a.addr.toNat
  let fsc := dc.getD 3 0
  let c (r w : Nat) : Nat := if kindWrites a.kind then w else r
  match bf fsc 63 60 with
  | 0 => (s, .at p)
  | 10 =>
    if (p / 2 ^ 56) ≠ 0 ∧ p / 2 ^ 56 ≠ 255 then (s, .bad (c 13 15) quiet)
    else
      let rd (_ ea : Nat) : Option (Word × Bool) := if s.ueAt (memLocs ea 8) then none else some (s.read64 ea, false)
      let w := if inHbm (bf fsc 43 0 * 4096) 4096 then walkLevels s.head.held rd (p % 2 ^ 57) (accAk a.kind) 5 (bf fsc 43 0 * 4096)
        else (.fault 5 12, [], [])
      let t := w.2.1.foldl (fun u ea => u.meetUpsets (memLocs ea 8) none) s
      match w.1 with
      | .leaf pte ea bits =>
        let want := wantBits pte (accAk a.kind)
        if want = pte then (t, .at (leafPa pte bits p))
        else if wb (dc.headD 0) 8 then (t.write64 ea want, .at (leafPa pte bits p))
        else (t, .bad (c 13 15) quiet)
      | .fault cause _ => (t, .bad (if cause = 5 then c 5 7 else if cause = 7 then 274 else c 13 15) quiet)
  | _ => (s, .bad 259 false)

/-- The IOMMU: off, it lets nothing through; bare, everything untranslated; else the requester's device context is found and translates. A
second stage and process contexts are not had (R379). -/
def State.iommuXlat (s : State) (a : OutAcc) : State × IoEnd :=
  let m := s.head.iommu
  let did := a.agent % 2 ^ 24
  match bf m.ddtp 3 0 with
  | 0 => (s, .bad 256 false)
  | 1 => (s, .at a.addr.toNat)
  | mode =>
    if (mode = 2 ∧ 64 ≤ did) ∨ (mode = 3 ∧ 2 ^ 15 ≤ did) then (s, .bad 260 false)
    else
      match s.iommuDc did (mode - 2) (bf m.ddtp 53 10 * 4096) with
      | (t, .error c) => (t, .bad c false)
      | (t, .ok dc) =>
        let tc := dc.headD 0
        let quiet := wb tc 4
        if bf (dc.getD 1 0) 63 60 ≠ 0 ∨ bf tc 3 1 ≠ 0 ∨ wb tc 5 ∨ (1 < bf (dc.getD 4 0) 63 60) then (t, .bad 259 false)
        else
          match t.iommuFirst dc a quiet with
          | (u, .at p) => (u.iommuMsi dc p quiet).getD (u, .at p)
          | r => r

/-! ### Application harts (R22, R81, R371)

What RV64 and the AIA specification give is PRESUMED from there (log entry 50). -/

/-- Rank of a mode. -/
def HartMode.rank : HartMode → Nat
  | .u => 0 | .s => 1 | .m => 3

/-- The mode of a two-bit field; the reserved value keeps the old one. -/
def HartMode.of (n : Nat) (old : HartMode) : HartMode :=
  match n with
  | 0 => .u | 1 => .s | 3 => .m | _ => old

/-- Where a trap goes: a vectored base spreads interrupts. -/
def trapPc (base : Word) (irq : Bool) (cause : Nat) : Word :=
  (base &&& ~~~3#64) + (if irq && base.getLsbD 0 then BitVec.ofNat 64 (4 * cause) else 0)

/-- A hart takes an exception or an interrupt: in S mode where it is delegated and the hart is not in M mode, else in M mode. -/
def Hart.trap (h : Hart) (irq : Bool) (cause : Nat) (tval : Word) : Hart :=
  let code : Word := BitVec.ofNat 64 (cause + 2 ^ 63 * b2n irq)
  if (if irq then h.mideleg else h.medeleg).getLsbD cause && decide (h.mode ≠ .m) then
    { h with
      sepc := h.pc, scause := code, stval := tval, spp := h.mode, mode := .s, spie := h.sie, sie := false
      pc := trapPc h.stvec irq cause }
  else
    { h with
      mepc := h.pc, mcause := code, mtval := tval, mpp := h.mode, mode := .m, mpie := h.mie, mie := false
      pc := trapPc h.mtvec irq cause }

/-- The fields of mstatus that S mode sees. -/
def Hart.sstatus (h : Hart) (v : Word) : Hart :=
  { h with
    sie := wb v 1, spie := wb v 5, spp := if wb v 8 then .s else .u, vs := BitVec.ofNat 2 (bf v 10 9), fs := BitVec.ofNat 2 (bf v 14 13)
    sum := wb v 18, mxr := wb v 19 }

/-- A write of a CSR; satp takes the modes Bare and Sv57 only. -/
def Hart.csr (h : Hart) (n : Nat) (v : Word) : Hart :=
  match n with
  | 0x001 => { h with fcsr := putLow h.fcsr 5 v }
  | 0x002 => { h with fcsr := (h.fcsr &&& 0x1F#8) ||| BitVec.ofNat 8 (bf v 2 0 * 32) }
  | 0x003 => { h with fcsr := v.setWidth 8 }
  | 0x008 => { h with vstart := v }
  | 0x009 => { h with vcsr := (h.vcsr &&& 6#3) ||| BitVec.ofNat 3 (bf v 0 0) }
  | 0x00A => { h with vcsr := (h.vcsr &&& 1#3) ||| BitVec.ofNat 3 (bf v 1 0 * 2) }
  | 0x00F => { h with vcsr := v.setWidth 3 }
  | 0x100 => h.sstatus v
  | 0x104 => { h with enables := (h.enables &&& ~~~h.mideleg) ||| (v &&& h.mideleg) }
  | 0x105 => { h with stvec := v &&& ~~~2#64 }
  | 0x140 => { h with sscratch := v }
  | 0x141 => { h with sepc := v &&& ~~~1#64 }
  | 0x142 => { h with scause := v }
  | 0x143 => { h with stval := v }
  | 0x180 => if bf v 63 60 = 0 ∨ bf v 63 60 = 10 then { h with satp := v } else h
  | 0x300 =>
    { h.sstatus v with
      mie := wb v 3, mpie := wb v 7, mpp := HartMode.of (bf v 12 11) h.mpp, mprv := wb v 17 }
  | 0x302 => { h with medeleg := v }
  | 0x303 => { h with mideleg := v &&& 0x222#64 }
  | 0x304 => { h with enables := v &&& 0xAAA#64 }
  | 0x305 => { h with mtvec := v &&& ~~~2#64 }
  | 0x340 => { h with mscratch := v }
  | 0x341 => { h with mepc := v &&& ~~~1#64 }
  | 0x342 => { h with mcause := v }
  | 0x343 => { h with mtval := v }
  | _ => h
where
  /-- The low n bits replaced. -/
  putLow (x : BitVec 8) (n : Nat) (v : Word) : BitVec 8 := BitVec.ofNat 8 (x.toNat / 2 ^ n * 2 ^ n + v.toNat % 2 ^ n)

/-- A write of a register of an interrupt file: delivery, threshold, and the enables of 64 identities each. -/
def ImsicFile.put (f : ImsicFile) (sel : Nat) (v : Word) : ImsicFile :=
  if sel = 0x70 then { f with delivery := wb v 0 }
  else if sel = 0x72 then { f with threshold := v.setWidth 11 }
  else if 0xC0 ≤ sel ∧ sel % 2 = 0 then
    let b := (sel - 0xC0) * 32
    let on := ((List.range 64).filter (fun i => wb v i && decide (0 < b + i) && decide (b + i < 2048))).map (b + ·)
    { f with enabled := f.enabled.filter (fun e => decide (e < b) || decide (b + 64 ≤ e)) ++ on }
  else f

/-- The identity that a file delivers: the least of those pending and enabled, below its threshold. -/
def ImsicFile.top (f : ImsicFile) (pend : List Nat) : Option Nat :=
  (pend.filter (fun i => f.enabled.contains i && (decide (f.threshold = 0) || decide (i < f.threshold.toNat)))).min?

/-- The identities pending in a file. -/
def Head.pending (h : Head) (file : Nat) : List Nat := (h.imsic.filter (fun e => decide (e.1 = file))).map (·.2)

/-- The external interrupt that a hart takes before its next instruction: M level before S level. -/
def Head.hartIrq (h : Head) (n : Nat) : Option Nat :=
  let g := h.harts.getD n Hart.reset
  let take (c : Nat) (f : ImsicFile) (file : Nat) : Bool :=
    f.delivery && (f.top (h.pending file)).isSome && wb g.enables c &&
      (if wb g.mideleg c then decide (g.mode = .u) || (decide (g.mode = .s) && g.sie) else decide (g.mode ≠ .m) || g.mie)
  if take 11 g.mfile n then some 11 else if take 9 g.sfile (32 + n) then some 9 else none

/-- Change a hart. -/
def State.modHart (s : State) (n : Nat) (f : Hart → Hart) : State := s.modHead (fun h => { h with harts := modAt f n h.harts })

/-- A hart does something on its own registers; what its mode does not allow is an illegal instruction. -/
def State.hartOp (s : State) (n : Nat) (o : HartOp) : State :=
  let g := s.head.harts.getD n Hart.reset
  let lvl (r : Nat) (f : Hart → Hart) : State := s.modHart n (fun h => if h.mode.rank < r then h.trap false 2 0 else f h)
  match o with
  | .int rd v => lvl 0 (fun h => { h with x := if rd = 0 then h.x else Tab.set h.x rd.toNat v })
  | .float rd v => lvl 0 (fun h => { h with f := Tab.set h.f rd.toNat v })
  | .vec rd v => lvl 0 (fun h => { h with v := Tab.set h.v rd.toNat v })
  | .vset vl ty => lvl 0 (fun h => { h with vl := vl, vtype := ty, vstart := 0 })
  | .csr c v => lvl (c.toNat / 256 % 4) (·.csr c.toNat v)
  | .file sup sel v =>
    lvl (if sup then 1 else 3) (fun h => if sup then { h with sfile := h.sfile.put sel.toNat v } else { h with mfile := h.mfile.put sel.toNat v })
  | .claim sup =>
    let file := if sup then 32 + n else n
    if g.mode.rank < (if sup then 1 else 3) then lvl 4 id
    else
      match (if sup then g.sfile else g.mfile).top (s.head.pending file) with
      | some i => s.modHead (fun h => { h with imsic := h.imsic.filter (fun e => decide (e ≠ (file, i))) })
      | none => s
  | .jump pc => lvl 0 (fun h => { h with pc := pc })
  | .mret => lvl 3 (fun h => { h with
      pc := h.mepc, mode := h.mpp, mie := h.mpie, mpie := true, mpp := .u, mprv := h.mprv && decide (h.mpp = .m) })
  | .sret => lvl 1 (fun h => { h with pc := h.sepc, mode := h.spp, sie := h.spie, spie := true, spp := .u, mprv := false })
  | .raise c v => lvl 0 (·.trap false c.toNat v)

/-- Causes of a hart's exceptions by kind: of loads, and of stores and atomics. -/
def hartCause (k : AccKind) (load store : Nat) : Nat := if kindWrites k then store else load

/-- log2 of a leaf's page on a hart: the standard sizes, and the NAPOT sizes of R38. -/
def hartLeafBits (l : Nat) (e : Word) : Option Nat :=
  let ppn := bf e 53 10
  if wb e 63 then
    (if l = 0 ∧ ppn % 16 = 8 then some 16 else if l = 2 ∧ ppn % 2 ^ 21 = 2 ^ 20 then some 33 else none)
  else if ppn % 2 ^ (9 * l) = 0 then some (12 + 9 * l) else none

/-- A leaf permits an access of a mode. -/
def hartAllows (h : Hart) (mode : HartMode) (e : Word) (k : AccKind) : Bool :=
  (if mode = .u then wb e 4 else !wb e 4 || h.sum) && (!kindReads k || wb e 1 || (h.mxr && wb e 3)) && (!kindWrites k || wb e 2)

/-- The Sv57 walk of a hart, from a table of a level: the place, or the cause of the exception; A and D are set in the leaf (R23, R38). -/
def State.hartWalk (s : State) (h : Hart) (mode : HartMode) (k : AccKind) (va : Nat) : Nat → Nat → State × Except Nat Nat
  | 0, _ => (s, .error (hartCause k 13 15))
  | l + 1, tab =>
    let ea := tab + va / 2 ^ (12 + 9 * l) % 512 * 8
    let t := s.meetUpsets (memLocs ea 8) none
    let e := s.read64 ea
    let page : State × Except Nat Nat := (t, .error (hartCause k 13 15))
    if !inHbm ea 8 || s.heldAt ea 8 then (s, .error (hartCause k 5 7))
    else if s.ueAt (memLocs ea 8) then (t, .error 19)
    else if !wb e 0 || (wb e 2 && !wb e 1) || decide (bf e 60 54 ≠ 0) then page
    else if bf e 3 1 = 0 then
      (if bf e 63 61 ≠ 0 ∨ wb e 7 ∨ wb e 6 ∨ wb e 4 then page else t.hartWalk h mode k va l (bf e 53 10 * 4096))
    else
      match hartLeafBits l e with
      | none => page
      | some bits =>
        let base := bf e 53 10 * 4096 / 2 ^ bits * 2 ^ bits
        let seam := decide (bf e 62 61 = 3)
        if (seam && !(decide (bits = 16) && inSlots base (2 ^ bits))) || (!seam && inSlots base (2 ^ bits)) then (t, .error (hartCause k 5 7))
        else if !hartAllows h mode e k then page
        else
          let want := e ||| 0x40#64 ||| (if kindWrites k then 0x80#64 else 0)
          (if want = e then t else t.write64 ea want, .ok (base + va % 2 ^ bits))

/-- The place of a hart's access: its mode, or with MPRV the mode that it came from, translates by satp unless that is M. An access that
translates and lies in two pages is misaligned. -/
def State.hartXlat (s : State) (h : Hart) (a : OutAcc) : State × Except Nat Nat :=
  let mode := if h.mprv && decide (h.mode = .m) then h.mpp else h.mode
  let va := a.addr.toNat
  if mode = .m ∨ bf h.satp 63 60 ≠ 10 then (s, .ok va)
  else if 4096 < va % 4096 + a.size then (s, .error (hartCause a.kind 4 6))
  else if va / 2 ^ 56 ≠ 0 ∧ va / 2 ^ 56 ≠ 255 then (s, .error (hartCause a.kind 13 15))
  else s.hartWalk h mode a.kind (va % 2 ^ 57) 5 (bf h.satp 43 0 * 4096)

/-- The outcome of an access of the harts at a physical address, but for what it does to the hart (R22, R25, R81, R109, R372, R373, R377,
R396). -/
def State.appAccess (s : State) (a : OutAcc) : State :=
  let p := a.addr.toNat
  if appMem p a.size then
    (if s.heldAt p a.size then { s with resp := .accessFault } else s.outAccess a .accessFault .accessFault)
  else if 0x40000000000 ≤ p ∧ p < 0x40400000000 then s.ctlAccess a
  else if 0x50000000000 ≤ p ∧ p < 0x50000200000 then s.imsicAccess a .accessFault
  else if 2 ^ 52 ≤ p then { s with resp := .accessFault }
  else if iommuPage p then s.iommuAccess a
  else if 0x8000000000000 ≤ p then s.pciAccess a
  else { s with resp := .accessFault }

/-- The value that an access brings to its register. -/
def outResult (a : OutAcc) (v : Row) : Word :=
  let n := 8 * min 8 a.size
  let ext : Bool := match a.kind with
    | .atom .. => true
    | _ => a.sgn
  let w : Word := v.setWidth 64 &&& BitVec.ofNat 64 (2 ^ n - 1)
  if ext && w.getLsbD (n - 1) then w ||| ~~~(BitVec.ofNat 64 (2 ^ n - 1)) else w

/-- A hart completes the instruction of an access: x0 discards. -/
def Hart.done (h : Hart) (a : OutAcc) (v : Row) : Hart :=
  { h with
    pc := h.pc + a.len.setWidth 64
    x := if kindReads a.kind && decide (a.rd ≠ 0) then Tab.set h.x a.rd.toNat (outResult a v) else h.x }

/-- The hart of an access that has an outcome; ue says that a word of it is uncorrectable, which is the hardware error (R81). -/
def State.hartEnds (s : State) (a : OutAcc) (ue : Bool) : State :=
  match s.resp with
  | .value v => s.modHart a.agent (·.done a v)
  | .accessFault => s.modHart a.agent (·.trap false (if ue then 19 else hartCause a.kind 5 7) a.addr)
  | _ => s

/-- The access of a hart that no interrupt comes before: its translation, the access at its place, and its end on the hart. -/
def State.hartRuns (s : State) (a : OutAcc) : State :=
  match s.hartXlat (s.head.harts.getD a.agent Hart.reset) a with
  | (t, .error c) => { t.modHart a.agent (·.trap false c a.addr) with resp := .accessFault }
  | (t, .ok p) =>
    (t.appAccess { a with addr := BitVec.ofNat 64 p }).hartEnds a (kindReads a.kind && appMem p a.size && t.ueAt (memLocs p a.size))

/-- The application cores have started: in BASE, after a boot that did not fail (R394). -/
def Head.started (h : Head) : Bool := decide (2 ≤ h.phase.toNat) && !(decide (h.phase = 7) && decide (h.fcode = 1))

/-- APP_CORE_ACCESS: what a hart runs on its own registers, then an external interrupt that it takes, or else its access: the register that a
load or an atomic writes, or the exception. A hart that has not started makes none. -/
def execAppCoreAccess (a : OutAcc) (s : State) : Host.Outcome State Fault Refusal :=
  if !s.head.started || decide (s.head.harts.length ≤ a.agent) then .next s
  else
    let t := a.own.foldl (fun u o => u.hartOp a.agent o) s
    match t.head.hartIrq a.agent with
    | some c => .next { t.modHart a.agent (·.trap true c 0) with resp := .none }
    | none => .next (t.hartRuns a)

/-! ### Inbound PCIe (R376 to R379) -/

/-- The root port and the logical port of a requester's segment (R378). -/
def outPort (a : OutAcc) : Nat := a.agent / 65536 / 4
def outLogical (a : OutAcc) : Nat := a.agent / 65536 % 4

/-- A request that is refused is logged through AER at its logical port (R379). -/
def State.refuse (s : State) (a : OutAcc) : State := { s.aer (outPort a) (outLogical a) 20 .unsupported with resp := .unsupported }

/-- A memory request: what it moves nowhere in a full die is a Completer Abort, which a posted write reports through AER (R25); an uncorrectable
word is one too (R81). -/
def State.inboundMem (s : State) (a : OutAcc) : State :=
  let t := s.outAccess a .abort .abort
  if t.resp = .abort ∧ !kindReads a.kind then t.aer (outPort a) (outLogical a) 15 .abort else t

/-- A translated request at its place. -/
def State.inboundAt (s : State) (a : OutAcc) (p : Nat) : State :=
  let b : OutAcc := { a with addr := BitVec.ofNat 64 p }
  if inHbm p a.size || inSlots p a.size then (if s.heldAt p a.size then s.refuse a else s.inboundMem b)
  else if 0x50000000000 ≤ p ∧ p < 0x50000200000 then
    let t := s.imsicAccess b .unsupported
    if t.resp = .unsupported then s.refuse a else t
  else s.refuse a

/-- ACS source validation, where the logical port's control enables it: the requester's bus lies in the port's range (R376). -/
def State.sourceOk (s : State) (a : OutAcc) : Bool :=
  let x := s.head.pci.getD (outPort a) Pci.reset
  !((x.raw (outPort a) (outLogical a) 0x146).getLsbD 0) || x.busIn (outPort a) (outLogical a) (a.agent / 256 % 256)

/-- INBOUND_PCIE_REQUEST (R25, R81, R376, R379, R396): over a link that is up, a legacy INTx message is dropped and counted; a request from a bus
that is not its port's is an ACS violation; any other is translated and performed or refused, and a translation that faults is recorded. -/
def execInboundPcieRequest (a : OutAcc) (s : State) : Host.Outcome State Fault Refusal :=
  if !(s.head.pci.getD (outPort a) Pci.reset).up then .next s
  else if a.size = 0 then .next (s.modHead (fun h => { h with msiDrop := h.msiDrop + 1 }))
  else if !s.sourceOk a then .next { s.aer (outPort a) (outLogical a) 21 .abort with resp := .abort }
  else
    match s.iommuXlat a with
    | (t, .at p) => .next (t.inboundAt a p)
    | (t, .bad c quiet) => .next ((if quiet then t else t.iommuFault a c).refuse a)

end Sys2Proof.Machine
end

