-- ==== Sys2Proof/Machine/Dispatch.lean ====
section
/-!
DEFINITION. One arm for each instruction and event of the opcode table: a direct call of its meaning.
-/

namespace Sys2Proof.Machine

/-- exec runs one instruction or event on a state; the slot instructions act for the context that State.issue names. -/
def exec (i : Instr) (s : State) : Host.Outcome State Fault Refusal :=
  match i with
  | .br a0 a1 => Sys2Proof.Machine.execBr a0 a1 s
  | .call a0 a1 => Sys2Proof.Machine.execCall a0 a1 s
  | .ret a0 a1 => Sys2Proof.Machine.execRet a0 a1 s
  | .jmpi a0 a1 => Sys2Proof.Machine.execJmpi a0 a1 s
  | .loopImm a0 a1 a2 a3 => Sys2Proof.Machine.execLoopImm a0 a1 a2 a3 s
  | .loopReg a0 a1 a2 a3 => Sys2Proof.Machine.execLoopReg a0 a1 a2 a3 s
  | .lbrk a0 => Sys2Proof.Machine.execLbrk a0 s
  | .yield a0 => Sys2Proof.Machine.execYield a0 s
  | .susp a0 => Sys2Proof.Machine.execSusp a0 s
  | .suspAny a0 => Sys2Proof.Machine.execSuspAny a0 s
  | .halt a0 => Sys2Proof.Machine.execHalt a0 s
  | .trap a0 a1 => Sys2Proof.Machine.execTrap a0 a1 s
  | .fusePair a0 => Sys2Proof.Machine.execFusePair a0 s
  | .fuseQuad a0 => Sys2Proof.Machine.execFuseQuad a0 s
  | .decpl a0 => Sys2Proof.Machine.execDecpl a0 s
  | .rejoin a0 => Sys2Proof.Machine.execRejoin a0 s
  | .add a0 a1 a2 a3 => Sys2Proof.Machine.execAdd a0 a1 a2 a3 s
  | .sub a0 a1 a2 a3 => Sys2Proof.Machine.execSub a0 a1 a2 a3 s
  | .addi a0 a1 a2 a3 a4 => Sys2Proof.Machine.execAddi a0 a1 a2 a3 a4 s
  | .li a0 a1 a2 a3 => Sys2Proof.Machine.execLi a0 a1 a2 a3 s
  | .mul a0 a1 a2 a3 => Sys2Proof.Machine.execMul a0 a1 a2 a3 s
  | .mulh a0 a1 a2 a3 => Sys2Proof.Machine.execMulh a0 a1 a2 a3 s
  | .mulhu a0 a1 a2 a3 => Sys2Proof.Machine.execMulhu a0 a1 a2 a3 s
  | .div a0 a1 a2 a3 => Sys2Proof.Machine.execDiv a0 a1 a2 a3 s
  | .divu a0 a1 a2 a3 => Sys2Proof.Machine.execDivu a0 a1 a2 a3 s
  | .rem a0 a1 a2 a3 => Sys2Proof.Machine.execRem a0 a1 a2 a3 s
  | .remu a0 a1 a2 a3 => Sys2Proof.Machine.execRemu a0 a1 a2 a3 s
  | .min a0 a1 a2 a3 => Sys2Proof.Machine.execMin a0 a1 a2 a3 s
  | .max a0 a1 a2 a3 => Sys2Proof.Machine.execMax a0 a1 a2 a3 s
  | .minu a0 a1 a2 a3 => Sys2Proof.Machine.execMinu a0 a1 a2 a3 s
  | .maxu a0 a1 a2 a3 => Sys2Proof.Machine.execMaxu a0 a1 a2 a3 s
  | .and a0 a1 a2 a3 => Sys2Proof.Machine.execAnd a0 a1 a2 a3 s
  | .or a0 a1 a2 a3 => Sys2Proof.Machine.execOr a0 a1 a2 a3 s
  | .xor a0 a1 a2 a3 => Sys2Proof.Machine.execXor a0 a1 a2 a3 s
  | .andn a0 a1 a2 a3 => Sys2Proof.Machine.execAndn a0 a1 a2 a3 s
  | .shl a0 a1 a2 a3 => Sys2Proof.Machine.execShl a0 a1 a2 a3 s
  | .shr a0 a1 a2 a3 => Sys2Proof.Machine.execShr a0 a1 a2 a3 s
  | .sra a0 a1 a2 a3 => Sys2Proof.Machine.execSra a0 a1 a2 a3 s
  | .rotl a0 a1 a2 a3 => Sys2Proof.Machine.execRotl a0 a1 a2 a3 s
  | .clz a0 a1 a2 => Sys2Proof.Machine.execClz a0 a1 a2 s
  | .ctz a0 a1 a2 => Sys2Proof.Machine.execCtz a0 a1 a2 s
  | .popc a0 a1 a2 => Sys2Proof.Machine.execPopc a0 a1 a2 s
  | .clmul a0 a1 a2 a3 => Sys2Proof.Machine.execClmul a0 a1 a2 a3 s
  | .clmulh a0 a1 a2 a3 => Sys2Proof.Machine.execClmulh a0 a1 a2 a3 s
  | .extr a0 a1 a2 a3 => Sys2Proof.Machine.execExtr a0 a1 a2 a3 s
  | .ins a0 a1 a2 a3 => Sys2Proof.Machine.execIns a0 a1 a2 a3 s
  | .cmp a0 a1 a2 a3 a4 => Sys2Proof.Machine.execCmp a0 a1 a2 a3 a4 s
  | .pand a0 a1 a2 a3 => Sys2Proof.Machine.execPand a0 a1 a2 a3 s
  | .por a0 a1 a2 a3 => Sys2Proof.Machine.execPor a0 a1 a2 a3 s
  | .pxor a0 a1 a2 a3 => Sys2Proof.Machine.execPxor a0 a1 a2 a3 s
  | .sel a0 a1 a2 a3 a4 => Sys2Proof.Machine.execSel a0 a1 a2 a3 a4 s
  | .csrr a0 a1 a2 => Sys2Proof.Machine.execCsrr a0 a1 a2 s
  | .csrw a0 a1 a2 => Sys2Proof.Machine.execCsrw a0 a1 a2 s
  | .sqr a0 a1 a2 => Sys2Proof.Machine.execSqr a0 a1 a2 s
  | .gettime a0 a1 => Sys2Proof.Machine.execGettime a0 a1 s
  | .ld a0 a1 a2 a3 a4 a5 => Sys2Proof.Machine.execLd a0 a1 a2 a3 a4 a5 s
  | .st a0 a1 a2 a3 a4 a5 => Sys2Proof.Machine.execSt a0 a1 a2 a3 a4 a5 s
  | .vld a0 a1 a2 a3 a4 => Sys2Proof.Machine.execVld a0 a1 a2 a3 a4 s
  | .vst a0 a1 a2 a3 a4 => Sys2Proof.Machine.execVst a0 a1 a2 a3 a4 s
  | .vldg a0 a1 a2 a3 a4 => Sys2Proof.Machine.execVldg a0 a1 a2 a3 a4 s
  | .vsts a0 a1 a2 a3 a4 => Sys2Proof.Machine.execVsts a0 a1 a2 a3 a4 s
  | .ldq a0 a1 a2 a3 a4 => Sys2Proof.Machine.execLdq a0 a1 a2 a3 a4 s
  | .vldq a0 a1 a2 a3 => Sys2Proof.Machine.execVldq a0 a1 a2 a3 s
  | .stf a0 a1 a2 a3 a4 a5 => Sys2Proof.Machine.execStf a0 a1 a2 a3 a4 a5 s
  | .vstf a0 a1 a2 a3 a4 => Sys2Proof.Machine.execVstf a0 a1 a2 a3 a4 s
  | .pop a0 a1 a2 => Sys2Proof.Machine.execPop a0 a1 a2 s
  | .pfh a0 a1 a2 a3 => Sys2Proof.Machine.execPfh a0 a1 a2 a3 s
  | .atom a0 a1 a2 a3 a4 a5 a6 => Sys2Proof.Machine.execAtom a0 a1 a2 a3 a4 a5 a6 s
  | .pub a0 a1 => Sys2Proof.Machine.execPub a0 a1 s
  | .ref a0 a1 => Sys2Proof.Machine.execRef a0 a1 s
  | .phase a0 a1 => Sys2Proof.Machine.execPhase a0 a1 s
  | .pbar a0 a1 => Sys2Proof.Machine.execPbar a0 a1 s
  | .waita a0 a1 a2 a3 a4 => Sys2Proof.Machine.execWaita a0 a1 a2 a3 a4 s
  | .vadd a0 a1 a2 a3 a4 a5 => Sys2Proof.Machine.execVadd a0 a1 a2 a3 a4 a5 s
  | .vsub a0 a1 a2 a3 a4 a5 => Sys2Proof.Machine.execVsub a0 a1 a2 a3 a4 a5 s
  | .vmul a0 a1 a2 a3 a4 a5 => Sys2Proof.Machine.execVmul a0 a1 a2 a3 a4 a5 s
  | .vfma a0 a1 a2 a3 a4 a5 => Sys2Proof.Machine.execVfma a0 a1 a2 a3 a4 a5 s
  | .vfms a0 a1 a2 a3 a4 a5 => Sys2Proof.Machine.execVfms a0 a1 a2 a3 a4 a5 s
  | .vabs a0 a1 a2 a3 => Sys2Proof.Machine.execVabs a0 a1 a2 a3 s
  | .vmin a0 a1 a2 a3 => Sys2Proof.Machine.execVmin a0 a1 a2 a3 s
  | .vmax a0 a1 a2 a3 => Sys2Proof.Machine.execVmax a0 a1 a2 a3 s
  | .vclamp a0 a1 a2 a3 => Sys2Proof.Machine.execVclamp a0 a1 a2 a3 s
  | .vrnd a0 a1 a2 a3 => Sys2Proof.Machine.execVrnd a0 a1 a2 a3 s
  | .vcmp a0 a1 a2 a3 a4 => Sys2Proof.Machine.execVcmp a0 a1 a2 a3 a4 s
  | .vsel a0 a1 a2 a3 => Sys2Proof.Machine.execVsel a0 a1 a2 a3 s
  | .vand a0 a1 a2 a3 => Sys2Proof.Machine.execVand a0 a1 a2 a3 s
  | .vor a0 a1 a2 a3 => Sys2Proof.Machine.execVor a0 a1 a2 a3 s
  | .vxor a0 a1 a2 a3 => Sys2Proof.Machine.execVxor a0 a1 a2 a3 s
  | .vshl a0 a1 a2 a3 => Sys2Proof.Machine.execVshl a0 a1 a2 a3 s
  | .vshr a0 a1 a2 a3 => Sys2Proof.Machine.execVshr a0 a1 a2 a3 s
  | .vsra a0 a1 a2 a3 => Sys2Proof.Machine.execVsra a0 a1 a2 a3 s
  | .vclmul a0 a1 a2 a3 => Sys2Proof.Machine.execVclmul a0 a1 a2 a3 s
  | .vclmulh a0 a1 a2 a3 => Sys2Proof.Machine.execVclmulh a0 a1 a2 a3 s
  | .vperm a0 a1 a2 a3 => Sys2Proof.Machine.execVperm a0 a1 a2 a3 s
  | .vbcst a0 a1 a2 => Sys2Proof.Machine.execVbcst a0 a1 a2 s
  | .vmov a0 a1 a2 => Sys2Proof.Machine.execVmov a0 a1 a2 s
  | .vexts a0 a1 a2 a3 => Sys2Proof.Machine.execVexts a0 a1 a2 a3 s
  | .vinss a0 a1 a2 a3 => Sys2Proof.Machine.execVinss a0 a1 a2 a3 s
  | .vxch a0 a1 a2 a3 => Sys2Proof.Machine.execVxch a0 a1 a2 a3 s
  | .vredsum a0 a1 a2 a3 a4 => Sys2Proof.Machine.execVredsum a0 a1 a2 a3 a4 s
  | .vredmax a0 a1 a2 => Sys2Proof.Machine.execVredmax a0 a1 a2 s
  | .vredmin a0 a1 a2 => Sys2Proof.Machine.execVredmin a0 a1 a2 s
  | .vscan a0 a1 a2 a3 a4 a5 => Sys2Proof.Machine.execVscan a0 a1 a2 a3 a4 a5 s
  | .vexp2 a0 a1 a2 => Sys2Proof.Machine.execVexp2 a0 a1 a2 s
  | .vlog2 a0 a1 a2 => Sys2Proof.Machine.execVlog2 a0 a1 a2 s
  | .vrcp a0 a1 a2 a3 => Sys2Proof.Machine.execVrcp a0 a1 a2 a3 s
  | .vrsq a0 a1 a2 => Sys2Proof.Machine.execVrsq a0 a1 a2 s
  | .vsqrt a0 a1 a2 a3 => Sys2Proof.Machine.execVsqrt a0 a1 a2 a3 s
  | .vsin a0 a1 a2 => Sys2Proof.Machine.execVsin a0 a1 a2 s
  | .vcos a0 a1 a2 => Sys2Proof.Machine.execVcos a0 a1 a2 s
  | .vtanh a0 a1 a2 => Sys2Proof.Machine.execVtanh a0 a1 a2 s
  | .vsigm a0 a1 a2 => Sys2Proof.Machine.execVsigm a0 a1 a2 s
  | .accrd a0 a1 a2 a3 a4 => Sys2Proof.Machine.execAccrd a0 a1 a2 a3 a4 s
  | .accwr a0 a1 a2 => Sys2Proof.Machine.execAccwr a0 a1 a2 s
  | .xexp a0 a1 => Sys2Proof.Machine.execXexp a0 a1 s
  | .xtrn8 a0 a1 a2 a3 => Sys2Proof.Machine.execXtrn8 a0 a1 a2 a3 s
  | .xtrn16 a0 a1 a2 a3 => Sys2Proof.Machine.execXtrn16 a0 a1 a2 a3 s
  | .xcvt a0 a1 a2 a3 a4 a5 => Sys2Proof.Machine.execXcvt a0 a1 a2 a3 a4 a5 s
  | .xcvtSat a0 a1 a2 a3 a4 a5 => Sys2Proof.Machine.execXcvtSat a0 a1 a2 a3 a4 a5 s
  | .xpks a0 a1 a2 a3 a4 a5 => Sys2Proof.Machine.execXpks a0 a1 a2 a3 a4 a5 s
  | .xupk a0 a1 a2 a3 a4 a5 => Sys2Proof.Machine.execXupk a0 a1 a2 a3 a4 a5 s
  | .xrng a0 a1 => Sys2Proof.Machine.execXrng a0 a1 s
  | .mcall a0 a1 a2 a3 a4 a5 => Sys2Proof.Machine.execMcall a0 a1 a2 a3 a4 a5 s
  | .msetp a0 a1 a2 => Sys2Proof.Machine.execMsetp a0 a1 a2 s
  | .mcfg a0 a1 a2 => Sys2Proof.Machine.execMcfg a0 a1 a2 s
  | .mstw a0 a1 a2 a3 => Sys2Proof.Machine.execMstw a0 a1 a2 a3 s
  | .acctk a0 a1 => Sys2Proof.Machine.execAcctk a0 a1 s
  | .accgv a0 a1 => Sys2Proof.Machine.execAccgv a0 a1 s
  | .accz a0 a1 => Sys2Proof.Machine.execAccz a0 a1 s
  | .ascfg a0 a1 => Sys2Proof.Machine.execAscfg a0 a1 s
  | .asdrn a0 a1 a2 a3 a4 => Sys2Proof.Machine.execAsdrn a0 a1 a2 a3 a4 s
  | .acupd a0 a1 a2 a3 a4 => Sys2Proof.Machine.execAcupd a0 a1 a2 a3 a4 s
  | .acfin a0 a1 a2 a3 => Sys2Proof.Machine.execAcfin a0 a1 a2 a3 s
  | .cpy a0 a1 a2 => Sys2Proof.Machine.execCpy a0 a1 a2 s
  | .cpym a0 a1 a2 => Sys2Proof.Machine.execCpym a0 a1 a2 s
  | .sig a0 a1 a2 a3 a4 a5 => Sys2Proof.Machine.execSig a0 a1 a2 a3 a4 a5 s
  | .qfen a0 a1 => Sys2Proof.Machine.execQfen a0 a1 s
  | .sld a0 a1 a2 a3 => Sys2Proof.Machine.execSld a0 a1 a2 a3 s
  | .scld a0 a1 a2 => Sys2Proof.Machine.execScld a0 a1 a2 s
  | .nxt a0 => Sys2Proof.Machine.execNxt a0 s
  | .wswap a0 => Sys2Proof.Machine.execWswap a0 s
  | .rld a0 a1 a2 => Sys2Proof.Machine.execRld a0 a1 a2 s
  | .rst a0 a1 a2 a3 => Sys2Proof.Machine.execRst a0 a1 a2 a3 s
  | .ratom a0 a1 a2 a3 a4 a5 a6 => Sys2Proof.Machine.execRatom a0 a1 a2 a3 a4 a5 a6 s
  | .xmeta a0 a1 a2 a3 a4 => Sys2Proof.Machine.execXmeta a0 a1 a2 a3 a4 s
  | .rngs a0 a1 a2 a3 => Sys2Proof.Machine.execRngs a0 a1 a2 a3 s
  | .tdone a0 a1 => Sys2Proof.Machine.execTdone a0 a1 s
  | .prbr a0 a1 a2 => Sys2Proof.Machine.execPrbr a0 a1 a2 s
  | .waitReadReturn a0 a1 => Sys2Proof.Machine.execWaitReadReturn a0 a1 s
  | .mxEntryRun a0 => Sys2Proof.Machine.execMxEntryRun a0 s
  | .resultLanding a0 a1 => Sys2Proof.Machine.execResultLanding a0 a1 s
  | .farLoadComplete a0 a1 => Sys2Proof.Machine.execFarLoadComplete a0 a1 s
  | .atomResultArrive a0 a1 => Sys2Proof.Machine.execAtomResultArrive a0 a1 s
  | .publishComplete a0 a1 a2 => Sys2Proof.Machine.execPublishComplete a0 a1 a2 s
  | .refreshPerform a0 a1 => Sys2Proof.Machine.execRefreshPerform a0 a1 s
  | .waitMonitorEval a0 a1 => Sys2Proof.Machine.execWaitMonitorEval a0 a1 s
  | .suspendComplete a0 a1 => Sys2Proof.Machine.execSuspendComplete a0 a1 s
  | .contextPickup a0 a1 a2 => Sys2Proof.Machine.execContextPickup a0 a1 a2 s
  | .crewComplete a0 => Sys2Proof.Machine.execCrewComplete a0 s
  | .trapRecordWrite a0 => Sys2Proof.Machine.execTrapRecordWrite a0 s
  | .yieldWatchdogExpire a0 a1 => Sys2Proof.Machine.execYieldWatchdogExpire a0 a1 s
  | .stallWatchdogExpire a0 a1 => Sys2Proof.Machine.execStallWatchdogExpire a0 a1 s
  | .launchAdmit a0 => Sys2Proof.Machine.execLaunchAdmit a0 s
  | .crewRelease a0 => Sys2Proof.Machine.execCrewRelease a0 s
  | .preempt a0 => Sys2Proof.Machine.execPreempt a0 s
  | .crewResume a0 => Sys2Proof.Machine.execCrewResume a0 s
  | .pageWalkComplete a0 a1 => Sys2Proof.Machine.execPageWalkComplete a0 a1 s
  | .faultBatchClose a0 => Sys2Proof.Machine.execFaultBatchClose a0 s
  | .faultBatchDeliver a0 => Sys2Proof.Machine.execFaultBatchDeliver a0 s
  | .fltAck a0 a1 => Sys2Proof.Machine.execFltAck a0 a1 s
  | .sideLogReplay a0 a1 => Sys2Proof.Machine.execSideLogReplay a0 a1 s
  | .tlbInvAll a0 => Sys2Proof.Machine.execTlbInvAll a0 s
  | .tlbInvAsid a0 a1 => Sys2Proof.Machine.execTlbInvAsid a0 a1 s
  | .tlbInvVpn a0 => Sys2Proof.Machine.execTlbInvVpn a0 s
  | .tlbInvAsidVpn a0 a1 => Sys2Proof.Machine.execTlbInvAsidVpn a0 a1 s
  | .tlbInvRange a0 a1 a2 => Sys2Proof.Machine.execTlbInvRange a0 a1 a2 s
  | .slotPlacement a0 a1 a2 => Sys2Proof.Machine.execSlotPlacement a0 a1 a2 s
  | .seamRel a0 a1 => Sys2Proof.Machine.execSeamRel a0 a1 s
  | .slotReleaseEffect a0 => Sys2Proof.Machine.execSlotReleaseEffect a0 s
  | .seamMig a0 a1 a2 => Sys2Proof.Machine.execSeamMig a0 a1 a2 s
  | .slotMigrationDone a0 => Sys2Proof.Machine.execSlotMigrationDone a0 s
  | .seamOwnerWrite a0 a1 a2 a3 => Sys2Proof.Machine.execSeamOwnerWrite a0 a1 a2 a3 s
  | .seamClearDone a0 a1 => Sys2Proof.Machine.execSeamClearDone a0 a1 s
  | .weightRefreshCycle a0 a1 a2 => Sys2Proof.Machine.execWeightRefreshCycle a0 a1 a2 s
  | .sensorSample a0 a1 a2 => Sys2Proof.Machine.execSensorSample a0 a1 a2 s
  | .errInj a0 a1 => Sys2Proof.Machine.execErrInj a0 a1 s
  | .errInjPerform a0 => Sys2Proof.Machine.execErrInjPerform a0 s
  | .errLstatWrite a0 a1 a2 => Sys2Proof.Machine.execErrLstatWrite a0 a1 a2 s
  | .copyPiece a0 a1 => Sys2Proof.Machine.execCopyPiece a0 a1 s
  | .signalWrite a0 a1 => Sys2Proof.Machine.execSignalWrite a0 a1 s
  | .xmetaExport a0 a1 => Sys2Proof.Machine.execXmetaExport a0 a1 s
  | .streamFetch a0 => Sys2Proof.Machine.execStreamFetch a0 s
  | .streamChunkDecode a0 => Sys2Proof.Machine.execStreamChunkDecode a0 s
  | .remoteRequestArrive a0 => Sys2Proof.Machine.execRemoteRequestArrive a0 s
  | .remoteResponse a0 a1 a2 a3 => Sys2Proof.Machine.execRemoteResponse a0 a1 a2 a3 s
  | .remoteTimeout a0 a1 => Sys2Proof.Machine.execRemoteTimeout a0 a1 s
  | .flitReceive a0 a1 => Sys2Proof.Machine.execFlitReceive a0 a1 s
  | .nakReceive a0 a1 => Sys2Proof.Machine.execNakReceive a0 a1 s
  | .portDown a0 => Sys2Proof.Machine.execPortDown a0 s
  | .laneShed a0 a1 => Sys2Proof.Machine.execLaneShed a0 a1 s
  | .retrain a0 => Sys2Proof.Machine.execRetrain a0 s
  | .ssqArm a0 a1 => Sys2Proof.Machine.execSsqArm a0 a1 s
  | .ssqDisarm a0 => Sys2Proof.Machine.execSsqDisarm a0 s
  | .seqLoad a0 => Sys2Proof.Machine.execSeqLoad a0 s
  | .tileDeliver a0 => Sys2Proof.Machine.execTileDeliver a0 s
  | .reportPerform a0 => Sys2Proof.Machine.execReportPerform a0 s
  | .probeDecision a0 a1 => Sys2Proof.Machine.execProbeDecision a0 a1 s
  | .skipCopy a0 => Sys2Proof.Machine.execSkipCopy a0 s
  | .reuseUpdate a0 => Sys2Proof.Machine.execReuseUpdate a0 s
  | .stepClose a0 => Sys2Proof.Machine.execStepClose a0 s
  | .govEvaluate a0 => Sys2Proof.Machine.execGovEvaluate a0 s
  | .quadrantRampDone a0 a1 => Sys2Proof.Machine.execQuadrantRampDone a0 a1 s
  | .gateHoldExpire a0 => Sys2Proof.Machine.execGateHoldExpire a0 s
  | .gatingDone a0 => Sys2Proof.Machine.execGatingDone a0 s
  | .wakeRequest a0 => Sys2Proof.Machine.execWakeRequest a0 s
  | .wakeComplete a0 => Sys2Proof.Machine.execWakeComplete a0 s
  | .pwrGateDisable a0 a1 => Sys2Proof.Machine.execPwrGateDisable a0 a1 s
  | .cxResume a0 a1 => Sys2Proof.Machine.execCxResume a0 a1 s
  | .cxStep a0 a1 => Sys2Proof.Machine.execCxStep a0 a1 s
  | .cxStop a0 a1 => Sys2Proof.Machine.execCxStop a0 a1 s
  | .cxKill a0 a1 => Sys2Proof.Machine.execCxKill a0 a1 s
  | .cxDdataWrite a0 a1 a2 => Sys2Proof.Machine.execCxDdataWrite a0 a1 a2 s
  | .cxHctlWrite a0 a1 a2 => Sys2Proof.Machine.execCxHctlWrite a0 a1 a2 s
  | .heapWindowRegWrite a0 a1 a2 a3 => Sys2Proof.Machine.execHeapWindowRegWrite a0 a1 a2 a3 s
  | .cpqDoorbell a0 a1 => Sys2Proof.Machine.execCpqDoorbell a0 a1 s
  | .cpqResume a0 => Sys2Proof.Machine.execCpqResume a0 s
  | .cpqCapSeal a0 a1 => Sys2Proof.Machine.execCpqCapSeal a0 a1 s
  | .nop a0 => Sys2Proof.Machine.execNop a0 s
  | .launch a0 => Sys2Proof.Machine.execLaunch a0 s
  | .kill a0 => Sys2Proof.Machine.execKill a0 s
  | .write a0 => Sys2Proof.Machine.execWrite a0 s
  | .wait a0 => Sys2Proof.Machine.execWait a0 s
  | .waitPacketComplete a0 => Sys2Proof.Machine.execWaitPacketComplete a0 s
  | .attest a0 => Sys2Proof.Machine.execAttest a0 s
  | .fwload a0 => Sys2Proof.Machine.execFwload a0 s
  | .completionWrite a0 => Sys2Proof.Machine.execCompletionWrite a0 s
  | .baseTrainingDone a0 => Sys2Proof.Machine.execBaseTrainingDone a0 s
  | .reducedWorkDone a0 => Sys2Proof.Machine.execReducedWorkDone a0 s
  | .inboundPcieRequest a0 => Sys2Proof.Machine.execInboundPcieRequest a0 s
  | .appCoreAccess a0 => Sys2Proof.Machine.execAppCoreAccess a0 s
  | .regWrite a0 a1 a2 => Sys2Proof.Machine.execRegWrite a0 a1 a2 s
  | .farWritePerform a0 a1 => Sys2Proof.Machine.execFarWritePerform a0 a1 s
  | .prefetchLineFill a0 a1 => Sys2Proof.Machine.execPrefetchLineFill a0 a1 s
  | .portUp a0 a1 => Sys2Proof.Machine.execPortUp a0 a1 s
  | .retrainingDone a0 a1 => Sys2Proof.Machine.execRetrainingDone a0 a1 s
  | .droopPressureChange a0 a1 a2 => Sys2Proof.Machine.execDroopPressureChange a0 a1 a2 s
  | .pciCtlWrite a0 a1 => Sys2Proof.Machine.execPciCtlWrite a0 a1 s
  | .linkReset a0 => Sys2Proof.Machine.execLinkReset a0 s
  | .rootPortEvent a0 a1 => Sys2Proof.Machine.execRootPortEvent a0 a1 s
  | .tlbInvComplete => Sys2Proof.Machine.execTlbInvComplete s
  | .patrolScrub => Sys2Proof.Machine.execPatrolScrub s
  | .fwSwap => Sys2Proof.Machine.execFwSwap s
  | .fwHandoverDone => Sys2Proof.Machine.execFwHandoverDone s
  | .fwCommit => Sys2Proof.Machine.execFwCommit s
  | .packageReset => Sys2Proof.Machine.execPackageReset s
  | .bootVerifyDone => Sys2Proof.Machine.execBootVerifyDone s
  | .switchDone => Sys2Proof.Machine.execSwitchDone s

end Sys2Proof.Machine
end

