-- ==== Sys2Proof/Machine/Issue.lean ====
section
/-!
DEFINITION. One issue cycle of a core (R151 to R162, R168, R404): fetching the bundle, the checks of R218, landing, the slots
in order, taking a trap, the merge stage, splitting, lock-step and the watchdogs.
-/

namespace Sys2Proof.Machine

/-! ### What a bundle would land (R52, R218 item 7) -/

/-- A vector destination as the check of R218 item 7 sees it: none where no ring covers the tile. -/
def State.chkVd (s : State) (d : VDst) (bits : Nat) : LandDst :=
  match d with
  | .tile rot _ t _ => if (tileNo s.ic.regs rot t).isSome then s.vd d bits else .none
  | .off => .none

/-- Bits that an XCVT writes (R311). -/
def cvtBits (st dt : Ty) : Nat := 8 * dt.size * cvtLanes st dt

/-- The results of an instruction, with their latencies, whether it is enabled or not (R219). -/
def State.results (s : State) (i : Instr) : List (LandDst × Nat) :=
  let v (h : VH) (d : VDst) (n : Nat) : List (LandDst × Nat) := [(s.chkVd d h.w.bits, n)]
  let x (d : VDst) (bits n : Nat) : List (LandDst × Nat) := [(s.chkVd d bits, n)]
  match i with
  | .call _ _ => [(.scal 27#5, 1)]
  | .add _ d _ _ | .sub _ d _ _ | .addi _ d _ _ _ | .li _ d _ _ | .min _ d _ _ | .max _ d _ _ | .minu _ d _ _
  | .maxu _ d _ _ | .and _ d _ _ | .or _ d _ _ | .xor _ d _ _ | .andn _ d _ _ | .shl _ d _ _ | .shr _ d _ _
  | .sra _ d _ _ | .rotl _ d _ _ | .clz _ d _ | .ctz _ d _ | .popc _ d _ | .extr _ d _ _ | .ins _ d _ _
  | .sel _ d _ _ _ | .csrr _ d _ | .sqr _ d _ | .gettime _ d => [(dstLand d, 1)]
  | .clmul _ d _ _ | .clmulh _ d _ _ => [(dstLand d, 2)]
  | .mul _ d _ _ | .mulh _ d _ _ | .mulhu _ d _ _ => [(dstLand d, 3)]
  | .div _ d _ _ | .divu _ d _ _ | .rem _ d _ _ | .remu _ d _ _ => [(dstLand d, 12)]
  | .cmp _ n _ _ _ | .pand _ n _ _ | .por _ n _ _ | .pxor _ n _ _ => [(.pred n, 1)]
  | .ld _ _ d _ _ _ => [(dstLand d, 4)]
  | .vld _ d _ _ _ => x d 1024 4
  | .vldg _ _ d _ _ => x d 1024 4
  | .pop _ _ (.inl d) => [(dstLand d, 1)]
  | .pop _ _ (.inr d) => x d 1024 1
  | .atom _ _ _ d _ _ _ => [(dstLand d, 32)]
  | .vadd h _ _ d _ _ | .vsub h _ _ d _ _ => v h d (latAdd h.ty)
  | .vmul h _ _ d _ _ | .vfma h _ _ d _ _ | .vfms h _ _ d _ _ => v h d (latMul h.ty)
  | .vrnd h _ d _ => v h d (latAdd h.ty)
  | .vabs h _ d _ | .vmin h d _ _ | .vmax h d _ _ | .vclamp h d _ _ | .vcmp h _ d _ _ | .vsel h d _ _
  | .vand h d _ _ | .vor h d _ _ | .vxor h d _ _ | .vshl h d _ _ | .vshr h d _ _ | .vsra h d _ _
  | .vperm h _ d _ | .vbcst h d _ | .vmov h d _ | .vinss h d _ _ => v h d 2
  | .vexts _ d _ _ => [(dstLand d, 2)]
  | .vclmul h d _ _ | .vclmulh h d _ _ | .vredmax h d _ | .vredmin h d _ | .accrd h _ _ d _ => v h d 3
  | .vxch h _ d _ => v h d 4
  | .vredsum h _ _ d _ | .vscan h _ _ _ d _ => v h d 5
  | .vexp2 h d _ | .vlog2 h d _ | .vrcp h _ d _ | .vrsq h d _ | .vsqrt h _ d _ | .vsin h d _ | .vcos h d _
  | .vtanh h d _ | .vsigm h d _ => v h d 8
  | .accwr _ d _ => [(.acc (s.accIx d), 3)]
  | .xexp _ d | .xrng _ d => x d 1024 2
  | .xtrn8 _ _ d _ | .xtrn16 _ _ d _ | .xupk _ _ _ _ d _ => x d 1024 4
  | .xcvt _ st dt _ d _ | .xcvtSat _ st dt _ d _ => x d (cvtBits st dt) 3
  | .xpks _ _ n j d _ => [(s.chkVd d 256, 5), (.scaleEl n j, 5)]
  | .scld _ n _ => [(.scale n, 12)]
  | .nxt _ => [(.scal (28#5 + s.ic.regs.nxp.setWidth 5), 6)]
  | .msetp _ n _ => [(.mp n, 1)]
  | _ => []

/-- Slots whose results meet at one tick (R52, R307). -/
def State.meeting (s : State) (is : List (SlotId × Instr)) : List SlotId :=
  let rs := is.map (fun x => (x.1, s.results x.2))
  (rs.filter (fun a => rs.any (fun b => decide (a.1 ≠ b.1) &&
    a.2.any (fun y => b.2.any (fun z => decide (y.2 = z.2) && LandDst.meets y.1 z.1))))).map (·.1)

/-! ### The slots of a bundle -/

/-- What the slots of a bundle have come to: the state so far, the causes met and the waits met. -/
structure Trial where
  s : State
  traps : List (SlotId × SlotTrap)
  waits : List Wait
  deriving DecidableEq, Repr

/-- The near forms, which sample the scratchpad of their core at issue (R272 to R275, R348, R359, R365). -/
def nearForm (i : Instr) : Bool :=
  match i with
  | .ld .. | .vld .. | .vldg .. | .cpy .. | .cpym .. | .scld .. | .rst _ .row _ _ => true
  | _ => false

/-- Earlier far accesses of a context to its own scratchpad are performed, each as a whole (R90, R112). -/
def State.flushFar (s : State) (k r : Nat) : State :=
  let c := s.ctx k r
  { ((s.core k).far.filter (fun a => decide (a.who.uid = c.uid) && (match s.farPieces a with
    | some l => l.any (fun x => ownSpad k x.2.1)
    | none => false))).foldl (fun t a =>
      match a.kind with
      | .load | .scale _ | .waitRead => t.loadNow a
      | .atom op dw true => t.atomNow a op dw
      | .atom _ _ false | .store => t.writeNow a
      | .prefetch => t) { s with moves := [] } with moves := s.moves }

/-- Earlier far accesses of the context to its own scratchpad on bytes that a landing near store, or a near form of the
bundle, reaches are performed first (R90, R112). -/
def State.flushOwn (s : State) (k r : Nat) (is : List (SlotId × Instr)) : State :=
  let c := s.ctx k r
  let lands := c.landing.any (fun e => decide (e.due = c.regs.tick) && (match e.dst with
    | .spad _ => true
    | _ => false))
  if is.any (fun x => nearForm x.2) || lands then s.flushFar k r else s

/-- Results that an instruction enters into the landing buffer where it is enabled (R152). -/
def State.entering (s : State) (i : Instr) : Nat :=
  match i with
  | .st .. | .vst .. | .vsts .. | .csrw .. => 1
  | .atom _ _ _ .off _ _ _ => 0
  | i => (s.results i).length

/-- What later slots of the bundle count of a slot that trapped or waits: its results, and the entry that its POP takes. -/
def State.counted (s : State) (i : Instr) : State :=
  { s with issue := { s.issue with
    more := s.issue.more + s.entering i
    popped := match i with
      | .pop _ q _ => some q
      | _ => s.issue.popped } }

/-- The errors that a slot has logged. -/
def State.withErrors (s v : State) : State := { s with dies := v.dies, upsets := v.upsets }

/-- Run the slots in order (R89). A slot that traps or waits leaves only the errors it has logged, and what later slots count of it
(R152, R364). A far access of one slot comes before a near form of a later one. -/
def runSlots : List (SlotId × Instr) → Trial → Host.Outcome Trial Fault Refusal
  | [], t => .next t
  | (u, i) :: l, t =>
    match exec i { t.s with issue := { t.s.issue with res := .ok } } with
    | .next v =>
      (match v.issue.res with
       | .ok => runSlots l { t with s := if l.any (fun x => nearForm x.2) then v.flushFar v.issue.k v.issue.r else v }
       | .trapped c a n =>
         runSlots l { t with s := (t.s.counted i).withErrors v, traps := t.traps ++ [(u, ⟨c, a, n⟩)] }
       | .waits w => runSlots l { t with s := t.s.counted i, waits := t.waits ++ [w] })
    | .fault f => .fault f
    | .refused r => .refused r

/-- The cause that comes first in the order of R168, the lowest slot at equal priority. -/
def firstOf : List (SlotId × SlotTrap) → Option (SlotId × SlotTrap)
  | [] => none
  | x :: l =>
    match firstOf l with
    | none => some x
    | some y => if x.2.cause.prio * 8 + x.1.num ≤ y.2.cause.prio * 8 + y.1.num then some x else some y

/-- SLOTS: every slot that met the cause (R169). -/
def trapSlots (c : Cause) (l : List (SlotId × SlotTrap)) : BitVec 8 :=
  (l.filter (fun x => decide (x.2.cause = c))).foldl (fun m x => m ||| slotBit x.1) 0#8

/-- The PC that a record names: for an uncorrectable load, met as a due result (slot none) or at the head of a queue, that of
the load (R81), else the bundle's. -/
def State.recordPc (s : State) (u : Option SlotId) (x : SlotTrap) : BitVec 18 :=
  let c := s.ic
  let errs : List QErr :=
    match u with
    | none => (c.landing.filter (fun e => decide (e.due = c.regs.tick) && e.failed)).filterMap (·.err)
    | some .l => (c.qld.take 1 ++ c.qrm.take 1).filterMap (·.err)
    | some _ => []
  match errs.find? (fun q => decide (x.cause = .eccUe) && decide (q.cause = .eccUe) && decide (q.addr = x.addr)) with
  | some q => q.pc
  | none => s.issue.pc

/-- How a context's bundle ended its trial. -/
inductive Verdict
  | issued
  | trapped
  | waits (w : Wait)
  deriving DecidableEq, Repr

/-- A context's trial: the state that follows, its verdict, and the slots and weights of its bundle. -/
structure Tried where
  s : State
  verdict : Verdict
  present : List SlotId
  used : List SlotId
  groups : Nat
  deriving DecidableEq, Repr

/-- Lane groups that an instruction asks for (R158, R285). -/
def laneGroups (i : Instr) : Nat :=
  match i with
  | .vadd h _ _ _ _ _ | .vsub h _ _ _ _ _ | .vmul h _ _ _ _ _ | .vfma h _ _ _ _ _ | .vfms h _ _ _ _ _
  | .vabs h _ _ _ | .vmin h _ _ _ | .vmax h _ _ _ | .vclamp h _ _ _ | .vrnd h _ _ _ | .vcmp h _ _ _ _
  | .vsel h _ _ _ | .vand h _ _ _ | .vor h _ _ _ | .vxor h _ _ _ | .vshl h _ _ _ | .vshr h _ _ _
  | .vsra h _ _ _ | .vclmul h _ _ _ | .vclmulh h _ _ _ | .vperm h _ _ _ | .vbcst h _ _ | .vmov h _ _
  | .vexts h _ _ _ | .vinss h _ _ _ | .vxch h _ _ _ | .vredsum h _ _ _ _ | .vredmax h _ _ | .vredmin h _ _
  | .vscan h _ _ _ _ _ | .vexp2 h _ _ | .vlog2 h _ _ | .vrcp h _ _ _ | .vrsq h _ _ | .vsqrt h _ _ _
  | .vsin h _ _ | .vcos h _ _ | .vtanh h _ _ | .vsigm h _ _ | .accrd h _ _ _ _ | .accwr h _ _ => h.w.groups
  | _ => 0

/-- Surviving lane groups of a core (R158). -/
def liveGroups (c : Core) : Nat := ((List.range 4).filter (fun i => c.lgmap.getLsbD i)).length

/-- The bundle in issue at an offset; second says that the merge stage has taken the other context's bundle before it in the cycle. -/
def State.begin (s : State) (k r : Nat) (pc len : Nat) (present : List SlotId) (second : Bool := false) : State :=
  { s with issue := { Issue.none with k := k, r := r, pc := BitVec.ofNat 18 pc, len := len, present := present, second := second } }

/-- Words of instruction memory under a bundle (R81). -/
def imemLocs (k pc n : Nat) : List (Nat × Nat × Nat) :=
  (List.range ((pc + n - 1) / 8 - pc / 8 + 1)).map (fun i => (k / 128, 4, coreLoc k ((pc / 8 + i) * 8)))

/-- What the naming of a cause marks at an instruction that met it (R75, R81, R405). -/
def State.nameAt (s : State) (k r : Nat) (c : Cause) (i : Instr) : State :=
  match i with
  | .pop _ q _ => s.markPop k r q c
  | .xexp .. => s.markFifo k r c
  | _ => s

/-- Land what is due at the context's tick, after the landing buffer has been read (R80, R404). -/
def State.landNow (s : State) (k r : Nat) : State := landDue (s.meetLandings k r s.issue.pc) k r

/-- Destinations that the two resident contexts of a core share (R52). -/
def LandDst.shared : LandDst → Bool
  | .tile .. | .acc _ | .scale _ | .scaleEl _ _ => true
  | _ => false

/-- Put a result in the order of issue. -/
def insBorn (e : Landing) : List Landing → List Landing
  | [] => [e]
  | f :: l => if e.born < f.born then e :: f :: l else f :: insBorn e l

/-- The results of two contexts that land in one cycle on what both share, in the order of issue, where one that has landed was issued in
a later cycle than one that meets it and lands behind it: landed so, the later-issued one remains on every bit (R52). -/
def relands (first second : List Landing) : List Landing :=
  if first.any (fun e => e.dst.shared && second.any (fun f => e.dst.meets f.dst && decide (f.born < e.born))) then
    ((first ++ second).filter (fun e => e.dst.shared)).foldr insBorn []
  else []

/-- Land what is due on a context whose core's other context has landed the results first in the same cycle; the results that land again
only settle what the shared storage holds. -/
def State.landBoth (s : State) (k r : Nat) (first : List Landing) : State :=
  let t := s.landNow k r
  { (relands first (s.ctx k r).due).foldl (fun u e => landDst u k r e.dst e.val) t with upsets := t.upsets, dies := t.dies }

/-- Everything a bundle does at its end once all its slots have committed, or the trap, or the wait: a hold before a freeze, as a held
context is absent for the merge stage (R118, R154, R399). base is the state before the landings, landed the state after them, due the results due that have failed. -/
def State.conclude (base landed : State) (b : Bundle) (due : List QErr) (t : Trial) : State × Verdict :=
  let own := firstOf t.traps
  let met : List SlotTrap := due.map (fun q => ⟨q.cause, q.addr, q.info⟩)
  let first : Option SlotTrap :=
    match firstTrap met, own with
    | some x, some y => if x.cause.prio ≤ y.2.cause.prio then some x else some y.2
    | some x, none => some x
    | none, y => y.map (·.2)
  match first with
  | some x =>
    let u := landed.withErrors t.s
    let k := u.issue.k
    let r := u.issue.r
    let named := b.instrs.filter (fun i => t.traps.any (fun y => decide (y.1 = i.1) && decide (y.2.cause = x.cause)))
    let v := named.foldl (fun a i => a.nameAt k r x.cause i.2) u
    let w := if met.contains x then v.markDue k r x.cause else v
    (w.enterTrap (trapSlots x.cause t.traps) false x (u.recordPc (if met.contains x then none else own.map (·.1)) x), .trapped)
  | none =>
    match (t.waits.filter (fun w => !w.freezes)) ++ t.waits with
    | w :: _ =>
      let a := b.instrs.findSome? (fun i => match i.2 with
        | .waita p _ _ x _ => if landed.enabled p then some (landed.ss x) else none
        | _ => none)
      (match a with
       | some va => if base.ic.waitRd = none then base.sendWait va else base
       | none => base, .waits w)
    | [] => (t.s, .issued)

/-- The slots at fault of a bundle that does not decode: those that fail by themselves, and those of the others whose results meet
(R218). -/
def State.badSlots (s : State) (bs : List Byte) (m : Nat) : BitVec 8 :=
  (s.meeting (bundleParts bs)).foldl (fun a u => a ||| slotBit u) (BitVec.ofNat 8 m)

/-- The oldest outside condition of a context is taken where it stands: a trap before its bundle (R163, R168). -/
def State.condTrap (s : State) (k r : Nat) (second : Bool := false) (first : List Landing := []) : Option State :=
  let c := s.ctx k r
  match c.conds with
  | [] => none
  | q :: rest =>
    let s0 := (s.begin k r (fetchPc (s.core k).imem (s.imglen c.crew) c.regs.pc.toNat) 0 [] second).flushOwn k r []
    let t := (s0.landBoth k r first).modCtx k r (fun x => { x with conds := rest })
    some (t.enterTrap 0#8 true ⟨q.cause, q.addr, q.info⟩ (q.pc.getD s0.issue.pc))

/-- A POP of the bundle waits for a head that has faulted (R119, R120). -/
def State.popHolds (s : State) (i : Instr) : Bool :=
  match i with
  | .pop p q _ => s.enabled p && decide (headWait (s.queue q) s = some .flt)
  | _ => false

/-- Try the bundle at the context's PC: outside conditions first (R168), breakpoints (R171), fetch (R202), R218, landings
(R255, R404), then the slots. The state of an issued bundle still waits for its end. In a merged pair first holds the results that
the other context's bundle has landed in this cycle, and second says that it has been taken before. -/
def State.tryBundle (s : State) (k r : Nat) (second : Bool := false) (first : List Landing := []) :
    Host.Outcome Tried Fault Refusal :=
  let c := s.ctx k r
  let len := s.imglen c.crew
  let im := (s.core k).imem
  let pc := fetchPc im len c.regs.pc.toNat
  let none5 (t : State) (v : Verdict) : Host.Outcome Tried Fault Refusal := .next ⟨t, v, [], [], 0⟩
  let s0 := (s.begin k r pc 0 [] second).flushOwn k r []
  match s.condTrap k r second first with
  | some t => none5 t .trapped
  | none =>
    if (breakHit c.dbrk pc) && !c.skipBrk then
      none5 ((s0.landBoth k r first).enterTrap 0#8 true ⟨.debug, 0, 0⟩ s0.issue.pc) .trapped
    else if len ≤ pc then
      none5 ((s0.landBoth k r first).enterTrap 0#8 false ⟨.illegalBundle, 0, 0⟩ s0.issue.pc) .trapped
    else
      let ls := imemLocs k pc (bundleLen (presAt im pc))
      let s1 := s0.meetUpsets ls (some s0.origin)
      if s.ueAt ls then none5 ((s1.landBoth k r first).enterTrap 0#8 false ⟨.eccUe, 0, 0⟩ s0.issue.pc) .trapped
      else
        match decodeBundle (lineRest im pc) with
        | .error (_, m) =>
          let t := s0.landBoth k r first
          none5 (t.enterTrap (t.badSlots (lineRest im pc) m) false ⟨.illegalBundle, 0, 0⟩ s0.issue.pc) .trapped
        | .ok b =>
          let s2 := (s1.begin k r pc b.len b.present second).flushOwn k r b.instrs
          let used := b.instrs.map (·.1)
          let groups := (b.instrs.map (fun x => laneGroups x.2)).sum
          let out (t : State) (v : Verdict) : Host.Outcome Tried Fault Refusal := .next ⟨t, v, b.present, used, groups⟩
          let due := (s2.ctx k r).landing.filter (fun e => decide (e.due = c.regs.tick))
          match due.filterMap (·.wait) with
          | id :: ids =>
            out s2 (.waits (if (id :: ids).any (fun i => s2.farHeld k i) || b.instrs.any (fun i => s2.popHolds i.2) then .flt else .far))
          | [] =>
            let landed := s2.landBoth k r first
            let meet := landed.meeting b.instrs
            if meet ≠ [] then
              out (landed.enterTrap (meet.foldl (fun m u => m ||| slotBit u) 0#8) false ⟨.illegalBundle, 0, 0⟩ s2.issue.pc)
                .trapped
            else
              let dead := (((landed.ctx k r).landing.filter (fun e => decide (e.due = c.regs.tick))).filter Landing.failed).filterMap (·.err)
              let lanes : List (SlotId × SlotTrap) := if liveGroups (s2.core k) = 0 then
                  (b.instrs.filter (fun x => decide (0 < laneGroups x.2))).map (fun x => (x.1, ⟨.illegalState, 0, 0⟩))
                else []
              match runSlots b.instrs ⟨landed, lanes, []⟩ with
              | .next t =>
                let (u, v) := State.conclude s2 landed b dead t
                out u v
              | .fault f => .fault f
              | .refused x => .refused x

/-! ### Watchdogs (R163) -/

/-- In a cycle in which a context's tick stands, its near stores at their landing tick are performed, and so are those that a publish of the
core covers, which could otherwise not complete (R51, R91; log entry 11). -/
def State.storesPass (s : State) (k r : Nat) : State :=
  let c := s.ctx k r
  let l := (s.core k).inPubs
  s.flushNear k c.nearStores (fun x e => decide (x.uid = c.uid) && (decide (e.due = x.regs.tick) || l.contains e.id))

/-- A cycle of the stall watchdog of a context (R163). -/
def State.stall (s : State) (k r : Nat) : State :=
  (s.storesPass k r).modCtx k r (fun x => { x with stallCnt := x.stallCnt + 1 })

/-- Cycles counted by the stall watchdog, and by the counters of R153, when a context waits. -/
def State.waitCycle (s : State) (k r : Nat) (w : Wait) : State :=
  (((s.storesPass k r).countWait k r w).modCore k (fun c => { c with
    bankPaid := if w = .bank then c.bankPaid + 1 else c.bankPaid })).modCtx k r
      (fun x => { x with stallCnt := x.stallCnt + 1, held := !w.freezes })

/-- A cycle for the contexts that wait outside a bundle: PBAR, FUSE and REJOIN are holds; a suspension counts too. -/
def State.idleCycle (s : State) (k r : Nat) : State :=
  match (s.ctx k r).mode with
  | .barrier _ _ | .fuseWait _ | .rejoinWait =>
    (s.storesPass k r).modCtx k r (fun x => { x with holdSync := x.holdSync + 1, stallCnt := x.stallCnt + 1 })
  | .suspending _ => s.modCtx k r (fun x => { x with stallCnt := x.stallCnt + 1 })
  | _ => s

/-! ### The merge stage (R154 to R158) -/

/-- A context may be considered for issue. -/
def State.canIssue (s : State) (k r : Nat) : Bool :=
  let c := s.ctx k r
  decide (c.mode = .running) && (match s.crew? c.crew with
    | some w => decide (w.st = .running)
    | none => false)

/-- Weight of some slots (R156). -/
def weightOf (l : List SlotId) : Nat := (l.map SlotId.weight).sum

/-- The window's limit (R156). -/
def ilimOf (c : Core) : Nat := max 64 (bf c.ilim 11 0)

/-- The last 31 cycles leave room for a weight. -/
def Core.fits (c : Core) (w : Nat) : Bool := decide (c.window.sum + w ≤ ilimOf c)

/-- The cycle's weight enters the window, and the core's cycle is counted. -/
def State.endCycle (s : State) (k w : Nat) : State :=
  s.modCore k (fun c => { c with window := (w :: c.window).take 31, cycles := c.cycles + 1 })

/-- Slots of the first sub-bundle (R157). -/
def inFirst (u : SlotId) : Bool :=
  match u with
  | .c | .i | .l | .e => true
  | _ => false

/-- Splitting is in force on a core (R157). -/
def Core.splits (c : Core) : Bool := c.press && c.splitEn

/-- Cycles that a bundle takes (R157, R158): one unless it splits. -/
def splitCycles (c : Core) (used : List SlotId) (groups : Nat) : Nat :=
  let live := liveGroups c
  let head := if used.any inFirst then 1 else 0
  if live < groups then head + (groups + live - 1) / live
  else if c.splits && used.any (fun u => c.splitMask.getLsbD u.num) && used.any inFirst && used.any (fun u => !inFirst u) then 2
  else 1

/-- The weights of the two parts of a bundle that takes n cycles: the part that issues first, and what is left for its second
cycle. -/
def splitWeights (used : List SlotId) (n : Nat) : Nat × Nat :=
  if n ≤ 1 ∨ !used.any inFirst then (weightOf used, 0)
  else (weightOf (used.filter inFirst), weightOf (used.filter (fun u => !inFirst u)))

/-- Cycles that a tried bundle takes on a core. -/
def Tried.cycles (t : Tried) (c : Core) : Nat := splitCycles c t.used t.groups

/-- Weight that a tried bundle brings into its first cycle (R156, R157). -/
def Tried.weight (t : Tried) (c : Core) : Nat := (splitWeights t.used (t.cycles c)).1

/-- Keep the end of a bundle for the last of n cycles; own of them split it, and all of those but the last count (R153, R157). -/
def State.keepEnd (s : State) (k r n own later : Nat) (i : Issue) : State :=
  s.modCore k (fun x => { x with
    split := some ⟨r, n - 1, later, i, own - 2⟩,
    cnt := { x.cnt with splitCyc := x.cnt.splitCyc + BitVec.ofNat 64 (b2n (decide (1 < own))) } })

/-- The first issue cycle of a tried bundle: a plain bundle ends in it; a split one keeps its end for its last cycle. -/
def State.startOrEnd (s : State) (k r : Nat) (t : Tried) : State × Nat :=
  let n := t.cycles (s.core k)
  if n ≤ 1 then (t.s.endBundle, weightOf t.used)
  else
    let (now, later) := splitWeights t.used n
    (t.s.keepEnd k r n n later t.s.issue, now)

/-- A further cycle of the split of some cores that issue together: each part's weight must fit; at the last the bundles end. -/
def State.splitOn (s : State) (l : List (Nat × SplitSt)) : State :=
  l.foldl (fun t x =>
    let p := x.2
    if p.left ≤ 1 then
      ((({ t with issue := p.iss }).modCore x.1 (fun c => { c with split := none })).endBundle).endCycle x.1 p.weight
    else
      (t.modCore x.1 (fun c => { c with
        split := some { p with left := p.left - 1, weight := 0, own := p.own - 1 },
        cnt := { c.cnt with splitCyc := c.cnt.splitCyc + BitVec.ofNat 64 (b2n (decide (0 < p.own))) } })).endCycle x.1 p.weight) s

/-- Count a denied cycle (R153). -/
def State.deny (s : State) (k r : Nat) : State :=
  (s.modCtx k r (fun x => { x with mergeDeny := x.mergeDeny + 1 })).modCore k (fun c => { c with denied := some r })

/-- A context that issues nothing in a cycle in which it could: an outside condition traps it where it stands (R163, R168); else it is
denied, or in a freeze of the core counts it. -/
def State.passOver (s : State) (k r : Nat) (frozen : Bool) (first : List Landing := []) : State :=
  (s.condTrap k r (!frozen) first).getD (if frozen then s.stall k r else s.deny k r)

/-- A context that waits out a cycle of the other's split bundle: it is held, or denied (R153, R154). -/
def State.besideSplit (s : State) (k r : Nat) : Host.Outcome State Fault Refusal :=
  if !s.canIssue k r then .next s
  else
    match s.tryBundle k r with
    | .next t =>
      (match t.verdict with
       | .waits w => .next (if w.freezes then s.deny k r else t.s.waitCycle k r w)
       | _ => .next (s.passOver k r false))
    | .fault f => .fault f
    | .refused x => .refused x

/-- A further cycle of a split bundle outside lock-step. Under the current limit the whole core freezes (R156, R163). -/
def State.splitCycle (s : State) (k : Nat) (p : SplitSt) : Host.Outcome State Fault Refusal :=
  if !(s.core k).fits p.weight then
    let t := s.waitCycle k p.r .cur
    .next ((if s.canIssue k (1 - p.r) then t.passOver k (1 - p.r) true else t).endCycle k 0)
  else
    match s.besideSplit k (1 - p.r) with
    | .next t => .next (t.splitOn [(k, p)])
    | o => o

/-- The priority that a context has as its landings at the tick are done (R154, R270, R404). -/
def State.duePrio (s : State) (k r : Nat) : Nat := ((landDue s k r).ctx k r).regs.prio.toNat

/-- Which of two contexts that can issue goes first (R154). -/
def State.firstCtx (s : State) (k : Nat) : Nat :=
  let c := s.core k
  if s.duePrio k 1 < s.duePrio k 0 then 0
  else if s.duePrio k 0 < s.duePrio k 1 then 1
  else c.denied.getD c.firstWas

/-- Issue one context alone. -/
def State.issueAlone (s : State) (k r : Nat) (t : Tried) : State × Nat :=
  match t.verdict with
  | .trapped => (t.s, 0)
  | .waits w => (t.s.waitCycle k r w, 0)
  | .issued =>
    if (s.core k).fits (t.weight (s.core k)) then s.startOrEnd k r t
    else (s.waitCycle k r .cur, 0)

/-- A bundle that issues lets the other's YIELD lapse (R155). -/
def State.yieldOver (s : State) (k r : Nat) : State :=
  s.modCore k (fun c => { c with yielder := match c.yielder with
    | some y => if y ≠ r then none else some y
    | none => none })

/-- The YIELD of the only context that can issue lapses (R155). -/
def State.yieldAlone (s : State) (k r : Nat) : State :=
  s.modCore k (fun c => { c with yielder := if c.yielder = some r then none else c.yielder })

/-- The trial's bundle has issued. -/
def Verdict.issues : Verdict → Bool
  | .issued => true
  | _ => false

/-- One cycle with one context that can issue. -/
def State.cycleOne (s : State) (k r : Nat) : Host.Outcome State Fault Refusal :=
  let s0 := s.yieldAlone k r
  match s0.tryBundle k r with
  | .next t =>
    let (u, w) := s0.issueAlone k r t
    let v := u.modCore k (fun c => { c with denied := none })
    .next ((if t.verdict.issues && decide (0 < w) then v.yieldOver k r else v).endCycle k w)
  | .fault f => .fault f
  | .refused x => .refused x

/-- Add the second context's bundle to the first's if every condition of R154 holds; else it is held, or denied. An outside condition traps
it whatever holds; a trap of its bundle is taken where the bundle would be added. -/
def State.addSecond (u : State) (k r : Nat) (core : Core) (t1 : Tried) (first : List Landing) :
    Host.Outcome (State × Nat) Fault Refusal :=
  match u.tryBundle k r true first with
  | .next t =>
    let apart := t.present.any (fun y => t1.present.contains y) || decide (liveGroups core < t1.groups + t.groups) ||
      !core.fits (weightOf t1.used + weightOf t.used) || decide (1 < t.cycles core)
    (match t.verdict with
     | .waits w => if w.freezes then .next (u.deny k r, 0) else .next (t.s.waitCycle k r w, 0)
     | .trapped => if apart then .next (u.deny k r, 0) else .next (t.s, 0)
     | .issued => if apart then .next (u.deny k r, 0) else .next (t.s.endBundle, weightOf t.used))
  | .fault f => .fault f
  | .refused x => .refused x

/-- One cycle with two contexts that can issue: a goes first (R154). A freeze is one of the whole core (R163). The second bundle is tried on what
the first has left, so that the first reads tiles and scratchpad before the second's results of the cycle land; R51 orders only a
context's own reads behind its landings (DESIGN CHOICE, log entry 76). -/
def State.cycleTwo (s : State) (k a : Nat) (ta : Tried) : Host.Outcome State Fault Refusal :=
  let b := 1 - a
  let core := s.core k
  let first := (s.ctx k a).due
  match ta.verdict with
  | .waits w => .next (((ta.s.waitCycle k a w).passOver k b true).endCycle k 0)
  | .trapped =>
    (match ta.s.tryBundle k b true first with
     | .next t =>
       let (u, w) := ta.s.issueAlone k b t
       .next ((u.modCore k (fun c => { c with denied := none })).endCycle k w)
     | .fault f => .fault f
     | .refused x => .refused x)
  | .issued =>
    if !core.fits (ta.weight core) then .next (((s.waitCycle k a .cur).passOver k b true).endCycle k 0)
    else
      let (u, w) := s.startOrEnd k a ta
      let u1 := (u.modCore k (fun c => { c with firstWas := a, denied := none })).yieldOver k a
      if decide (1 < ta.cycles core) || decide (core.yielder = some b) then .next ((u1.passOver k b false first).endCycle k w)
      else
        match u1.addSecond k b core ta first with
        | .next (v, w2) => .next (v.endCycle k (w + w2))
        | .fault f => .fault f
        | .refused x => .refused x

/-- A verdict that leaves the context able to issue in this cycle: it is not held (R118). -/
def Verdict.able : Verdict → Bool
  | .waits w => w.freezes
  | _ => true

/-- No context has been denied in the cycle. -/
def State.noneDenied (s : State) (k : Nat) : State := s.modCore k (fun c => { c with denied := none })

/-- The merge stage of a core outside lock-step. -/
def State.mergeCycle (s : State) (k : Nat) : Host.Outcome State Fault Refusal :=
  match s.canIssue k 0, s.canIssue k 1 with
  | false, false => .next ((s.noneDenied k).endCycle k 0)
  | true, false => s.cycleOne k 0
  | false, true => s.cycleOne k 1
  | true, true =>
    match s.tryBundle k 0, s.tryBundle k 1 with
    | .next t0, .next t1 =>
      if t0.verdict.able && t1.verdict.able then
        let a := match (s.core k).yielder with
          | some y => 1 - y
          | none => s.firstCtx k
        s.cycleTwo k a (if a = 0 then t0 else t1)
      else if t0.verdict.able then
        match t1.verdict with
        | .waits w => (t1.s.waitCycle k 1 w).cycleOne k 0
        | _ => s.cycleOne k 0
      else if t1.verdict.able then
        match t0.verdict with
        | .waits w => (t0.s.waitCycle k 0 w).cycleOne k 1
        | _ => s.cycleOne k 1
      else
        match t0.verdict, t1.verdict with
        | .waits w0, .waits w1 => .next ((((t0.s.waitCycle k 0 w0).waitCycle k 1 w1).noneDenied k).endCycle k 0)
        | _, _ => .next (s.endCycle k 0)
    | .fault f, _ => .fault f
    | .refused x, _ => .refused x
    | _, .fault f => .fault f
    | _, .refused x => .refused x

/-! ### Lock-step (R160, R162) -/

/-- Try every member's bundle on one state; the first list holds what was tried. -/
def State.tryGroup (s : State) : List Nat → List (Nat × Nat × Tried) → Host.Outcome (List (Nat × Nat × Tried)) Fault Refusal
  | [], l => .next l
  | p :: ps, l =>
    let r := s.residentOf p
    match s.tryBundle p r with
    | .next t => s.tryGroup ps (l ++ [(p, r, t)])
    | .fault f => .fault f
    | .refused x => .refused x

/-- Commit the members' bundles one after another; each bundle keeps its end, so that every member's PC still stands at its
bundle of the cycle while the others exchange (R298). -/
def State.commitGroup (s : State) : List Nat → List (Nat × Nat × Tried) → Host.Outcome (State × List (Nat × Nat × Tried)) Fault Refusal
  | [], l => .next (s, l)
  | p :: ps, l =>
    let r := s.residentOf p
    match s.tryBundle p r with
    | .next t => t.s.commitGroup ps (l ++ [(p, r, t)])
    | .fault f => .fault f
    | .refused x => .refused x

/-- Run the members' bundles of one cycle, and end them; where one splits, all of them end with its last cycle (R157, R158,
R160). -/
def State.runGroup (s : State) (ps : List Nat) : Host.Outcome State Fault Refusal :=
  match s.commitGroup ps [] with
  | .next (t, l) =>
    let n := (l.map (fun x => x.2.2.cycles (s.core x.1))).foldl max 1
    .next (l.foldl (fun u x =>
      let own := x.2.2.cycles (s.core x.1)
      let (now, later) := splitWeights x.2.2.used own
      if n ≤ 1 then ({ u with issue := x.2.2.s.issue } : State).endBundle.endCycle x.1 now
      else (u.keepEnd x.1 x.2.1 n own later x.2.2.s.issue).endCycle x.1 now) t)
  | .fault f => .fault f
  | .refused x => .refused x

/-- Land what is due on every member before any bundle of the cycle reads (R160, R298). -/
def State.landGroup (s : State) (ps : List Nat) : State :=
  ps.foldl (fun t p =>
    let r := t.residentOf p
    (t.begin p r (t.nextPc p r).toNat 0 []).landNow p r) s

/-- A cycle in which no member issues: each that waits by itself counts what it waits for, each other that could issue a cycle of the
stall watchdog (R153, R160, R163, R399). -/
def State.stopGroup (s : State) (ps : List Nat) : Host.Outcome State Fault Refusal :=
  ps.foldl (fun o p =>
    match o with
    | .next u =>
      let r := u.residentOf p
      if !u.canIssue p r then .next (u.endCycle p 0)
      else
        (match u.tryBundle p r with
         | .next t =>
           (match t.verdict with
            | .waits w => .next ((t.s.waitCycle p r w).endCycle p 0)
            | .issued =>
              let cur := !(u.core p).fits (t.weight (u.core p))
              .next ((if cur then u.waitCycle p r .cur else u.stall p r).endCycle p 0)
            | .trapped => .next ((u.stall p r).endCycle p 0))
         | .fault f => .fault f
         | .refused x => .refused x)
    | o => o) (.next s)

/-- The members trap whose trial did, each with its own record, and the others are parked with cause GROUP (R162). -/
def State.trapGroup (s : State) (ts : List (Nat × Nat × Tried)) : Host.Outcome State Fault Refusal :=
  ts.foldl (fun o x =>
    match o with
    | .next u =>
      if x.2.2.verdict = .trapped then
        (match u.tryBundle x.1 x.2.1 with
         | .next v => .next v.s
         | .fault f => .fault f
         | .refused y => .refused y)
      else .next (u.parkGroup x.1 x.2.1)
    | o => o) (.next s)

/-- One cycle of a group: every member issues, or none does. A trap parks its member with its own record and every other
member with cause GROUP (R162). While a member cannot issue, one that holds an outside condition still traps where it stands
(R163, R168). -/
def State.groupCycle (s : State) (ps : List Nat) : Host.Outcome State Fault Refusal :=
  match ps.find? (fun p => !s.canIssue p (s.residentOf p)) with
  | some _ =>
    (match ps.find? (fun q => s.canIssue q (s.residentOf q) && decide ((s.ctx q (s.residentOf q)).conds ≠ [])) with
     | some q =>
       (match s.tryBundle q (s.residentOf q) with
        | .next v => .next (ps.foldl (fun t x => t.endCycle x 0) (v.s.groupStop q))
        | .fault f => .fault f
        | .refused x => .refused x)
     | none => s.stopGroup ps)
  | none =>
    match s.tryGroup ps [] with
    | .fault f => .fault f
    | .refused x => .refused x
    | .next ts =>
      if ts.any (fun x => decide (x.2.2.verdict = .trapped)) then
        match (s.landGroup ps).trapGroup ts with
        | .next u => .next (ps.foldl (fun t p => t.endCycle p 0) u)
        | o => o
      else if ts.all (fun x => x.2.2.verdict.issues && (s.core x.1).fits (x.2.2.weight (s.core x.1))) then (s.landGroup ps).runGroup ps
      else s.stopGroup ps

/-- A further cycle of a group of which a member splits its bundle (R157, R160). -/
def State.groupSplit (s : State) (ps : List Nat) : State :=
  let l := ps.filterMap (fun p => (s.core p).split.map (fun x => (p, x)))
  if l.all (fun x => (s.core x.1).fits x.2.weight) then s.splitOn l
  else l.foldl (fun t x =>
    (if (s.core x.1).fits x.2.weight then t.stall x.1 x.2.r else t.waitCycle x.1 x.2.r .cur).endCycle x.1 0) s

/-! ### The cycle of a core -/

/-- The core's power state lets it issue (R200). -/
def Gate.runs : Gate → Bool
  | .active | .hold _ => true
  | _ => false

/-- One issue cycle of core k, and of every member of its group in lock-step. -/
def State.cycle (s0 : State) (k : Nat) : Host.Outcome State Fault Refusal :=
  let s := s0.gateCheck k
  let c := s.core k
  if !c.gate.runs then .next s
  else
    let fused := match c.fuse with
      | some f => !f.dec
      | none => false
    let ps := if fused then s.groupOf k else [k]
    let s1 := ps.foldl (fun t p => (((t.idleCycle p 0).idleCycle p 1).watchdogs p 0).watchdogs p 1) s
    match c.split with
    | some p => if fused then .next (s1.groupSplit ps) else s1.splitCycle k p
    | none => if fused then s1.groupCycle ps else s1.mergeCycle k

end Sys2Proof.Machine
end

