-- ==== Sys2Proof/Machine/Step.lean ====
section
/-!
DEFINITION. The step: time passes, and the next thing of the agenda happens, or, when the agenda is empty, one issue cycle
of the core in focus. withFetchWord places one instruction where the step fetches it.
-/

namespace Sys2Proof.Machine

/-- Time goes on by the nanoseconds that this step takes (R7; log entry 3). -/
def State.tickTime (s : State) : State :=
  { s with time := s.time + Config.nsPerStep s.steps, steps := s.steps + 1, resp := .none }

/-- One step of the package. -/
def step (s : State) : Host.Outcome State Fault Refusal :=
  let t := s.tickTime
  match s.agenda with
  | .event i :: l => exec i { t with agenda := l }
  | .cycle k :: l => { t with agenda := l }.cycle k
  | [] => t.cycle t.focus

/-- A launch record of one logical core on physical core k with an image of one line (R138). -/
def fetchRecord (k : Nat) : List Word :=
  let place (i : Nat) : Word := if k / 64 = i then BitVec.ofNat 64 (2 ^ (k % 64)) else 0#64
  [0, 0x0010000000000000, 0, 64, 0, 0, 0, 0, 0, 0, 0x2000, 0, place 0, place 1, place 2, place 3,
   0, 0, 0, 0, 0, 0, 0x0000001A18000000, 0, 0, 0, 0, 0, 0, 0, 0, 0]

/-- A running crew of that record. -/
def fetchCrew (k : Nat) (id : BitVec 16) : Crew :=
  { id := id, lr := fetchRecord k, queue := 0, tag := 0, pktIdx := 0, cmpl := false, order := 0, st := .running,
    exact := false, flagPas := [], rt := 0, arrived := [], ages := [], kept := [], uids := [], ended := [],
    reserved := [], trapSeq := 0, trapq := [], killed := false, kills := [], saved := [], pausedAt := 0 }

/-- The bytes of the bundle that holds one instruction given by its table bits. -/
def fetchBytes (nbits w : Nat) : List Byte :=
  match firstAccepting w (slotsOfWidth nbits) with
  | some (u, _) => bundleBytes u w Ext.none
  | none => []

/-- The context that fetches it: slot 0 of the core in focus, runnable at offset 0. -/
def fetchCtx (c : Ctx) : Ctx :=
  { c with mode := .running, conds := [], landing := [], skipBrk := true, regs := { c.regs with pc := 0, loops := [] } }

/-- The core in focus with the image loaded and one runnable context. -/
def fetchCore (bs : List Byte) (c : Core) : Core :=
  { c with
    c0 := fetchCtx c.c0, c1 := { c.c1 with mode := .empty }, imem := bs ++ c.imem.drop bs.length, split := none,
    fuse := none, gate := .active, window := [], lgmap := 0xF }

/-- s with one instruction, given as the opcode table numbers its bits, stored where the step fetches next: an image of one
bundle on the core in focus, in a crew that runs. The agenda is empty, so that the next step is a cycle of that core. -/
def State.withFetchWord (s : State) (nbits w : Nat) : State :=
  let k := s.focus
  let id := (s.core k).c0.crew
  { s with
    agenda := []
    cores := modAt (fetchCore (fetchBytes nbits w)) k s.cores
    crews := fetchCrew k id :: s.crews.filter (fun c => decide (c.id ≠ id)) }

end Sys2Proof.Machine
end

