-- ==== Sys2Proof/Safety.lean ====
section
/-!
DEFINITION. The terms in which the claims speak: when an instruction goes its ordinary way, what a result is, what a trap leaves, and
what a step leaves unchanged.
-/

namespace Sys2Proof.Machine

/-! ### Good states and steps -/

/-- Memory is in its canonical form. -/
def State.MemOk (s : State) : Prop := Memory.wf s.mem = true

/-- The package has its parts: 256 cores, 16 clusters and two dies of four quadrants, twelve error logs each, eight trestle ports, 64
submission queues and two PCIe root ports (R1 to R4, R83, R138, R192, R376, R380, R389). -/
def State.Shaped (s : State) : Prop :=
  s.cores.length = 256 ∧ s.clusters.length = 16 ∧ s.dies.length = 2 ∧ (∀ d ∈ s.dies, d.quads.length = 4 ∧ d.logs.length = 12) ∧
    s.head.ports.length = 8 ∧ s.head.queues.length = 64 ∧ s.head.pci.length = 2

/-- The invariant of the machine: its memory is canonical, and it has its parts. -/
def State.Sound (s : State) : Prop := s.MemOk ∧ s.Shaped

/-- A step that neither faults nor is refused. -/
def Runs (s : State) : Prop := ∃ t, step s = Host.Outcome.next t

/-- The machine answers an instruction with a next state of which P holds. -/
def Gives (i : Instr) (s : State) (P : State → Prop) : Prop := ∃ t, exec i s = Host.Outcome.next t ∧ P t

/-! ### The ordinary course of a slot instruction -/

/-- The slot is enabled, and the landing buffer has room for n results beside those that the bundle's earlier slots would enter (R152, R204). -/
def State.Goes (s : State) (p : Pr) (n : Nat) : Prop := s.enabled p = true ∧ s.ic.landing.length + s.issue.more + n ≤ 64

/-- None of some storage words holds an uncorrectable error (R81). -/
def State.Clean (s : State) (ls : List (Nat × Nat × Nat)) : Prop := s.ueAt ls = false

/-- s once the single errors met by a read of some words are corrected and logged (R81, R83). -/
def State.fixed (s : State) (ls : List (Nat × Nat × Nat)) : State := s.meetUpsets ls (some s.origin)

/-- The bundle in issue is suppressed by a cause that the slot u met: the state after the trap (R168, R169). -/
def State.traps (s : State) (u : SlotId) (c : Cause) (a info : Word) : State := s.takeTrap (slotBit u) ⟨c, a, info⟩

/-- A scalar result of the I slot: v lands in d after n ticks (R253). -/
def State.iLand (s : State) (d : SDst) (v : Word) (n : Nat) : State := s.land .i (dstLand d) (v.setWidth 1024) n

/-! ### Frames -/

/-- t is s but for the landing buffer of the context in issue, the storage errors with the dies' logs and armed injections, the numbers given
to near stores, and the bundle in issue: every register, queue, publish, refresh and counter of every context, every core, cluster, crew, byte
of memory and register of the headframe die is as before, and so is every register of the dies but those two. -/
def State.LandsOnly (s t : State) : Prop :=
  let k := s.issue.k
  let r := s.issue.r
  let kept : State := s.modCtx k r (fun c => { c with landing := (t.ctx k r).landing })
  t = { kept with dies := t.dies, upsets := t.upsets, nextId := t.nextId, issue := t.issue } ∧
    t.dies.length = s.dies.length ∧ ∀ d, t.die d = { s.die d with logs := (t.die d).logs, inj := (t.die d).inj }

/-- Every byte of memory outside n bytes at a reads as before. -/
def State.OnlyBytes (s t : State) (a n : Nat) : Prop :=
  ∀ b, (b < a ∨ a + n ≤ b) → Tab.get t.mem b = Tab.get s.mem b

/-! ### The instructions of a shape -/

/-- The instructions whose whole effect is a result that lands later; a conversion that rounds stochastically also draws from
the random-bit queue, and is not one of them. -/
def onlyLands : Instr → Bool
  | .add .. | .sub .. | .addi .. | .li .. | .mul .. | .mulh .. | .mulhu .. | .div .. | .divu .. | .rem .. | .remu .. | .min .. | .max ..
  | .minu .. | .maxu .. | .and .. | .or .. | .xor .. | .andn .. | .shl .. | .shr .. | .sra .. | .rotl .. | .clz .. | .ctz .. | .popc ..
  | .clmul .. | .clmulh .. | .extr .. | .ins .. | .cmp .. | .pand .. | .por .. | .pxor .. | .sel .. | .csrr .. | .csrw .. | .sqr ..
  | .gettime .. | .ld .. | .st .. | .vld .. | .vst .. | .vldg .. | .vsts .. | .vadd .. | .vsub .. | .vmul .. | .vfma .. | .vfms ..
  | .vabs .. | .vmin .. | .vmax .. | .vclamp .. | .vrnd .. | .vcmp .. | .vsel .. | .vand .. | .vor .. | .vxor .. | .vshl .. | .vshr ..
  | .vsra .. | .vclmul .. | .vclmulh .. | .vperm .. | .vbcst .. | .vmov .. | .vexts .. | .vinss .. | .vxch .. | .vredsum .. | .vredmax ..
  | .vredmin .. | .vscan .. | .vexp2 .. | .vlog2 .. | .vrcp .. | .vrsq .. | .vsqrt .. | .vsin .. | .vcos .. | .vtanh .. | .vsigm ..
  | .accrd .. | .accwr .. | .xtrn8 .. | .xtrn16 .. | .xpks .. | .xupk .. | .msetp .. => true
  | .xcvt _ _ _ m _ _ | .xcvtSat _ _ _ m _ _ => decide (m ≠ .sr)
  | _ => false

/-- The C-slot instructions whose whole effect waits for the end of the bundle; SUSP reserves a queue slot besides. -/
def asksOnly : Instr → Bool
  | .br .. | .ret .. | .jmpi .. | .loopImm .. | .loopReg .. | .lbrk .. | .yield .. | .halt ..
  | .fusePair .. | .fuseQuad .. | .decpl .. | .rejoin .. => true
  | _ => false

/-- The predicate prefix of a slot instruction (R204); none for an event. -/
def slotPred : Instr → Option Pr
  | .br p _ | .call p _ | .ret p _ | .jmpi p _ | .loopImm p _ _ _ | .loopReg p _ _ _ | .lbrk p | .yield p | .susp p | .suspAny p
  | .halt p | .trap p _ | .fusePair p | .fuseQuad p | .decpl p | .rejoin p => some p
  | .add p _ _ _ | .sub p _ _ _ | .addi p _ _ _ _ | .li p _ _ _ | .mul p _ _ _ | .mulh p _ _ _ | .mulhu p _ _ _ | .div p _ _ _
  | .divu p _ _ _ | .rem p _ _ _ | .remu p _ _ _ | .min p _ _ _ | .max p _ _ _ | .minu p _ _ _ | .maxu p _ _ _ | .and p _ _ _
  | .or p _ _ _ | .xor p _ _ _ | .andn p _ _ _ | .shl p _ _ _ | .shr p _ _ _ | .sra p _ _ _ | .rotl p _ _ _ | .clz p _ _
  | .ctz p _ _ | .popc p _ _ | .clmul p _ _ _ | .clmulh p _ _ _ | .extr p _ _ _ | .ins p _ _ _ | .cmp p _ _ _ _ | .pand p _ _ _
  | .por p _ _ _ | .pxor p _ _ _ | .sel p _ _ _ _ | .csrr p _ _ | .csrw p _ _ | .sqr p _ _ | .gettime p _ => some p
  | .ld p _ _ _ _ _ | .st p _ _ _ _ _ | .vld p _ _ _ _ | .vst p _ _ _ _ | .vldg p _ _ _ _ | .vsts p _ _ _ _ | .ldq p _ _ _ _
  | .vldq p _ _ _ | .stf p _ _ _ _ _ | .vstf p _ _ _ _ | .pop p _ _ | .pfh p _ _ _ | .atom p _ _ _ _ _ _ | .pub p _ | .ref p _
  | .phase p _ | .pbar p _ | .waita p _ _ _ _ => some p
  | .vadd h _ _ _ _ _ | .vsub h _ _ _ _ _ | .vmul h _ _ _ _ _ | .vfma h _ _ _ _ _ | .vfms h _ _ _ _ _ | .vabs h _ _ _
  | .vmin h _ _ _ | .vmax h _ _ _ | .vclamp h _ _ _ | .vrnd h _ _ _ | .vcmp h _ _ _ _ | .vsel h _ _ _ | .vand h _ _ _
  | .vor h _ _ _ | .vxor h _ _ _ | .vshl h _ _ _ | .vshr h _ _ _ | .vsra h _ _ _ | .vclmul h _ _ _ | .vclmulh h _ _ _
  | .vperm h _ _ _ | .vbcst h _ _ | .vmov h _ _ | .vexts h _ _ _ | .vinss h _ _ _ | .vxch h _ _ _ | .vredsum h _ _ _ _
  | .vredmax h _ _ | .vredmin h _ _ | .vscan h _ _ _ _ _ | .vexp2 h _ _ | .vlog2 h _ _ | .vrcp h _ _ _ | .vrsq h _ _
  | .vsqrt h _ _ _ | .vsin h _ _ | .vcos h _ _ | .vtanh h _ _ | .vsigm h _ _ | .accrd h _ _ _ _ | .accwr h _ _ => some h.p
  | .xexp p _ | .xtrn8 p _ _ _ | .xtrn16 p _ _ _ | .xcvt p _ _ _ _ _ | .xcvtSat p _ _ _ _ _ | .xpks p _ _ _ _ _
  | .xupk p _ _ _ _ _ | .xrng p _ => some p
  | .mcall p _ _ _ _ _ | .msetp p _ _ | .mcfg p _ _ | .mstw p _ _ _ | .acctk p _ | .accgv p _ | .accz p _ | .ascfg p _
  | .asdrn p _ _ _ _ | .acupd p _ _ _ _ | .acfin p _ _ _ => some p
  | .cpy p _ _ | .cpym p _ _ | .sig p _ _ _ _ _ | .qfen p _ | .sld p _ _ _ | .scld p _ _ | .nxt p | .wswap p | .rld p _ _
  | .rst p _ _ _ | .ratom p _ _ _ _ _ _ | .xmeta p _ _ _ _ | .rngs p _ _ _ | .tdone p _ | .prbr p _ _ => some p
  | _ => none

/-! ### Results that the statements write out -/

/-- Bit n of the carry-less product of two words: the sum without carry of the products of their bits (R262). -/
def clBit (x y : Word) (n : Nat) : Bool :=
  (List.range 64).foldl (fun b i => b != (x.getLsbD i && decide (i ≤ n) && y.getLsbD (n - i))) false

/-- Bit j of what memory holds from a place up, in the byte order of R5. -/
def memBit (m : Memory) (a j : Nat) : Bool := (Tab.get m (a + j / 8)).getLsbD (j % 8)

/-- A place that a near form of n bytes may name: inside the local window, and aligned (R14, R272). -/
def Near (va : Word) (n : Nat) : Prop :=
  0x00FF000000000000 ≤ va.toNat ∧ va.toNat + n ≤ 0x00FF0000000C0000 ∧ va.toNat % n = 0

/-- Its byte in the scratchpad. -/
def nearAt (va : Word) : Nat := va.toNat - 0x00FF000000000000

/-- Bit j of what a near form of the context in issue samples from byte o of the scratchpad up (R5, R51): what memory holds, or held before a
near store of its own that a publish has performed ahead of its landing (log entry 11). -/
def State.nearBit (s : State) (o j : Nat) : Bool :=
  (match (s.ic.landing.flatMap (fun (l : Landing) => l.old)).find? (fun (b : Nat × Byte) => decide (b.1 = o + j / 8)) with
   | some b => b.2
   | none => Tab.get s.mem (spadBase s.issue.k + (o + j / 8))).getLsbD (j % 8)

/-- Address of element i of a gather or scatter: the base plus the unsigned 32-bit index (R275). -/
def State.elemVa (s : State) (b : SSrc) (ix : VSrc) (i : Nat) : Word := s.ss b + ((s.vs ix).extractLsb' (32 * i) 32).setWidth 64

/-- s after a far access of the context in issue has gone out: it is numbered, a read and a prefetch wait for the refreshes pending (R61, R93,
R280), and its walk, if it needs one, is asked for (R115). -/
def State.issues (s : State) (f : FarKind) (va : Word) (size : Nat) (data : Row) (ps : List Part) : State :=
  let a : FarAcc :=
    { id := s.nextId, who := s.origin, kind := f, va := va, size := size, data := data, parts := ps, root := s.ic.xl.root,
      after := if farReads f || decide (f = .prefetch) then s.ic.refs.map (·.id) else [], tick := s.ic.regs.tick }
  (({ s with nextId := s.nextId + 1 } : State).modCore s.issue.k (fun c => { c with far := c.far ++ [a] })).askFar a

/-- The walk queue of the die of the core in issue takes another walk (R115). -/
def State.WalksRoom (s : State) : Prop := (s.die (dieOf s.issue.k)).walks.length < 1280

/-! ### Vectors -/

/-- A V instruction meets nothing in its way: its slot is enabled with room for one result, its tile fields are covered and given to
the context, and the words of its sources hold no uncorrectable error (R52, R81, R144, R209). -/
def State.VReady (s : State) (h : VH) (d : VDst) (srcs : List VSrc) : Prop :=
  s.Goes h.p 1 ∧ vdTraps d s = [] ∧ (∀ a ∈ srcs, vsTraps a s = []) ∧ s.Clean (srcs.flatMap (fun a => vsWords a h.w.bits s))

/-- The instruction lands one row of its width in d after n ticks, with flags; P says what the row and the flags are. -/
def State.VLands (s : State) (i : Instr) (h : VH) (d : VDst) (srcs : List VSrc) (n : Nat) (P : Row → Flags → Prop) : Prop :=
  ∃ v f, exec i s = .next ((s.fixed (srcs.flatMap (fun a => vsWords a h.w.bits s))).landF (vslot h) (s.vd d h.w.bits) v n f) ∧
    P v f ∧ v.toNat < 2 ^ h.w.bits

/-- Element i of a source (R284). -/
def State.el (s : State) (h : VH) (a : VSrc) (i : Nat) : Nat := elt h.ty.size (s.vs a) i

/-- Element i of D as it is read; zero where D is suppressed (R284). -/
def State.eld (s : State) (h : VH) (d : VDst) (i : Nat) : Nat :=
  match d with
  | .tile rot dir t k => s.el h (.tile rot dir t k) i
  | .off => 0

/-- Every lane of a row is given by g, and the flags are those of the lanes together (R251, R284). -/
def LaneWise (h : VH) (v : Row) (f : Flags) (g : Nat → Nat × Flags) : Prop :=
  (∀ i, i < lanes h → elt h.ty.size v i = (g i).1 % 2 ^ (8 * h.ty.size)) ∧
    f = (List.range (lanes h)).foldl (fun x i => x ||| (g i).2) 0

/-! ### Queues -/

/-- t is s with one more entry in mx, which sampled the element types, the scales and the assay configuration of its core, and has
places places in qas (R318, R339). -/
def State.MxGets (s t : State) (kind : MxKind) (acc : BitVec 2) (places : Nat) : Prop :=
  (∃ e, t.icore.eng.mx = s.icore.eng.mx ++ [e] ∧ e.id = s.nextId ∧ e.kind = kind ∧ e.acc = acc.toNat ∧ e.who = s.origin ∧
    e.ta = s.icore.ta ∧ e.tb = s.icore.tb ∧ e.ascfg = s.icore.ascfg ∧
    e.scales = (List.range 8).map (fun i => Tab.get s.icore.scales i) ∧ e.upc = 0 ∧ e.row = 0 ∧ e.flt = none ∧ e.failed = false ∧
    e.qas.length = places ∧ t.ic.qas = s.ic.qas ++ e.qas.map (fun i => ⟨i, .scal .d, none, none⟩)) ∧
    t.ic.regs = s.ic.regs ∧ t.ic.landing = s.ic.landing ∧ t.mem = s.mem ∧ t.icore.tiles = s.icore.tiles ∧ t.icore.acc = s.icore.acc

/-- t is s with one more entry at the tail of copy queue q, which comes after the pending publishes of its context (R92, R345). -/
def State.CeGets (s t : State) (q : Nat) (kind : CmdKind) : Prop :=
  (∃ c, t.icore.eng.ce q = s.icore.eng.ce q ++ [c] ∧ c.id = s.nextId ∧ c.kind = kind ∧ c.who = s.origin ∧ c.xl = s.ic.xl ∧
    c.pubs = s.ic.pubs.map (·.id) ∧ c.piece = 0 ∧ c.pos = 0 ∧ c.begun = false ∧ c.done = false ∧ c.failed = false) ∧
    (∀ p, p < 4 → p ≠ q → t.icore.eng.ce p = s.icore.eng.ce p) ∧ t.ic.regs = s.ic.regs ∧ t.ic.landing = s.ic.landing ∧ t.mem = s.mem

/-- t is s with one more request of the remote unit, which has gone out on port i, and, for one with an entry of qrm, with that entry
(R363, R364). -/
def State.RmGets (s t : State) (fab : Word) (kind : AccKind) (n : Nat) (q : Option QKind) (i : Nat) : Prop :=
  (∃ r, t.icore.eng.rm.getLast? = some r ∧ r.id = s.nextId ∧ r.fab = fab ∧ r.kind = kind ∧ r.size = n ∧ r.who = s.origin ∧
    r.sent = some (s.time, i)) ∧
    (match q with
     | some z => t.ic.qrm = s.ic.qrm ++ [⟨s.nextId, z, none, none⟩]
     | none => t.ic.qrm = s.ic.qrm) ∧
    (t.head.ports.getD i Port.reset).buf.length = (s.head.ports.getD i Port.reset).buf.length + 1 ∧
    t.ic.regs = s.ic.regs ∧ t.ic.landing = s.ic.landing ∧ t.mem = s.mem

end Sys2Proof.Machine
end

