-- ==== Sys2Proof/Certificates/Slice0/Obligations.lean ====
section
/-!
DEFINITION. The statements for the provers: encodings, the step, every instruction and every event with a meaning, frames, and the
invariant of the machine. Completion of an instruction is stated under hypotheses on the state and its operands alone.
-/

open Sys2Proof Sys2Proof.Machine

/-! ### Encodings -/

/-- R201, R211 to R217, R220 to R226: the word and the extension of every instruction that some encoding stands for fit the slot,
and the decoder of the slot reads that instruction back, with every operand at every value that the encoding admits. -/
def Obligations.SlotWordsRoundTrip : Prop :=
  ∀ (i : Instr) (u : SlotId) (w : Nat) (x : Ext),
    i.wf = true → i.slot = some u → encodeSlot i = some (w, x) →
      w < 2 ^ u.width ∧ decodeSlot u w x = .ok i

/-- R201 to R203: the bundle that holds one instruction and its extension decodes to that instruction alone, and its length is
that of its bytes. -/
def Obligations.BundlesRoundTrip : Prop :=
  ∀ (i : Instr) (u : SlotId), i.wf = true → i.slot = some u →
    ∃ b, decodeBundle (encode i) = .ok b ∧ b.instrs = [(u, i)] ∧ b.len = (encode i).length

/-- R218, items 3 to 6 and 8: what a slot's decoder accepts is an instruction of that slot, in a form that the manual accepts, and
the accepted word and extension are the only ones that stand for it: no bit of an accepted word is ignored. -/
def Obligations.AcceptedWordsAreCanonical : Prop :=
  ∀ (u : SlotId) (w : Nat) (x : Ext) (i : Instr), w < 2 ^ u.width → decodeSlot u w x = .ok i →
    i.wf = true ∧ i.slot = some u ∧ encodeSlot i = some (w, x)

/-- R220 to R226, the examples of the chapters on the slots: words that the manual prints decode to the instructions that it prints
them for. -/
def Obligations.PrintedWords : Prop :=
  decodeSlot .c 0x012FFFE8 Ext.none = .ok (.br ⟨false, 2⟩ 0xFFFE8#20) ∧
  decodeSlot .c 0x05002080 Ext.none = .ok (.loopReg ⟨false, 0⟩ 2 (.reg 4) Ext.none) ∧
  decodeSlot .c 0x0B080000 Ext.none = .ok (.fuseQuad ⟨false, 0⟩) ∧
  decodeSlot .i 0x14018736 Ext.none = .ok (.shl ⟨false, 0⟩ (.reg 6) (.reg 7) (.imm 13)) ∧
  decodeSlot .i 0x030145FF Ext.none = .ok (.addi ⟨false, 0⟩ (.reg 5) (.reg 5) 0xFF#8 Ext.none) ∧
  decodeSlot .i 0x21072400 Ext.none = .ok (.pand ⟨false, 0⟩ 3 ⟨true, 1⟩ ⟨false, 2⟩) ∧
  decodeSlot .l 0x070189FFFFFC Ext.none = .ok (.ld ⟨false, 0⟩ .ws (.reg 6) (.reg 9) 0xFFFFFC#24 Ext.none) ∧
  decodeSlot .l 0x1D0040120C18 Ext.none =
    .ok (.vldg ⟨false, 0⟩ .w (.tile false .h 4 0) (.reg 9) (.tile false .h 6 1)) ∧
  decodeSlot .l 0x2001410C00C0 Ext.none = .ok (.atom ⟨false, 0⟩ .add true (.reg 5) (.reg 1) (.reg 3) (.reg 0)) ∧
  decodeSlot .l 0x2C0A820C0000 Ext.none = .ok (.waita ⟨false, 0⟩ .pkg .ge (.reg 2) (.reg 3)) ∧
  decodeSlot .v1 0x0B04410304103000 Ext.none =
    .ok (.vcmp ⟨true, ⟨false, 0⟩, .w512, .bf16⟩ .lt (.tile false .h 6 1) (.tile false .h 4 1) (.latch .v0 0)) ∧
  decodeSlot .v0 0x2309C000144CE006 Ext.none =
    .ok (.vexts ⟨false, ⟨false, 0⟩, .w1024, .i16⟩ (.reg 5) (.tile false .v 3 7) (.reg 6)) ∧
  decodeSlot .x 0x040050010007 Ext.none = .ok (.xcvt ⟨false, 0⟩ .f32 .bf16 .sr (.tile false .h 5 0) (.tile false .h 2 0)) ∧
  decodeSlot .m 0x010801490003 Ext.none = .ok (.mcall ⟨false, 0⟩ 3 2 (.reg 10) true 8) ∧
  decodeSlot .e 0x0302106000000005 Ext.none = .ok (.sig ⟨false, 0⟩ 1 (.reg 2) (.reg 3) .pkg false) ∧
  decodeSlot .e 0x120C106000000030 Ext.none = .ok (.ratom ⟨false, 0⟩ .add true false (.reg 2) (.reg 3) (.reg 0))

/-! ### The step -/

/-- R151, R155, R157, R168, R202: a step with an empty agenda is a cycle of the core in focus. When that core runs outside fusion and
splitting, only its slot 0 can issue, and the bytes at its PC decode to a bundle of one instruction that can be issued, the step runs
exactly that instruction, on the state in which the results due have landed, and then ends the bundle. The scheduler's event at the head of
the agenda is what the step runs, after the time counter has gone on and with the event taken off the agenda; a cycle at its head is a cycle
of the core that it names (the agenda is the model's own: log entry 8). -/
def Obligations.StepRunsTheDecodedInstruction : Prop :=
  (∀ (s : State) (u : SlotId) (i : Instr) (n : Nat) (pr : List SlotId) (v : State),
    let k := s.focus
    let g := s.tickTime.gateCheck k
    let o := (((((g.idleCycle k 0).idleCycle k 1).watchdogs k 0).watchdogs k 1).yieldAlone k 0)
    let c := o.ctx k 0
    let im := (o.core k).imem
    let pc := fetchPc im (o.imglen c.crew) c.regs.pc.toNat
    let ls := imemLocs k pc (bundleLen (presAt im pc))
    let b0 := (o.begin k 0 pc 0 []).flushOwn k 0 []
    let s2 := ((b0.meetUpsets ls (some b0.origin)).begin k 0 pc n pr).flushOwn k 0 [(u, i)]
    let e := s2.landNow k 0
    s.agenda = [] → (g.core k).gate.runs = true → (g.core k).split = none → (g.core k).fuse = none →
    ((((g.idleCycle k 0).idleCycle k 1).watchdogs k 0).watchdogs k 1).canIssue k 0 = true →
    ((((g.idleCycle k 0).idleCycle k 1).watchdogs k 0).watchdogs k 1).canIssue k 1 = false →
    c.conds = [] → (breakHit c.dbrk pc && !c.skipBrk) = false → pc < o.imglen c.crew → o.ueAt ls = false →
    decodeBundle (lineRest im pc) = .ok ⟨n, [(u, i)], pr⟩ →
    (∀ x ∈ (s2.ctx k 0).landing, x.due = c.regs.tick → x.wait = none) →
    (∀ x ∈ (e.ctx k 0).landing, x.due = c.regs.tick → x.failed = false) →
    e.meeting [(u, i)] = [] → (laneGroups i = 0 ∨ liveGroups (s2.core k) ≠ 0) →
    splitCycles (o.core k) [u] (laneGroups i) ≤ 1 → (o.core k).fits u.weight = true →
    exec i { e with issue := { e.issue with res := .ok } } = .next v → v.issue.res = .ok →
      step s = .next (((v.endBundle.modCore k (fun x => { x with denied := none })).yieldOver k 0).endCycle k u.weight)) ∧
  (∀ (s : State) (i : Instr) (l : List Agendum), s.agenda = .event i :: l → step s = exec i { s.tickTime with agenda := l }) ∧
  (∀ (s : State) (k : Nat) (l : List Agendum), s.agenda = .cycle k :: l → step s = ({ s.tickTime with agenda := l } : State).cycle k)

/-! ### C slot -/

/-- R204: a disabled slot performs nothing: it lands nothing, asks for nothing, enters nothing into a queue and meets no cause,
whatever its instruction. -/
def Obligations.DisabledSlotsDoNothing : Prop :=
  ∀ (i : Instr) (p : Pr) (s : State), slotPred i = some p → s.enabled p = false → s.issue.res = .ok → exec i s = .next s

/-- R256, R257: BR, CALL, RET and JMPI, where the target lies inside the image and leaves no outermost loop of a fused group, ask for the
transfer to the 18-bit target, and CALL lands the offset behind its bundle in s27 one tick later. R258: LOOP in both forms, below depth 3,
with a count up to 2^32 − 1 and a body inside the image and the enclosing body, asks for the loop: its header at the bundle's PC, its body's
first and last bundle, ITER 0, LEFT the count, the rings of its extension. -/
def Obligations.TransfersAndLoopsComplete : Prop :=
  (∀ (s : State) (p : Pr) (off : BitVec 20) (a : SSrc),
    (s.Goes p 0 → badTarget (s.issue.pc.setWidth 64 + off.signExtend 64) s = false →
      exec (.br p off) s = .next (s.ask (.goto ((s.issue.pc.setWidth 64 + off.signExtend 64).setWidth 18)))) ∧
    (s.Goes p 1 → badTarget (s.issue.pc.setWidth 64 + off.signExtend 64) s = false →
      exec (.call p off) s =
        .next ((s.land .c (.scal 27#5) (BitVec.ofNat 1024 (s.issue.pc.toNat + s.issue.len)) 1).ask
          (.goto ((s.issue.pc.setWidth 64 + off.signExtend 64).setWidth 18)))) ∧
    (s.Goes p 0 → badTarget (s.ss a) s = false → exec (.ret p a) s = .next (s.ask (.goto ((s.ss a).setWidth 18)))) ∧
    (s.Goes p 0 → badTarget (s.ss a) s = false → exec (.jmpi p a) s = .next (s.ask (.goto ((s.ss a).setWidth 18))))) ∧
  (∀ (s : State) (p : Pr) (l : BitVec 8) (n : BitVec 11) (a : SSrc) (x : Ext) (f e : Nat), s.Goes p 0 →
    s.ic.regs.loops.length < 3 → loopBody (l.toNat + 1) s = some (f, e) →
    exec (.loopImm p l n x) s =
      .next (s.ask (.loop ⟨s.issue.pc, BitVec.ofNat 18 f, BitVec.ofNat 18 e, 0, n.toNat, ringsOf x⟩)) ∧
    ((s.ss a).toNat ≤ 2 ^ 32 - 1 →
      exec (.loopReg p l a x) s =
        .next (s.ask (.loop ⟨s.issue.pc, BitVec.ofNat 18 f, BitVec.ofNat 18 e, 0, (s.ss a).toNat, ringsOf x⟩))))

/-- R257: a transfer whose target, as a 64-bit value, is at or beyond IMGLEN traps with the cause ILLEGAL_STATE, and its bundle is
suppressed. R258 to R260: a LOOP at depth 3, with a count above 2^32 − 1 or with a body that does not fit, and an LBRK without an active
loop, trap with ILLEGAL_STATE. -/
def Obligations.ControlTraps : Prop :=
  (∀ (s : State) (p : Pr) (off : BitVec 20) (a : SSrc), s.Goes p 1 →
    (s.imglen s.ic.crew ≤ (s.issue.pc.setWidth 64 + off.signExtend 64).toNat →
      exec (.br p off) s = .next (s.traps .c .illegalState 0 0) ∧ exec (.call p off) s = .next (s.traps .c .illegalState 0 0)) ∧
    (s.imglen s.ic.crew ≤ (s.ss a).toNat →
      exec (.ret p a) s = .next (s.traps .c .illegalState 0 0) ∧ exec (.jmpi p a) s = .next (s.traps .c .illegalState 0 0))) ∧
  (∀ (s : State) (p : Pr) (l : BitVec 8) (n : BitVec 11) (a : SSrc) (x : Ext), s.Goes p 0 →
    (3 ≤ s.ic.regs.loops.length ∨ loopBody (l.toNat + 1) s = none →
      exec (.loopImm p l n x) s = .next (s.traps .c .illegalState 0 0)) ∧
    (3 ≤ s.ic.regs.loops.length ∨ 2 ^ 32 - 1 < (s.ss a).toNat ∨ loopBody (l.toNat + 1) s = none →
      exec (.loopReg p l a x) s = .next (s.traps .c .illegalState 0 0)) ∧
    (s.ic.regs.loops = [] → exec (.lbrk p) s = .next (s.traps .c .illegalState 0 0)))

/-- R147, R150, R155, R159, R161, R260, R261: LBRK, YIELD, SUSP, SUSP any, HALT, FUSE, DECPL and REJOIN, where they are legal, ask the
end of their bundle for their effect. A suspension carries the lowest queue slot that is EMPTY and not reserved, which is reserved from then
on. -/
def Obligations.ContextFlowCompletes : Prop :=
  ∀ (s : State) (p : Pr) (q : Nat), s.Goes p 0 →
    let kept : State := s.modCrew s.ic.crew (fun w => { w with reserved := if w.reserved.contains q then w.reserved else w.reserved ++ [q] })
    (s.ic.regs.loops ≠ [] → exec (.lbrk p) s = .next (s.ask .brk)) ∧
    exec (.yield p) s = .next { s with issue := { s.issue with yld := true } } ∧
    (suspBad s = false → s.suspSlot = some q →
      exec (.susp p) s = .next (kept.ask (.susp ⟨q, false, false, .eq, .core, 0, 0⟩)) ∧
      exec (.suspAny p) s = .next (kept.ask (.susp ⟨q, false, true, .eq, .core, 0, 0⟩))) ∧
    exec (.halt p) s = .next (s.ask .halt) ∧
    (fuseBad false s = false → exec (.fusePair p) s = .next (s.ask (.fuse false))) ∧
    (fuseBad true s = false → exec (.fuseQuad p) s = .next (s.ask (.fuse true))) ∧
    (s.lockStep = true → exec (.decpl p) s = .next { s with issue := { s.issue with dec := true } }) ∧
    (∀ f, s.icore.fuse = some f → f.dec = true → exec (.rejoin p) s = .next (s.ask .rejoin))

/-- R168, item 9, R169, R261: TRAP takes the trap of cause 0x0D. The record that is posted to the crew holds the slot C, the bundle's
PC and tick, the time, and the immediate in INFO; the context is parked with its registers and PC unchanged, and memory is as
before. -/
def Obligations.TrapTakesTheTrap : Prop :=
  ∀ (s : State) (p : Pr) (imm : BitVec 20) (w : Crew), s.enabled p = true → s.crew? s.ic.crew = some w → s.issue.k < s.cores.length →
    Gives (.trap p imm) s (fun t =>
      t.issue.res = .trapped .trap 0 (imm.setWidth 64) ∧ t.ic.mode = .trapped ∧ t.ic.regs = s.ic.regs ∧ t.mem = s.mem ∧
      ∃ w', t.crew? s.ic.crew = some w' ∧ w'.trapSeq = w.trapSeq + 1 ∧
        w'.trapq = w.trapq ++ [
          { cause := .trap, slots := 1#8, lcore := w.lcore s.issue.k, rslot := s.issue.r, async := false, halted := false,
            image := BitVec.ofNat 32 (bf (lrw w.lr 0) 63 32), pc := s.issue.pc, tick := s.ic.regs.tick, time := s.time,
            addr := 0, info := imm.setWidth 64, seq := w.trapSeq, resume := none }])

/-! ### I slot -/

/-- R262: every instruction of the table of R262 has its opcode there and lands the result of the table after the latency of R253, with an
immediate zero-extended and shift counts taken modulo 64; a word of CLZ, CTZ or POPC whose B field or BI is not zero is no instruction; and
a result for s0 lands with no register written, but enters the I ring. -/
def Obligations.IntegerTable : Prop :=
  (∀ (s : State) (p : Pr) (d : SDst) (a : SSrc) (b : SOp), s.Goes p 1 →
    let x := s.ss a
    let y := match b with
      | .src c => s.ss c
      | .imm k => k.setWidth 64
    exec (.add p d a b) s = .next (s.iLand d (x + y) 1) ∧
    exec (.sub p d a b) s = .next (s.iLand d (x - y) 1) ∧
    exec (.mul p d a b) s = .next (s.iLand d (BitVec.ofNat 64 (x.toNat * y.toNat)) 3) ∧
    exec (.mulh p d a b) s = .next (s.iLand d (BitVec.ofInt 64 (x.toInt * y.toInt / 2 ^ 64)) 3) ∧
    exec (.mulhu p d a b) s = .next (s.iLand d (BitVec.ofNat 64 (x.toNat * y.toNat / 2 ^ 64)) 3) ∧
    exec (.min p d a b) s = .next (s.iLand d (if x.toInt ≤ y.toInt then x else y) 1) ∧
    exec (.max p d a b) s = .next (s.iLand d (if x.toInt ≤ y.toInt then y else x) 1) ∧
    exec (.minu p d a b) s = .next (s.iLand d (if x.toNat ≤ y.toNat then x else y) 1) ∧
    exec (.maxu p d a b) s = .next (s.iLand d (if x.toNat ≤ y.toNat then y else x) 1) ∧
    exec (.and p d a b) s = .next (s.iLand d (x &&& y) 1) ∧
    exec (.or p d a b) s = .next (s.iLand d (x ||| y) 1) ∧
    exec (.xor p d a b) s = .next (s.iLand d (x ^^^ y) 1) ∧
    exec (.andn p d a b) s = .next (s.iLand d (x &&& ~~~y) 1) ∧
    exec (.shl p d a b) s = .next (s.iLand d (x <<< (y.toNat % 64)) 1) ∧
    exec (.shr p d a b) s = .next (s.iLand d (x >>> (y.toNat % 64)) 1) ∧
    exec (.sra p d a b) s = .next (s.iLand d (BitVec.ofInt 64 (x.toInt / 2 ^ (y.toNat % 64))) 1) ∧
    exec (.rotl p d a b) s = .next (s.iLand d ((x <<< (y.toNat % 64)) ||| (x >>> (64 - y.toNat % 64))) 1) ∧
    exec (.clz p d a) s = .next (s.iLand d x.clz 1) ∧
    exec (.ctz p d a) s = .next (s.iLand d x.ctz 1) ∧
    exec (.popc p d a) s = .next (s.iLand d x.cpop 1) ∧
    (∃ v, exec (.clmul p d a b) s = .next (s.iLand d v 2) ∧ ∀ j, j < 64 → v.getLsbD j = clBit x y j) ∧
    (∃ v, exec (.clmulh p d a b) s = .next (s.iLand d v 2) ∧ ∀ j, j < 64 → v.getLsbD j = clBit x y (64 + j))) ∧
  (∀ (p : Pr) (d : SDst) (a : SSrc) (b : SOp) (w : Nat) (x : Ext),
    let opcode (i : Instr) (n : Nat) : Prop := encodeSlot i = some (w, x) → fld w 24 8 = n
    opcode (.add p d a b) 0x01 ∧ opcode (.sub p d a b) 0x02 ∧ opcode (.mul p d a b) 0x05 ∧ opcode (.mulh p d a b) 0x06 ∧
    opcode (.mulhu p d a b) 0x07 ∧ opcode (.min p d a b) 0x0C ∧ opcode (.max p d a b) 0x0D ∧ opcode (.minu p d a b) 0x0E ∧
    opcode (.maxu p d a b) 0x0F ∧ opcode (.and p d a b) 0x10 ∧ opcode (.or p d a b) 0x11 ∧ opcode (.xor p d a b) 0x12 ∧
    opcode (.andn p d a b) 0x13 ∧ opcode (.shl p d a b) 0x14 ∧ opcode (.shr p d a b) 0x15 ∧ opcode (.sra p d a b) 0x16 ∧
    opcode (.rotl p d a b) 0x17 ∧ opcode (.clz p d a) 0x18 ∧ opcode (.ctz p d a) 0x19 ∧ opcode (.popc p d a) 0x1A ∧
    opcode (.clmul p d a b) 0x1B ∧ opcode (.clmulh p d a b) 0x1C) ∧
  (∀ w, fld w 24 8 = 0x18 ∨ fld w 24 8 = 0x19 ∨ fld w 24 8 = 0x1A → fld w 1 7 ≠ 0 → ∀ i, decodeSlot .i w Ext.none ≠ .ok i) ∧
  (∀ (s : State) (k r : Nat) (v : Word) (n : Word), k < s.cores.length →
    let e : Landing := { due := n, slot := .i, dst := dstLand (.reg 0#5), val := v.setWidth 1024, fl := 0#7, wait := none, tileWord := false,
                         err := none }
    ((landOne s k r e).ctx k r).regs.s = (s.ctx k r).regs.s ∧
    ((landOne s k r e).ctx k r).regs.rings.i = (v :: (s.ctx k r).regs.rings.i).take 4)

/-- R263: quotients truncate toward zero, remainders take the sign of the dividend, and the boundary cases of the table of R263 give its
results without a trap, each after 12 ticks; the opcodes are those of R263. -/
def Obligations.DivisionsComplete : Prop :=
  ∀ (s : State) (p : Pr) (d : SDst) (a : SSrc) (b : SOp), s.Goes p 1 →
    let x := s.ss a
    let y := s.so b
    (y ≠ 0 →
      exec (.div p d a b) s = .next (s.iLand d (BitVec.ofInt 64 (x.toInt.tdiv y.toInt)) 12) ∧
      exec (.divu p d a b) s = .next (s.iLand d (BitVec.ofNat 64 (x.toNat / y.toNat)) 12) ∧
      exec (.rem p d a b) s = .next (s.iLand d (BitVec.ofInt 64 (x.toInt.tmod y.toInt)) 12) ∧
      exec (.remu p d a b) s = .next (s.iLand d (BitVec.ofNat 64 (x.toNat % y.toNat)) 12)) ∧
    (y = 0 →
      exec (.div p d a b) s = .next (s.iLand d 0xFFFFFFFFFFFFFFFF 12) ∧
      exec (.divu p d a b) s = .next (s.iLand d 0xFFFFFFFFFFFFFFFF 12) ∧
      exec (.rem p d a b) s = .next (s.iLand d x 12) ∧ exec (.remu p d a b) s = .next (s.iLand d x 12)) ∧
    (x = 0x8000000000000000 → y = 0xFFFFFFFFFFFFFFFF →
      exec (.div p d a b) s = .next (s.iLand d 0x8000000000000000 12) ∧ exec (.rem p d a b) s = .next (s.iLand d 0 12)) ∧
    (∀ (w : Nat) (z : Ext),
      let opcode (i : Instr) (n : Nat) : Prop := encodeSlot i = some (w, z) → fld w 24 8 = n
      opcode (.div p d a b) 0x08 ∧ opcode (.divu p d a b) 0x09 ∧ opcode (.rem p d a b) 0x0A ∧ opcode (.remu p d a b) 0x0B)

/-- R264: EXTR takes the field at p = b[5:0] of length l = b[13:8] + 1, cut at bit 63, zero-extended; INS replaces those bits of the old
destination register (zero for s0 or a suppressed destination) by the low bits of a. Stated bit by bit. BI = 1 is no instruction. -/
def Obligations.FieldsComplete : Prop :=
  ∀ (s : State) (p : Pr) (d : SDst) (a b : SSrc), s.Goes p 1 →
    let f := bf (s.ss b) 5 0
    let l := bf (s.ss b) 13 8 + 1
    let old : Word := match d with
      | .reg n => if n = 0#5 then 0#64 else Tab.get s.ic.regs.s n.toNat
      | .off => 0#64
    (∃ v, exec (.extr p d a b) s = .next (s.iLand d v 1) ∧
      ∀ j, j < 64 → v.getLsbD j = (decide (j < l ∧ f + j < 64) && (s.ss a).getLsbD (f + j))) ∧
    (∃ v, exec (.ins p d a b) s = .next (s.iLand d v 1) ∧
      ∀ j, j < 64 → v.getLsbD j = if f ≤ j ∧ j < f + l then (s.ss a).getLsbD (j - f) else old.getLsbD j) ∧
    (∀ (w : Nat) (x : Ext), (encodeSlot (.extr p d a b) = some (w, x) → fld w 24 8 = 0x1D) ∧ (encodeSlot (.ins p d a b) = some (w, x) → fld w 24 8 = 0x1E)) ∧
    (∀ w i, fld w 24 8 = 0x1D ∨ fld w 24 8 = 0x1E → fld w 1 1 = 1 → decodeSlot .i w Ext.none ≠ .ok i)

/-- R265: ADDI gives a + Imm(imm8, 8) and LI gives Imm(imm14, 14), each with or without an extension. R266 to R268: CMP lands 1 where its
condition holds and 0 elsewhere; PAND, POR and PXOR land the operation on their operands, negated as written; SEL lands a where its
predicate is 1 and b where it is 0. -/
def Obligations.ImmediatesAndPredicatesComplete : Prop :=
  (∀ (s : State) (p : Pr) (d : SDst) (a : SSrc) (k : BitVec 8) (m : BitVec 14) (x : Ext), s.Goes p 1 →
    exec (.addi p d a k x) s = .next (s.iLand d (s.ss a + immVal k.toNat 8 x) 1) ∧
    exec (.li p d m x) s = .next (s.iLand d (immVal m.toNat 14 x) 1) ∧
    immVal k.toNat 8 Ext.none = k.signExtend 64 ∧ immVal m.toNat 14 Ext.none = m.signExtend 64) ∧
  (∀ (s : State) (p : Pr) (d : SDst) (pd n : BitVec 3) (cc : Cc) (a : SSrc) (b : SOp) (x y : Pr), s.Goes p 1 →
    let u := s.ss a
    let v := s.so b
    let holds : Bool := match cc with
      | .eq => decide (u = v) | .ne => decide (u ≠ v) | .lt => decide (u.toInt < v.toInt) | .ge => decide (v.toInt ≤ u.toInt)
      | .ltu => decide (u.toNat < v.toNat) | .geu => decide (v.toNat ≤ u.toNat)
    let pred (q : Pr) : Bool := (if q.n = 0#3 then true else s.ic.regs.p.getLsbD q.n.toNat) != q.neg
    let lands (c : Bool) : Host.Outcome State Fault Refusal := .next (s.land .i (.pred pd) (if c then 1 else 0) 1)
    exec (.cmp p pd cc a b) s = lands holds ∧
    exec (.pand p pd x y) s = lands (pred x && pred y) ∧
    exec (.por p pd x y) s = lands (pred x || pred y) ∧
    exec (.pxor p pd x y) s = lands (pred x != pred y) ∧
    exec (.sel p d n a b) s = .next (s.iLand d (if pred ⟨false, n⟩ then u else v) 1) ∧
    (∀ (w : Nat) (z : Ext),
      let opcode (i : Instr) (k : Nat) : Prop := encodeSlot i = some (w, z) → fld w 24 8 = k
      let code : Nat := match cc with
        | .eq => 0 | .ne => 1 | .lt => 2 | .ge => 3 | .ltu => 4 | .geu => 5
      opcode (.cmp p pd cc a b) 0x20 ∧ (encodeSlot (.cmp p pd cc a b) = some (w, z) → fld w 14 3 = code) ∧ opcode (.pand p pd x y) 0x21 ∧
      opcode (.por p pd x y) 0x22 ∧ opcode (.pxor p pd x y) 0x23 ∧ (n ≠ 0 → opcode (.sel p d n a b) (0x28 + n.toNat))))

/-- R269 to R271: CSRR lands the register as it stands; CSRW lands its operand in the register at T + 1; SQR lands the step register of a
crew that a sequencer serves; GETTIME lands the package time counter. R269, R270, R144: the landing of a CSRW writes CX_FFLAGS, writes
CX_PRIO only up to the priority of the crew, and leaves every other register of R269 as it was. -/
def Obligations.RegistersAndTimeComplete : Prop :=
  (∀ (s : State) (p : Pr) (d : SDst) (a : SSrc) (x : Csr) (n : BitVec 4), s.Goes p 1 →
    let c := s.icore.cnt
    exec (.csrr p d x) s = .next (s.iLand d (s.csr s.issue.k s.issue.r x) 1) ∧
    s.csr s.issue.k s.issue.r .tick = s.ic.regs.tick ∧
    s.csr s.issue.k s.issue.r .fflags = s.ic.regs.fflags.setWidth 64 ∧
    s.csr s.issue.k s.issue.r .prio = s.ic.regs.prio.setWidth 64 ∧
    [0#3, 1#3, 2#3, 3#3, 4#3, 5#3, 6#3, 7#3].map (fun j => s.csr s.issue.k s.issue.r (.core j)) =
      [c.frzCur, c.frzBank, c.frzSwap, c.frzPub, c.fifoStarve, c.frzFar, c.splitCyc, c.pfDrop] ∧
    [0#2, 1#2, 2#2, 3#2].map (fun j => s.csr s.issue.k s.issue.r (.hold j)) =
      [s.ic.holdFlt, s.ic.holdSlog, s.ic.holdSync, s.ic.mergeDeny] ∧
    exec (.csrw p x a) s = .next (s.land .i (.csr x) ((s.ss a).setWidth 1024) 1) ∧
    (∀ i, s.seqDie s.ic.crew = some i → exec (.sqr p d n) s = .next (s.iLand d (Tab.get s.icore.steps n.toNat) 1)) ∧
    (s.seqDie s.ic.crew = none → exec (.sqr p d n) s = .next (s.iLand d 0 1)) ∧
    exec (.gettime p d) s = .next (s.iLand d s.time 1)) ∧
  (∀ (s : State) (k r : Nat) (v : Word), k < s.cores.length →
    ((landCsr s k r .fflags v).ctx k r).regs = { (s.ctx k r).regs with fflags := v.setWidth 7 } ∧
    (v.toNat % 64 ≤ s.prioMax (s.ctx k r).crew →
      ((landCsr s k r .prio v).ctx k r).regs = { (s.ctx k r).regs with prio := v.setWidth 6 }) ∧
    (s.prioMax (s.ctx k r).crew < v.toNat % 64 → landCsr s k r .prio v = s) ∧
    (∀ x, x ≠ .fflags → x ≠ .prio → landCsr s k r x v = s))

/-! ### L slot -/

/-- R51, R273 to R275: LD, VLD and VLDG land after 4 ticks what the scratchpad holds at the places they name, as their context samples it (a near
store of its own that a publish has performed before its landing tick is not sampled: log entry 11): LD its 1, 2, 4 or 8 bytes
with zeros or copies of the sign bit above, VLD a row of 128 bytes, VLDG its elements one behind the other with zeros above. Single
errors of the words read are corrected; an uncorrectable one is met at the landing and is not covered here. -/
def Obligations.NearLoadsComplete : Prop :=
  ∀ (s : State) (p : Pr) (z : LdSz) (y : Sz) (sd : SDst) (d : VDst) (b : SSrc) (k : BitVec 24) (l : BitVec 17) (ix : VSrc) (x : Ext),
    s.Goes p 1 → s.ic.refs = [] →
    (let n := match z with
       | .b | .bs => 1
       | .h | .hs => 2
       | .w | .ws => 4
       | .d => 8
     let signed := match z with
       | .bs | .hs | .ws => true
       | _ => false
     let va := s.ss b + immVal k.toNat 24 x
     let pa := spadBase s.issue.k + nearAt va
     Near va n → s.Clean (memLocs pa n) →
     ∃ v, exec (.ld p z sd b k x) s = .next ((s.fixed (memLocs pa n)).land .l (dstLand sd) v 4) ∧
       ∀ j, j < 1024 → v.getLsbD j = if j < 8 * n then s.nearBit (nearAt va) j else decide (j < 64) && signed && s.nearBit (nearAt va) (8 * n - 1)) ∧
    (let va := s.ss b + immVal l.toNat 17 x
     let pa := spadBase s.issue.k + nearAt va
     Near va 128 → vdTraps d s = [] → s.Clean (memLocs pa 128) →
     ∃ v, exec (.vld p d b l x) s = .next ((s.fixed (memLocs pa 128)).land .l (s.vd d 1024) v 4) ∧
       ∀ j, j < 1024 → v.getLsbD j = s.nearBit (nearAt va) j) ∧
    (let n := szBytes y
     let e := if y = .d then 16 else 32
     let pa (i : Nat) := spadBase s.issue.k + nearAt (s.elemVa b ix i)
     let t := s.fixed (vsWords ix 1024 s)
     let ls := (List.range e).flatMap (fun i => memLocs (pa i) n)
     (∀ i, i < e → Near (s.elemVa b ix i) n) → vdTraps d s = [] → vsTraps ix s = [] → gatherWait y b ix s = none →
     s.Clean (vsWords ix 1024 s) → t.Clean ls →
     ∃ v, exec (.vldg p y d b ix) s = .next ((t.fixed ls).land .l (s.vd d 1024) v 4) ∧
       ∀ j, j < 1024 → v.getLsbD j = (decide (j < 8 * n * e) && s.nearBit (nearAt (s.elemVa b ix (j / (8 * n)))) (j % (8 * n))))

/-- R254, R273 to R275: ST, VST and VSTS enter one landing that writes, after 2 ticks, the bytes of their source in the scratchpad: the
low bytes of a scalar, a row, the elements in ascending order. A store before which a far access of its context that stands behind a refresh
is to reach its bytes waits for that, and is not covered (log entry 78). -/
def Obligations.NearStoresComplete : Prop :=
  (∀ (s : State) (p : Pr) (z : Sz) (a b : SSrc) (k : BitVec 24) (l : BitVec 17) (src ix : VSrc) (x : Ext), s.Goes p 1 →
    (let va := s.ss b + immVal k.toNat 24 x
     Near va (szBytes z) → s.storeAfter [(nearAt va, szBytes z)] = none →
     exec (.st p z a b k x) s = .next (s.landStore ((List.range (szBytes z)).map (fun i =>
       (nearAt va + i, (s.ss a).extractLsb' (8 * i) 8))))) ∧
    (let va := s.ss b + immVal l.toNat 17 x
     Near va 128 → vsTraps src s = [] → s.storeAfter [(nearAt va, 128)] = none → s.Clean (vsWords src 1024 s) →
     exec (.vst p src b l x) s = .next ((s.fixed (vsWords src 1024 s)).landStore ((List.range 128).map (fun i =>
       (nearAt va + i, (s.vs src).extractLsb' (8 * i) 8))))) ∧
    (let n := szBytes z
     let e := if z = .d then 16 else 32
     let ws := vsWords ix 1024 s ++ vsWords src 1024 s
     (∀ i, i < e → Near (s.elemVa b ix i) n) → vsTraps src s = [] → vsTraps ix s = [] → gatherWait z b ix s = none →
     s.storeAfter ((List.range e).map (fun i => (nearAt (s.elemVa b ix i), n))) = none → s.Clean ws →
     exec (.vsts p z src b ix) s = .next ((s.fixed ws).landStore ((List.range e).flatMap (fun i => (List.range n).map (fun j =>
       (nearAt (s.elemVa b ix i) + j, (s.vs src).extractLsb' (8 * (n * i + j)) 8))))))) ∧
  (∀ (s : State) (bs : List (Nat × Byte)), s.issue.k < s.cores.length →
    ∃ e, (s.landStore bs).ic.landing = s.ic.landing ++ [e] ∧ e.due = s.ic.regs.tick + 2 ∧ e.dst = .spad bs ∧ e.wait = none ∧ e.err = none ∧
      (s.landStore bs).ic.regs = s.ic.regs ∧ (s.landStore bs).mem = s.mem)

/-- R272 to R275, R254: the landing of a near store writes each of its bytes at its place of the core's own scratchpad, the last one
where places repeat, and every other byte of memory reads as before; no core, crew, cluster or register of the headframe die changes. -/
def Obligations.NearStoresLand : Prop :=
  ∀ (s : State) (k r : Nat) (bs : List (Nat × Byte)) (v : Row), s.MemOk →
    (∀ a, Tab.get (landDst s k r (.spad bs) v).mem a =
      match bs.reverse.find? (fun e => decide (spadBase k + e.1 = a)) with
      | some e => e.2
      | none => Tab.get s.mem a) ∧
    (landDst s k r (.spad bs) v).cores = s.cores ∧ (landDst s k r (.spad bs) v).crews = s.crews ∧
    (landDst s k r (.spad bs) v).clusters = s.clusters ∧ (landDst s k r (.spad bs) v).head = s.head ∧
    LandDst.rings (.spad bs) = false

/-- R20, R272: a near form whose place is outside the local window or misaligned takes the address trap with its address; a gather or
scatter names the address of its first element at fault. -/
def Obligations.NearFormsTrap : Prop :=
  ∀ (s : State) (p : Pr) (z : LdSz) (y : Sz) (sd : SDst) (a b : SSrc) (d : VDst) (src ix : VSrc) (k : BitVec 24) (l : BitVec 17) (x : Ext),
    s.Goes p 1 → vdTraps d s = [] → vsTraps src s = [] → vsTraps ix s = [] →
    s.Clean (vsWords src 1024 s) → s.Clean (vsWords ix 1024 s) → s.Clean (vsWords ix 1024 s ++ vsWords src 1024 s) →
    (let va := s.ss b + immVal k.toNat 24 x
     (¬ Near va (ldBytes z) → exec (.ld p z sd b k x) s = .next (s.traps .l .address va 0)) ∧
     (¬ Near va (szBytes y) → exec (.st p y a b k x) s = .next (s.traps .l .address va 0))) ∧
    (let va := s.ss b + immVal l.toNat 17 x
     ¬ Near va 128 →
       exec (.vld p d b l x) s = .next (s.traps .l .address va 0) ∧ exec (.vst p src b l x) s = .next (s.traps .l .address va 0)) ∧
    (∀ i, i < (if y = .d then 16 else 32) → (∀ j, j < i → Near (s.elemVa b ix j) (szBytes y)) → ¬ Near (s.elemVa b ix i) (szBytes y) →
       exec (.vldg p y d b ix) s = .next (s.traps .l .address (s.elemVa b ix i) 0) ∧
       exec (.vsts p y src b ix) s = .next (s.traps .l .address (s.elemVa b ix i) 0))

/-- R276, R277, R279 to R281: LDQ and VLDQ with room in qld, STF, VSTF, PFH and ATOM, at an aligned address of a class that R19 allows
and with nothing that they wait for (a full walk queue among it, R115), go out as far accesses bound to the parts of their extent; a load
appends an entry to qld, an atomic with a destination enters a landing 32 ticks on that waits for its value. That a store does not wait for
a refresh before it is the model's choice (log entry 52). -/
def Obligations.FarAccessesComplete : Prop :=
  ∀ (s : State) (p : Pr) (z : LdSz) (y : Sz) (a b c : SSrc) (src : VSrc) (d : SDst) (op : AOp) (dw : Bool) (k : BitVec 24) (l : BitVec 17)
    (x : Ext) (w : Bound),
    let push (t : State) (q : QKind) : State := t.modCtx s.issue.k s.issue.r (fun e => { e with qld := e.qld ++ [⟨s.nextId, q, none, none⟩] })
    s.Goes p 1 → s.WalksRoom →
    (let va := s.ss b + immVal k.toNat 24 x
     (s.ic.qld.length < 32 → va.toNat % ldBytes z = 0 → s.bind .load va (ldBytes z) = some w → s.halfWait s.issue.k w.half false = none →
       exec (.ldq p z b k x) s = .next (push (s.issues .load va (ldBytes z) 0 w.parts) (.scal z))) ∧
     (va.toNat % szBytes y = 0 → s.bind .store va (szBytes y) = some w → s.ic.pubs = [] → s.halfWait s.issue.k w.half true = none →
       s.icore.eng.logL.length < 64 →
       exec (.stf p y a b k x) s = .next (s.issues .store va (szBytes y) ((s.ss a).setWidth 1024) w.parts)) ∧
     (va.toNat < 0x00FF000000000000 → s.bind .prefetch va 1 = some w → (inHeap s.ic.xl va.toNat = true → wb s.ic.xl.hctl 1 = true) →
       exec (.pfh p b k x) s = .next (s.issues .prefetch va 1 0 w.parts)) ∧
     (0x00FF000000000000 ≤ va.toNat → (s.bind .scale va 1).isSome = true → exec (.pfh p b k x) s = .next s)) ∧
    (let va := s.ss b + immVal l.toNat 17 x
     (s.ic.qld.length < 32 → va.toNat % 8 = 0 → s.bind .load va 128 = some w → s.halfWait s.issue.k w.half false = none →
       exec (.vldq p b l x) s = .next (push (s.issues .load va 128 0 w.parts) .row)) ∧
     (va.toNat % 8 = 0 → s.bind .store va 128 = some w → s.ic.pubs = [] → s.halfWait s.issue.k w.half true = none →
       s.icore.eng.logL.length < 64 → vsTraps src s = [] → s.upsets = [] →
       exec (.vstf p src b l x) s = .next (s.issues .store va 128 (s.vs src) w.parts))) ∧
    (let va := s.ss a
     let n := if dw then 8 else 4
     let t := s.issues (.atom op dw (decide (d ≠ .off))) va n ((s.ss b).setWidth 1024 ||| ((s.ss c).setWidth 1024 <<< 64)) w.parts
     va.toNat % n = 0 → s.bind .atomic va n = some w → s.ic.pubs = [] → s.halfWait s.issue.k w.half true = none →
     ordsumFull op dw va s = false → (d = .off → s.icore.eng.logL.length < 64) →
       exec (.atom p op dw d a b c) s = .next (if d = .off then t else t.landWait .l (dstLand d) 32 s.nextId))

/-- R278, R405: POP of a queue whose head has arrived removes it and lands it one tick later: a scalar entry extended as its load names, a
row entry as it stands; an entry whose failure a record has named lands zero. R278, R405: a POP of an empty queue or of a head of the other
kind takes the illegal-state trap, and the first POP of a failed head traps with the cause of its failure. -/
def Obligations.PopsComplete : Prop :=
  (∀ (s : State) (p : Pr) (q : RQ) (sd : SDst) (d : VDst) (e : QEnt) (l : List QEnt), s.Goes p 1 → s.queue q = e :: l →
    (∀ z v, e.kind = .scal z → e.err = none → e.val = some v →
      exec (.pop p q (.inl sd)) s = .next ((s.popQueue q).land .l (dstLand sd) ((ldExt z (v.setWidth 64)).setWidth 1024) 1)) ∧
    (∀ v, e.kind = .row → e.err = none → e.val = some v → vdTraps d s = [] →
      exec (.pop p q (.inr d)) s = .next ((s.popQueue q).land .l (s.vd d 1024) v 1)) ∧
    (∀ x, e.err = some x → x.reported = true →
      (e.kind ≠ .row → exec (.pop p q (.inl sd)) s = .next ((s.popQueue q).land .l (dstLand sd) 0 1)) ∧
      (e.kind = .row → vdTraps d s = [] → exec (.pop p q (.inr d)) s = .next ((s.popQueue q).land .l (s.vd d 1024) 0 1))) ∧
    (s.popQueue q).issue = s.issue ∧ (s.issue.k < s.cores.length → (s.popQueue q).queue q = l)) ∧
  (∀ (s : State) (p : Pr) (q : RQ) (sd : SDst) (d : VDst) (e : QEnt) (l : List QEnt), s.Goes p 1 → vdTraps d s = [] →
    (s.queue q = [] → exec (.pop p q (.inl sd)) s = .next (s.traps .l .illegalState 0 0) ∧
      exec (.pop p q (.inr d)) s = .next (s.traps .l .illegalState 0 0)) ∧
    (s.queue q = e :: l → e.err = none →
      (e.kind = .row → exec (.pop p q (.inl sd)) s = .next (s.traps .l .illegalState 0 0)) ∧
      (e.kind ≠ .row → exec (.pop p q (.inr d)) s = .next (s.traps .l .illegalState 0 0))) ∧
    (∀ x, s.queue q = e :: l → e.err = some x → x.reported = false →
      (e.kind ≠ .row → exec (.pop p q (.inl sd)) s = .next (s.traps .l x.cause x.addr x.info)) ∧
      (e.kind = .row → exec (.pop p q (.inr d)) s = .next (s.traps .l x.cause x.addr x.info))))

/-- R91 to R95, R282: PUB begins a publish of the writes in flight (its near stores among them: log entry 11), REF a refresh behind the far reads in flight, PHASE a publish with a
refresh behind it, PBAR a publish after which the context waits at the barrier of its scope. None of them holds at issue. -/
def Obligations.SynchronisationsComplete : Prop :=
  ∀ (s : State) (p : Pr) (sc : Scope), s.Goes p 0 →
    let k := s.issue.k
    let r := s.issue.r
    let n := s.nextId
    let pubbed (m : Nat) (x : PubKind) : State :=
      ({ s with nextId := m } : State).modCtx k r (fun c => { c with pubs := c.pubs ++ [⟨n, x, sc, s.icore.covered⟩] })
    let reads := s.readsOf k s.ic.uid
    exec (.pub p sc) s = .next (pubbed (n + 1) .pub) ∧
    exec (.ref p sc) s = .next (({ s with nextId := n + 1 } : State).modCtx k r (fun c => { c with refs := c.refs ++ [⟨n, sc, reads⟩] })) ∧
    (k < s.cores.length →
      Gives (.phase p sc) s (fun t => t.ic.pubs = s.ic.pubs ++ [⟨n, .phase (n + 1), sc, s.icore.covered⟩] ∧
        t.ic.refs = s.ic.refs ++ [⟨n + 1, sc, reads ++ [n]⟩] ∧ t.nextId = n + 2 ∧ t.mem = s.mem ∧ t.ic.regs = s.ic.regs)) ∧
    exec (.pbar p sc) s = .next { pubbed (n + 1) .pbar with issue := { s.issue with park := some (.barrier sc) } }

/-- R283: the first issue of a WAITA, where the walk queue has room, sends its wait read and freezes the core; with the value back it goes
on and performs its refresh where its condition holds (at once: log entry 53), and parks with the record of R147, whose queue slot it reserves, where
it does not and V is one of s0 to s4. -/
def Obligations.WaitsComplete : Prop :=
  ∀ (s : State) (p : Pr) (sc : Scope) (cc : Wc) (a v : SSrc) (w : Bound), s.Goes p 0 → (s.ss a).toNat % 8 = 0 →
    s.bind .waitRead (s.ss a) 8 = some w → s.issue.k < s.cores.length → s.WalksRoom →
    let holds (x : Word) : Bool := match cc with
      | .eq => decide (x = s.ss v) | .ne => decide (x ≠ s.ss v) | .ge => decide ((s.ss v).toInt ≤ x.toInt)
      | .lt => decide (x.toInt < (s.ss v).toInt) | .geu => decide ((s.ss v).toNat ≤ x.toNat)
      | .ltu => decide (x.toNat < (s.ss v).toNat)
    (s.ic.waitRd = none →
      Gives (.waita p sc cc a v) s (fun t => t.issue.res = .waits .far ∧ t.ic.waitRd = some ⟨s.nextId, none, none⟩ ∧
        t.icore.cnt.frzFar = s.icore.cnt.frzFar + 1 ∧
        ∃ f, t.icore.far.getLast? = some f ∧ f.id = s.nextId ∧ f.kind = .waitRead ∧ f.va = s.ss a ∧ f.size = 8 ∧ f.parts = w.parts)) ∧
    (∀ id x, s.ic.waitRd = some ⟨id, some x, none⟩ → holds x = true →
      exec (.waita p sc cc a v) s = .next
        ((s.modCtx s.issue.k s.issue.r (fun c => { c with waitRd := none })).modCore s.issue.k (fun c => { c with snap := [] }))) ∧
    (∀ id x n q, s.ic.waitRd = some ⟨id, some x, none⟩ → holds x = false → v = .reg n → n.toNat ≤ 4 → suspBad s = false →
      s.suspSlot = some q → exec (.waita p sc cc a v) s = .next
        { (s.modCtx s.issue.k s.issue.r (fun c => { c with waitRd := none })).modCrew s.ic.crew (fun w => { w with
              reserved := if w.reserved.contains q then w.reserved else w.reserved ++ [q] }) with
            issue := { s.issue with park := some (.susp ⟨q, true, false, cc, sc, n.setWidth 3, s.ss a⟩) } }) ∧
    (∀ id x, s.ic.waitRd = some ⟨id, some x, none⟩ → holds x = false → suspBad s = false → s.suspSlot.isSome = true →
      (∀ n, v = .reg n → 4 < n.toNat) → exec (.waita p sc cc a v) s = .next (s.traps .l .illegalState 0 0))

/-! ### V slots -/

/-- R284, R286, R288, R289: VADD, VSUB, VMUL, VFMA and VFMS land, after the latency of their type, the sum, difference, product or product
and sum of every lane, rounded once or brought into the integer type, with the flags of all lanes (NX of a clamped infinity: log entry 13). -/
def Obligations.VectorArithmeticCompletes : Prop :=
  ∀ (s : State) (h : VH) (sat : Bool) (r : Rnd) (d : VDst) (a b : VSrc),
    let sum (x y : Sys2Proof.Machine.Num) : Sys2Proof.Machine.Num := x.add (decide (r = .rd)) y
    let rounded (ops : List Sys2Proof.Machine.Num) (v : Sys2Proof.Machine.Num) : Nat × Flags :=
      ((roundTo h.ty (Mode.ofRnd r) sat v).1,
       (roundTo h.ty (Mode.ofRnd r) sat v).2 ||| (if v.isNan = true ∧ ∀ x ∈ ops, x.isNan = false then flagNV else 0))
    let int (i : Nat) (z : VSrc) : Int := intOf h.ty (s.el h z i)
    let num (i : Nat) (z : VSrc) : Sys2Proof.Machine.Num := valueOf h.ty (s.el h z i)
    let dint (i : Nat) : Int := intOf h.ty (s.eld h d i)
    let dnum (i : Nat) : Sys2Proof.Machine.Num := valueOf h.ty (s.eld h d i)
    let late := if h.ty.isF = true then 3 else 2
    let later := if h.ty = .f32 then 4 else late
    (s.VReady h d [a, b] →
      s.VLands (.vadd h sat r d a b) h d [a, b] late (fun v f => LaneWise h v f (fun i =>
        if h.ty.isN = true then fitInt h.ty sat (int i a + int i b) else rounded [num i a, num i b] (sum (num i a) (num i b)))) ∧
      s.VLands (.vsub h sat r d a b) h d [a, b] late (fun v f => LaneWise h v f (fun i =>
        if h.ty.isN = true then fitInt h.ty sat (int i a - int i b) else rounded [num i a, num i b] (sum (num i a) (num i b).neg))) ∧
      s.VLands (.vmul h sat r d a b) h d [a, b] later (fun v f => LaneWise h v f (fun i =>
        if h.ty.isN = true then fitInt h.ty sat (int i a * int i b)
        else if h.ty = .lns6 then lnsMul r sat (s.el h a i) (s.el h b i)
        else rounded [num i a, num i b] ((num i a).mul (num i b))))) ∧
    (s.VReady h d ([a, b] ++ dstSrc d) →
      s.VLands (.vfma h sat r d a b) h d ([a, b] ++ dstSrc d) later (fun v f => LaneWise h v f (fun i =>
        if h.ty.isN = true then fitInt h.ty sat (int i a * int i b + dint i)
        else rounded [num i a, num i b, dnum i] (sum ((num i a).mul (num i b)) (dnum i)))) ∧
      s.VLands (.vfms h sat r d a b) h d ([a, b] ++ dstSrc d) later (fun v f => LaneWise h v f (fun i =>
        if h.ty.isN = true then fitInt h.ty sat (int i a * int i b - dint i)
        else rounded [num i a, num i b, dnum i] (sum ((num i a).mul (num i b)) (dnum i).neg))))

/-- R286, R290 to R292: VABS, VMIN, VMAX, VCLAMP, VRND (with no flag but NX: log entry 21), VCMP and VSEL, lane by lane. -/
def Obligations.VectorLanesComplete : Prop :=
  ∀ (s : State) (h : VH) (sat : Bool) (r : Rnd) (cc : Vc) (d : VDst) (a b : VSrc) (k : SSrc),
    let sz := h.ty.size
    let plain (g : Nat → Nat) : Nat → Nat × Flags := fun i => (g i, 0)
    let ea (i : Nat) := s.el h a i
    let eb (i : Nat) := s.el h b i
    let lo := (s.ss k).toNat % 2 ^ (8 * sz)
    let hi := (s.ss k).toNat / 2 ^ (8 * sz) % 2 ^ (8 * sz)
    (s.VReady h d [a] →
      s.VLands (.vabs h sat d a) h d [a] 2 (fun v f => LaneWise h v f (fun i => laneAbs h.ty sat (ea i))) ∧
      s.VLands (.vclamp h d a k) h d [a] 2 (fun v f => LaneWise h v f (plain (fun i => laneClamp h.ty lo hi (ea i)))) ∧
      s.VLands (.vrnd h r d a) h d [a] (if h.ty.isF = true then 3 else 2) (fun v f => LaneWise h v f (fun i => laneRnd h.ty r (ea i)))) ∧
    (s.VReady h d [a, b] →
      s.VLands (.vmin h d a b) h d [a, b] 2 (fun v f => LaneWise h v f (plain (fun i => laneMinMax false h.ty (ea i) (eb i)))) ∧
      s.VLands (.vmax h d a b) h d [a, b] 2 (fun v f => LaneWise h v f (plain (fun i => laneMinMax true h.ty (ea i) (eb i)))) ∧
      s.VLands (.vcmp h cc d a b) h d [a, b] 2 (fun v f => LaneWise h v f (plain (fun i =>
        if vcHolds cc h.ty (ea i) (eb i) = true then 2 ^ (8 * sz) - 1 else 0)))) ∧
    (s.VReady h d ([a, b] ++ dstSrc d) →
      s.VLands (.vsel h d a b) h d ([a, b] ++ dstSrc d) 2 (fun v f => LaneWise h v f (plain (fun i =>
        if (s.eld h d i).testBit (8 * sz - 1) = true then ea i else eb i))))

/-- R288, R290, R299: integer lanes are exact. Without SAT the results of VADD, VSUB, VMUL, VFMA, VFMS and VABS are the exact results modulo
the type's range and set no flag; with SAT they are the exact results clamped to the range, and the flag SAT says whether they were. -/
def Obligations.IntegerLanesAreExact : Prop :=
  ∀ (ty : Ty) (r : Rnd) (x y z : Nat), ty.isN = true →
    let w := 8 * ty.size
    let a := intOf ty x
    let b := intOf ty y
    let c := intOf ty z
    let lo : Int := if ty.isSigned = true then -(2 ^ (w - 1)) else 0
    let hi : Int := if ty.isSigned = true then 2 ^ (w - 1) - 1 else 2 ^ w - 1
    let wraps (v : Nat × Flags) (e : Int) : Prop := v.1 < 2 ^ w ∧ (2 ^ w : Int) ∣ intOf ty v.1 - e ∧ lo ≤ intOf ty v.1 ∧ intOf ty v.1 ≤ hi ∧ v.2 = 0
    let clamps (v : Nat × Flags) (e : Int) : Prop :=
      v.1 < 2 ^ w ∧ intOf ty v.1 = max lo (min hi e) ∧ v.2 = if lo ≤ e ∧ e ≤ hi then 0 else flagSAT
    (wraps (laneAdd ty r false x y) (a + b) ∧ clamps (laneAdd ty r true x y) (a + b)) ∧
    (wraps (laneSub ty r false x y) (a - b) ∧ clamps (laneSub ty r true x y) (a - b)) ∧
    (wraps (laneMul ty r false x y) (a * b) ∧ clamps (laneMul ty r true x y) (a * b)) ∧
    (wraps (laneFma false ty r false x y z) (a * b + c) ∧ clamps (laneFma false ty r true x y z) (a * b + c)) ∧
    (wraps (laneFma true ty r false x y z) (a * b - c) ∧ clamps (laneFma true ty r true x y z) (a * b - c)) ∧
    (wraps (laneAbs ty false x) |a| ∧ clamps (laneAbs ty true x) |a|)

/-- R286, R293, R294: VAND, VOR and VXOR bit by bit, VSHL, VSHR and VSRA by the second operand modulo the element's width, the last with
copies of the top bit for every type, and VCLMUL and VCLMULH as CLMUL and CLMULH. R286, R296 to R298: VBCST in both forms, VMOV, VEXTS,
VINSS, and VXCH, which receives what the partner's same slot sends under the same offset, and zero where it sends nothing. -/
def Obligations.VectorLogicAndMovesComplete : Prop :=
  (∀ (s : State) (h : VH) (d : VDst) (a b : VSrc), s.VReady h d [a, b] →
    let w := 8 * h.ty.size
    let x (j : Nat) := (s.vs a).getLsbD j
    let y (j : Nat) := (s.vs b).getLsbD j
    let c (i : Nat) := s.el h b i % w
    let bits (g : Nat → Bool) (v : Row) (f : Flags) : Prop := f = 0 ∧ ∀ j, j < h.w.bits → v.getLsbD j = g j
    s.VLands (.vand h d a b) h d [a, b] 2 (bits (fun j => x j && y j)) ∧
    s.VLands (.vor h d a b) h d [a, b] 2 (bits (fun j => x j || y j)) ∧
    s.VLands (.vxor h d a b) h d [a, b] 2 (bits (fun j => x j != y j)) ∧
    s.VLands (.vshl h d a b) h d [a, b] 2 (bits (fun j => decide (c (j / w) ≤ j % w) && x (j - c (j / w)))) ∧
    s.VLands (.vshr h d a b) h d [a, b] 2 (bits (fun j => decide (j % w + c (j / w) < w) && x (j + c (j / w)))) ∧
    s.VLands (.vsra h d a b) h d [a, b] 2 (bits (fun j => if j % w + c (j / w) < w then x (j + c (j / w)) else x (j / w * w + w - 1))) ∧
    (h.ty = .b64 →
      s.VLands (.vclmul h d a b) h d [a, b] 3 (bits (fun j =>
        clBit (BitVec.ofNat 64 (s.el h a (j / 64))) (BitVec.ofNat 64 (s.el h b (j / 64))) (j % 64))) ∧
      s.VLands (.vclmulh h d a b) h d [a, b] 3 (bits (fun j =>
        clBit (BitVec.ofNat 64 (s.el h a (j / 64))) (BitVec.ofNat 64 (s.el h b (j / 64))) (64 + j % 64))))) ∧
  (∀ (s : State) (h : VH) (d : VDst) (sd : SDst) (a : VSrc) (k y : SSrc) (m : BitVec 13) (x : Ext) (o : BitVec 2) (f : Fuse),
    let n := lanes h
    let w := 8 * h.ty.size
    let same (g : Nat → Nat) : Row → Flags → Prop := fun v f => LaneWise h v f (fun i => (g i, 0))
    (s.VReady h d [] →
      s.VLands (.vbcst h d (.scalar k)) h d [] 2 (same (fun _ => (s.ss k).toNat)) ∧
      s.VLands (.vbcst h d (.imm m x)) h d [] 2 (same (fun _ => (immVal m.toNat 13 x).toNat))) ∧
    (s.VReady h d [a] → s.VLands (.vmov h d a) h d [a] 2 (fun v f => f = 0 ∧ ∀ j, j < h.w.bits → v.getLsbD j = (s.vs a).getLsbD j)) ∧
    (s.Goes h.p 1 → vsTraps a s = [] → s.Clean (vsWords a h.w.bits s) →
      let e := s.el h a ((s.ss k).toNat % n)
      let v : Word := if h.ty.isSigned = true ∧ e.testBit (w - 1) = true then BitVec.ofInt 64 ((e : Int) - 2 ^ w) else BitVec.ofNat 64 e
      exec (.vexts h sd a k) s = .next ((s.fixed (vsWords a h.w.bits s)).land (vslot h) (dstLand sd) (v.setWidth 1024) 2)) ∧
    (s.VReady h d (dstSrc d) →
      s.VLands (.vinss h d y k) h d (dstSrc d) 2 (same (fun i => if i = (s.ss k).toNat % n then (s.ss y).toNat else s.eld h d i))) ∧
    (s.VReady h d [a] → s.icore.fuse = some f → f.dec = false → o.toNat < (if f.quad then 4 else 2) →
      let p := partner f.quad s.issue.k o.toNat
      let t := s.facing p (s.residentOf p)
      let together : Prop := p ∈ s.groupOf s.issue.k ∧ (s.ctx p (s.residentOf p)).mode = .running
      s.VLands (.vxch h o d a) h d [a] 4 (fun v g => g = 0 ∧
        (together → ∀ u q b, t.nextIn p (s.residentOf p) (vslot h) = some (.vxch u o q b) → t.enabled u.p = true →
          ∀ j, j < h.w.bits → v.getLsbD j = (decide (j < u.w.bits) && (t.vs b).getLsbD j)) ∧
        ((¬ together ∨ ∀ u q b, t.nextIn p (s.residentOf p) (vslot h) = some (.vxch u o q b) → t.enabled u.p = false) → v = 0))))

/-- R295: VPERM in its eight kinds, lane by lane, after two ticks. -/
def Obligations.PermutationsComplete : Prop :=
  ∀ (s : State) (h : VH) (d : VDst) (a b : VSrc) (k : SSrc),
    let n := lanes h
    let ea (i : Nat) := s.el h a i
    let eb (i : Nat) := s.el h b i
    let x := (s.ss k).toNat
    let lands (p : Perm) (srcs : List VSrc) (g : Nat → Nat) : Prop :=
      s.VLands (.vperm h p d a) h d srcs 2 (fun v f => LaneWise h v f (fun i => (g i, 0)))
    (s.VReady h d [a, b] →
      lands (.idx b) [a, b] (fun i => ea (eb i % n)) ∧
      lands (.ziplo b) [a, b] (fun i => if i % 2 = 0 then ea (i / 2) else eb (i / 2)) ∧
      lands (.ziphi b) [a, b] (fun i => if i % 2 = 0 then ea (n / 2 + i / 2) else eb (n / 2 + i / 2)) ∧
      lands (.even b) [a, b] (fun i => if i < n / 2 then ea (2 * i) else eb (2 * (i - n / 2))) ∧
      lands (.odd b) [a, b] (fun i => if i < n / 2 then ea (2 * i + 1) else eb (2 * (i - n / 2) + 1))) ∧
    (s.VReady h d [a] →
      lands .rev [a] (fun i => ea (n - 1 - i)) ∧
      lands (.down k) [a] (fun i => if i + x < n then ea (i + x) else 0) ∧
      lands (.up k) [a] (fun i => if x ≤ i then ea (i - x) else 0))

/-- R286, R299 to R301: VREDSUM of integer types lands the exact sum, wrapped or clamped into 32 bits, in cell 0 with zeros above; of
floating types the FP32 sum of the pairwise tree; VREDMAX and VREDMIN the winner of the tree in element 0; VSCAN the running
values, of which a NaN that it passes on as the first is the default NaN (R235). -/
def Obligations.ReductionsComplete : Prop :=
  ∀ (s : State) (h : VH) (sat : Bool) (r : Rnd) (d : VDst) (a : VSrc), s.VReady h d [a] →
    let es := (List.range (lanes h)).map (fun i => s.el h a i)
    let one (x : Nat × Flags) (v : Row) (f : Flags) : Prop := v.toNat = x.1 ∧ f = x.2
    let op (ks : ScanK) (x y : Nat) : Nat × Flags :=
      match ks with
      | .incl | .excl => laneAdd h.ty r sat x y
      | .max => (laneMinMax true h.ty x y, 0)
      | .min => (laneMinMax false h.ty x y, 0)
    let starts (ks : ScanK) : Nat :=
      match ks with
      | .excl => 0
      | _ => if (valueOf h.ty (s.el h a 0)).isNan then defaultNan h.ty else s.el h a 0
    let next (ks : ScanK) (i : Nat) : Nat :=
      match ks with
      | .excl => s.el h a i
      | _ => s.el h a (i + 1)
    (h.ty.isN = true →
      s.VLands (.vredsum h sat r d a) h d [a] 5 (one (fitInt (if h.ty.isSigned = true then .i32 else .n32) sat ((es.map (intOf h.ty)).sum)))) ∧
    (h.ty.isF = true →
      s.VLands (.vredsum h sat r d a) h d [a] 5 (one (treeFl (laneAdd .f32 r false) (Nat.log2 (lanes h)) (es.map (fun c => roundNE32 (valueOf h.ty c)))))) ∧
    (h.ty.isN = true ∨ h.ty.isF = true ∨ h.ty = .lns6 →
      s.VLands (.vredmax h d a) h d [a] 3 (one (treeFl (fun x y => (laneMinMax true h.ty x y, 0)) (Nat.log2 (lanes h)) es)) ∧
      s.VLands (.vredmin h d a) h d [a] 3 (one (treeFl (fun x y => (laneMinMax false h.ty x y, 0)) (Nat.log2 (lanes h)) es))) ∧
    (h.ty.isN = true ∨ h.ty = .f32 → ∀ ks,
      s.VLands (.vscan h sat r ks d a) h d [a] 5 (fun v _ => elt h.ty.size v 0 = starts ks ∧
        ∀ i, i + 1 < lanes h → elt h.ty.size v (i + 1) = (op ks (elt h.ty.size v i) (next ks i)).1))

/-- R286, R302: the nine special functions land, after eight ticks, their value of every lane. -/
def Obligations.SpecialFunctionsComplete : Prop :=
  ∀ (s : State) (h : VH) (g : Fmt) (r : Rnd) (d : VDst) (a : VSrc), s.VReady h d [a] → h.ty.isSpecial = true → fmtOf h.ty = some g →
    let lands (i : Instr) (q : Nat → Nat × Flags) : Prop := s.VLands i h d [a] 8 (fun v f => LaneWise h v f (fun j => q (s.el h a j)))
    lands (.vexp2 h d a) (spExp2 g) ∧ lands (.vlog2 h d a) (spLog2 g) ∧ lands (.vrcp h r d a) (spRcp g (Mode.ofRnd r)) ∧
    lands (.vrsq h d a) (spRsq g) ∧ lands (.vsqrt h r d a) (spSqrt g (Mode.ofRnd r)) ∧ lands (.vsin h d a) (spSin 0 g) ∧
    lands (.vcos h d a) (spSin 1 g) ∧ lands (.vtanh h d a) (spTanh g) ∧ lands (.vsigm h d a) (spSigm g)

/-- R303: the special inputs of the special functions give the results and the flags of its table, in FP32, BF16 and FP16, and a NaN gives
the default NaN in every function. inf, zero and one are codes; m is a sign. -/
def Obligations.SpecialInputsGiveTheTable : Prop :=
  ∀ (g : Fmt) (md : Mode) (c : Nat), g = Fmt.f32 ∨ g = Fmt.bf16 ∨ g = Fmt.f16 → c < 2 * g.signBit →
    let minus := g.signBit
    let inf := g.infCode
    let nan := g.nanCode
    let one := g.bias * 2 ^ g.fbits
    let mag := c % g.signBit
    (inf < mag → spExp2 g c = (nan, 0) ∧ spLog2 g c = (nan, 0) ∧ spRcp g md c = (nan, 0) ∧ spRsq g c = (nan, 0) ∧ spSqrt g md c = (nan, 0) ∧
      spSin 0 g c = (nan, 0) ∧ spSin 1 g c = (nan, 0) ∧ spTanh g c = (nan, 0) ∧ spSigm g c = (nan, 0)) ∧
    (spExp2 g (minus + inf) = (0, 0) ∧ spExp2 g inf = (inf, 0) ∧
      ∀ n d, floatValue g c = .fin false n d → (g.bias + 1) * d ≤ n → spExp2 g c = (inf, flagOF ||| flagNX)) ∧
    (spLog2 g 0 = (minus + inf, flagDZ) ∧ spLog2 g minus = (minus + inf, flagDZ) ∧ spLog2 g inf = (inf, 0) ∧
      (minus < c → mag ≤ inf → spLog2 g c = (nan, flagNV))) ∧
    (spRcp g md 0 = (inf, flagDZ) ∧ spRcp g md minus = (minus + inf, flagDZ) ∧ spRcp g md inf = (0, 0) ∧ spRcp g md (minus + inf) = (minus, 0)) ∧
    (spRsq g 0 = (inf, flagDZ) ∧ spRsq g minus = (minus + inf, flagDZ) ∧ (minus < c → mag ≤ inf → spRsq g c = (nan, flagNV))) ∧
    (spSqrt g md 0 = (0, 0) ∧ spSqrt g md minus = (minus, 0) ∧ spSqrt g md inf = (inf, 0) ∧
      (minus < c → mag ≤ inf → spSqrt g md c = (nan, flagNV))) ∧
    (∀ q, q = 0 ∨ q = 1 → spSin q g inf = (nan, flagRANGE) ∧ spSin q g (minus + inf) = (nan, flagRANGE) ∧
      ∀ b n d, floatValue g c = .fin b n d → 65536 * d < n → spSin q g c = (nan, flagRANGE)) ∧
    (spTanh g inf = (one, 0) ∧ spTanh g (minus + inf) = (minus + one, 0)) ∧
    (spSigm g (minus + inf) = (0, 0) ∧ spSigm g inf = (one, 0))

/-- R48, R304, R305: ACCRD rounds the 32 FP32 elements of a quarter row into its type and lands them after three ticks; ACCWR lands the
32 elements of its source in the quarter row, converted to FP32; both need the token with the V slots. NX of a clamped infinity is log
entry 13. -/
def Obligations.AccumulatorRowsComplete : Prop :=
  ∀ (s : State) (h : VH) (sat : Bool) (r : Rnd) (d : VDst) (a : VSrc) (x : AccRef), h.ty.isF = true → h.w.bits = 32 * 8 * h.ty.size →
    s.Goes h.p 1 → s.accBad x.a = false → s.ic.regs.tok.getLsbD x.a.toNat = true → s.issue.k < s.cores.length →
    let q := s.physAcc x.a.toNat * 512 + x.row.toNat * 4 + x.q.toNat
    let row := Tab.get s.icore.acc q
    (vdTraps d s = [] → s.Clean (accWords s.issue.k q) →
      Gives (.accrd h sat r d x) s (fun t => ∃ v f, LaneWise h v f (fun i => roundTo h.ty (Mode.ofRnd r) sat (floatValue .f32 (elt 4 row i))) ∧
        t.ic.landing = s.ic.landing ++ [{ due := s.ic.regs.tick + 3, slot := vslot h, dst := s.vd d h.w.bits, val := v, fl := f,
                                          wait := none, tileWord := false, err := none, accOf := some (q / 512),
                                          born := 2 * s.icore.cycles + (if s.issue.second then 1 else 0),
                                          place := freePlace s.ic.landing }] ∧
        t.ic.regs = s.ic.regs ∧ t.mem = s.mem ∧ t.icore.acc = s.icore.acc)) ∧
    (vsTraps a s = [] → s.Clean (vsWords a h.w.bits s) →
      ∃ v, exec (.accwr h x a) s = .next ((s.fixed (vsWords a h.w.bits s)).land (vslot h) (.acc q) v 3) ∧
        ∀ i, i < 32 → elt 4 v i = roundNE32 (valueOf h.ty (s.el h a i)))

/-! ### X slot -/

/-- R308 to R314: XEXP takes the oldest row of the decoder FIFO, XTRN8 and XTRN16 transpose or transpose back, XCVT converts every element
with one rounding, under the draws of the queue's head word in stochastic mode, XPKS packs under the scale it chooses and lands that
scale too, XUPK applies a scale, XRNG lands the hashes of the head word. NX of a clamped infinity is log entry 13. -/
def Obligations.TransformsComplete : Prop :=
  ∀ (s : State) (p : Pr) (d : VDst) (a : VSrc) (inv : Bool) (st dt : Ty) (m : CvtMode) (ty : PkTy) (n : BitVec 3) (j : BitVec 5),
    s.Goes p 2 → vdTraps d s = [] → vsTraps a s = [] → s.Clean (vsWords a 1024 s) → s.issue.k < s.cores.length →
    let x := s.vs a
    let w := s.ic.regs.rq.headD 0
    let t := s.fixed (vsWords a 1024 s)
    let hash (e : Nat) : BitVec 32 := (w + BitVec.ofNat 32 e * 0x9E3779B9) * 0x85EBCA6B
    let takes (u : State) : State := u.modCtx s.issue.k s.issue.r (fun c => { c with regs := { c.regs with
      rng := rngStep c.regs.rng, rq := c.regs.rq.drop 1 ++ [(rngStep c.regs.rng).extractLsb' 32 32] } })
    (∀ v l, s.icore.eng.fifo = .row v :: l → s.Clean (fifoWords s) →
      exec (.xexp p d) s = .next (((s.fixed (fifoWords s)).modEng s.issue.k (fun e => { e with fifo := l })).land .x (s.vd d 1024) v 2)) ∧
    (∃ v, exec (.xtrn8 p inv d a) s = .next (t.landF .x (s.vd d 1024) v 4 0) ∧
      ∀ e c, e < 32 → c < 4 → if inv = true then elt 1 v (4 * e + c) = elt 1 x (32 * c + e) else elt 1 v (32 * c + e) = elt 1 x (4 * e + c)) ∧
    (∃ v, exec (.xtrn16 p inv d a) s = .next (t.landF .x (s.vd d 1024) v 4 0) ∧
      ∀ e c, e < 32 → c < 2 → if inv = true then elt 2 v (2 * e + c) = elt 2 x (32 * c + e) else elt 2 v (32 * c + e) = elt 2 x (2 * e + c)) ∧
    (st ≠ .b64 → dt ≠ .b64 →
      let lanes := 128 / max st.size dt.size
      let mode (i : Nat) : Mode := match m with
        | .ne => .ne | .rz => .rz | .rd => .rd
        | .sr => .sr ((hash i).toNat / 2 ^ 16)
      let u := if m = .sr then takes t else t
      let lands (i : Instr) (sat : Bool) : Prop := ∃ v f, exec i s = .next (u.landF .x (s.vd d (8 * dt.size * lanes)) v 3 f) ∧
        (∀ i, i < lanes → elt dt.size v i = (convert st dt (mode i) sat (elt st.size x i)).1) ∧
        f = (List.range lanes).foldl (fun y i => y ||| (convert st dt (mode i) sat (elt st.size x i)).2) 0
      lands (.xcvt p st dt m d a) false ∧ lands (.xcvtSat p st dt m d a) true) ∧
    (∃ v f, exec (.xpks p ty n j d a) s =
        .next ((t.landF .x (s.vd d 256) v 5 f).land .x (.scaleEl n j) (BitVec.ofNat 1024 (packScaled ty x).1) 5) ∧
      ∀ i, i < 32 → elt 1 v i =
        (roundTo (pkTy ty) .ne true ((floatValue .f32 (elt 4 x i)).div (ue8m8Value (packScaled ty x).1))).1) ∧
    (∃ v f, exec (.xupk p ty n j d a) s = .next (t.landF .x (s.vd d 1024) v 4 f) ∧
      ∀ i, i < 32 → elt 4 v i = (roundTo .f32 .ne false (applyScale (s.scaleAt n j.toNat) (valueOf (pkTy ty) (elt 1 x i)))).1) ∧
    (∃ v, exec (.xrng p d) s = .next ((takes s).landF .x (s.vd d 1024) v 2 0) ∧ ∀ e, e < 32 → elt 4 v e = (hash e).toNat)

/-- R312: the scale that XPKS chooses is 1.0 for a row without a finite nonzero element, and else the least code from 0x0100 to 0xFEFF whose
value times the type's greatest magnitude reaches the row's greatest finite magnitude, or 0xFEFF where none does. The row's greatest finite
magnitude is written out over its 32 FP32 elements, in units of 2^-149. -/
def Obligations.PackScaleIsTheLeast : Prop :=
  (∀ (ty : PkTy) (x : Row),
    let mag (c : Nat) : Nat :=
      if c / 2 ^ 23 % 256 = 255 then 0
      else if c / 2 ^ 23 % 256 = 0 then c % 2 ^ 23
      else (2 ^ 23 + c % 2 ^ 23) * 2 ^ (c / 2 ^ 23 % 256 - 1)
    let great : Nat := ((List.range 32).map (fun i => mag (elt 4 x i))).foldl max 0
    ∃ n d, 0 < d ∧ n * 2 ^ 149 = great * d ∧ (packScaled ty x).1 = pickScale ty n d) ∧
  ∀ (ty : PkTy) (n d : Nat), 0 < d →
    let u (c : Nat) : Nat := (256 + c % 256) * (if 135 ≤ c / 256 then 2 ^ (c / 256 - 135) else 1)
    let v (c : Nat) : Nat := if 135 ≤ c / 256 then 1 else 2 ^ (135 - c / 256)
    let reaches (c : Nat) : Prop := match ty with
      | .e4m3 => n * v c ≤ u c * 448 * d
      | .e5m2 => n * v c ≤ u c * 57344 * d
      | .i8 => n * v c ≤ u c * 127 * d
      | .lns6 => (n * v c) ^ 4 ≤ (u c * d) ^ 4 * 2 ^ 15
    (n = 0 → pickScale ty n d = 0x7F00) ∧
    (0 < n → 0x100 ≤ pickScale ty n d ∧ pickScale ty n d ≤ 0xFEFF ∧
      (reaches (pickScale ty n d) ∨ pickScale ty n d = 0xFEFF) ∧ ∀ c, 0x100 ≤ c → c < pickScale ty n d → ¬ reaches c)

/-! ### M slot -/

/-- R317, R321, R322, R325, R326, R336, R339 to R343: the M slot, where its instruction is legal and mx has room. MCFG, ACCTK, ACCGV and
ASCFG without CLR ask the end of the bundle for their effect, MSETP lands a parameter one tick later, and the others enter mx with what
they sample at the tick of issue (what MCALL samples for a user routine is log entry 30). -/
def Obligations.MatrixInstructionsComplete : Prop :=
  ∀ (s : State) (p : Pr) (rt : BitVec 8) (np : BitVec 3) (acc cen : BitVec 2) (a b : SSrc) (m : BitVec 26) (x : Ext) (ta tb : Ty)
    (tab rot : Bool) (t : BitVec 4) (k7 : BitVec 7), s.Goes p 1 → s.issue.k < s.cores.length →
    let room := s.icore.eng.mx.length < 8
    let withM (q : BitVec 2) : Prop := s.accBad q = false ∧ s.tokV q = false
    let places := if wb s.icore.ascfg 3 then 0 else (s.ss b).toNat
    (s.icore.eng.mx = [] → s.icore.tokensOut = false →
      exec (.mcfg p ta tb) s = .next { s with issue := { s.issue with cfg := some (ta, tb) } }) ∧
    (s.accBad acc = false → s.tokV acc = true → s.ic.vPending (s.physAcc acc.toNat) = false →
      exec (.acctk p acc) s = .next { s with issue := { s.issue with toks := s.issue.toks ++ [(acc, false)] } }) ∧
    (withM acc → (∀ e ∈ s.icore.eng.mx, s.physAcc acc.toNat ∉ mxNames e) →
      exec (.accgv p acc) s = .next { s with issue := { s.issue with toks := s.issue.toks ++ [(acc, true)] } }) ∧
    exec (.msetp p np (.scalar a)) s = .next (s.land .m (.mp np) ((s.ss a).setWidth 1024) 1) ∧
    exec (.msetp p np (.imm m x)) s = .next (s.land .m (.mp np) ((immVal m.toNat 26 x).setWidth 1024) 1) ∧
    (bf (s.ss a) 63 32 = 0 → bf (s.ss a) 15 5 = 0 →
      (wb (s.ss a) 4 = false → exec (.ascfg p a) s = .next { s with issue := { s.issue with asc := some (s.ss a) } }) ∧
      (wb (s.ss a) 4 = true → room → Gives (.ascfg p a) s (fun u => s.MxGets u .ascfgClr 0 0 ∧ u.issue.asc = some (s.ss a)))) ∧
    (room → withM acc → Gives (.accz p acc) s (fun u => s.MxGets u .accz acc 0)) ∧
    (room → Gives (.mstw p tab a b) s (fun u => s.MxGets u (.mstw tab (s.ss a) (s.ss b)) 0 0)) ∧
    (room → withM acc → 0 < (s.ss b).toNat → (s.ss a).toNat + (s.ss b).toNat ≤ 128 → s.ic.qas.length + places ≤ 128 →
      Gives (.asdrn p acc a b k7) s (fun u => s.MxGets u (.asdrn (s.ss a).toNat (s.ss b).toNat (k7.toNat + 1)) acc places)) ∧
    (room → withM acc → 0 < (s.ss b).toNat → (s.ss b).toNat ≤ 128 → (s.icore.ta.size = 2 → k7.toNat + 1 ≤ 64) →
      s.rowTraps (strideRows (s.ss a) 128 (s.ss b).toNat) 128 = [] →
      Gives (.acupd p acc a b k7) s (fun u => s.MxGets u (.acupd (s.ss a) (s.ss b).toNat (k7.toNat + 1)) acc 0)) ∧
    (room → withM acc → withM cen →
      Gives (.acfin p acc cen k7) s (fun u => s.MxGets u (.acfin cen.toNat (k7.toNat + 1)) acc 0)) ∧
    (room → (s.icore.eng.mx.filter (·.isCall)).length < 2 → mcallTraps rt.toNat acc a rot t s = [] → s.Clean (mcallReads rt.toNat rot t s) →
      Gives (.mcall p rt acc a rot t) s (fun u => ∃ bt xt mt push st len,
        s.MxGets u (.routine rt.toNat s.params (s.ss a) bt xt mt push st len) acc (if push then 1 else 0) ∧
        push = (decide (rt = 5#8) || (decide (16 ≤ rt.toNat) && wb (Tab.get s.icore.mtab rt.toNat) 25)) ∧
        (rt ≠ 4#8 → rt ≠ 5#8 → ∀ j i, j < 4 → i < 32 → bt.getD (32 * j + i) 0 =
          Tab.get s.icore.tiles (s.physTile (((tileNo s.ic.regs rot t).getD 0) + j) * 32 + i))))

/-! ### E slot -/

/-- R345, R348, R355, R356, R360, R361, R368, R369: CPY, CPYM, SIG and XMETA append one entry to their queue, QFEN one to each queue that it
names, all of one number; NXT takes the word of R182 from the tile queue and lands it after 6 ticks in the next of s28 to s31, WSWAP
arrives at the swap of its cluster, RNGS seeds the generator. -/
def Obligations.EngineInstructionsComplete : Prop :=
  ∀ (s : State) (p : Pr) (q : BitVec 2) (a b c : SSrc) (sc : Scope) (add loc : Bool) (m : BitVec 4), s.Goes p 1 → s.issue.k < s.cores.length →
    let room := (s.icore.eng.ce q.toNat).length < 16
    let g := s.record (s.ss a)
    let n := (s.ss b).toNat
    let cl := clusterOf s.issue.k
    (room → copyTraps false a s = [] → s.upsets = [] → s.ic.refs = [] → copyViewWait a s = none → Gives (.cpy p q a) s (fun t => s.CeGets t q.toNat (.copy false g))) ∧
    (room → copyTraps true a s = [] → s.upsets = [] → s.ic.refs = [] → copyViewWait a s = none → Gives (.cpym p q a) s (fun t => s.CeGets t q.toNat (.copy true g))) ∧
    (room → (s.ss a).toNat % 8 = 0 → (s.bind (if add then .sigAdd else .sigWrite) (s.ss a) 8).isSome = true →
      Gives (.sig p q a b sc add) s (fun t => s.CeGets t q.toNat (.sig (s.ss a) (s.ss b) sc add))) ∧
    (room → 2 ≤ n → n ≤ 2 ^ 31 - 1 → (s.ss c).toNat % 4 = 0 → (s.bind .copySrc (s.ss a) n).isSome = true →
      (s.bind .copyDst (s.ss c) (4 * (n / 34 + 1))).isSome = true →
      s.viewWait (s.rowViews .copySrc (s.ss a).toNat 0 1 [0] ++ s.rowViews .copyDst (s.ss c).toNat 0 1 [0]) false = none →
      Gives (.xmeta p q a b c) s (fun t => s.CeGets t q.toNat (.xmeta (s.ss a) (s.ss b) (s.ss c)))) ∧
    ((∀ i, i < 4 → m.getLsbD i = true → (s.icore.eng.ce i).length < 16) →
      Gives (.qfen p m) s (fun t => t.nextId = s.nextId + 1 ∧ t.mem = s.mem ∧ t.ic.regs = s.ic.regs ∧ ∀ i, i < 4 →
        if m.getLsbD i = true then ∃ e, t.icore.eng.ce i = s.icore.eng.ce i ++ [e] ∧ e.id = s.nextId ∧ e.kind = .fence m
        else t.icore.eng.ce i = s.icore.eng.ce i)) ∧
    Gives (.nxt p) s (fun t =>
      t.ic.regs = { s.ic.regs with nxp := s.ic.regs.nxp + 1 } ∧ t.mem = s.mem ∧
      t.ic.landing = s.ic.landing ++ [{ due := s.ic.regs.tick + 6, slot := .e, dst := .scal (28#5 + s.ic.regs.nxp.setWidth 5),
                                        val := s.nxtWord.setWidth 1024, fl := 0, wait := none, tileWord := true, err := none,
                                        born := 2 * s.icore.cycles + (if s.issue.second then 1 else 0),
                                        place := freePlace s.ic.landing }] ∧
      (s.seqDie s.ic.crew = none → t.icore.eng.tileq = s.icore.eng.tileq ∧ s.nxtWord = nullWord 0 3) ∧
      (∀ d, s.seqDie s.ic.crew = some d → (s.die d).seq.st ≠ .done → (s.die d).seq.st ≠ .stopped →
        t.icore.eng.tileq = s.icore.eng.tileq.drop 1 ∧ s.nxtWord = s.icore.eng.tileq.headD (nullWord (s.die d).seq.step 0))) ∧
    ((s.cluster cl).owner = s.ic.crew → s.icore.swapArr = false → (s.cluster cl).exp ≠ 0 → (s.cluster cl).exp.toNat ≤ 16 → cl < s.clusters.length →
      Gives (.wswap p) s (fun t => t.mem = s.mem ∧ t.ic.regs = s.ic.regs ∧
        if (s.cluster cl).arr + 1 = (s.cluster cl).exp then
          (t.cluster cl).act = !(s.cluster cl).act ∧ (t.cluster cl).epoch = (s.cluster cl).epoch + 1 ∧ (t.cluster cl).arr = 0 ∧
            (t.cluster cl).lost = false ∧ ∀ i, i < 16 → (t.core (cl * 16 + i)).swapArr = false
        else (t.cluster cl).act = (s.cluster cl).act ∧ (t.cluster cl).arr = (s.cluster cl).arr + 1 ∧ t.icore.swapArr = true)) ∧
    exec (.rngs p a b loc) s = .next (s.modCtx s.issue.k s.issue.r (fun e => { e with regs := { e.regs with
      rng := (rngSeed (s.ss a) (s.ss b) (if loc then BitVec.ofNat 64 s.origin.lcore else 0) (if loc then BitVec.ofNat 64 s.issue.r else 0)).1
      rq := (rngSeed (s.ss a) (s.ss b) (if loc then BitVec.ofNat 64 s.origin.lcore else 0) (if loc then BitVec.ofNat 64 s.issue.r else 0)).2 } }))

/-- R100, R357, R359, R362 to R366: SLD queues a stream bound to the half that is active, behind the core's far writes and side-log entries in
flight, and counts it against that half; SCLD lands 32 scales
after 12 ticks, from the scratchpad or from a far read; RLD, RST and RATOM, with a slot and a port of the package free and nothing that
they wait for, go out, a load or an atomic with a result with its entry of qrm; TDONE and PRBR enter sq. -/
def Obligations.StreamAndRemoteInstructionsComplete : Prop :=
  ∀ (s : State) (p : Pr) (a b c : SSrc) (r6 : BitVec 6) (n : BitVec 3) (z : RSz) (op : AOp) (dw res : Bool) (w : Bound) (i : Nat),
    s.Goes p 1 → s.issue.k < s.cores.length →
    let cl := clusterOf s.issue.k
    let h := if (s.cluster cl).act then 1 else 0
    let off := (s.ss a).toNat - 0x00FF000200000000
    let len := (s.ss b).toNat
    let pa := spadBase s.issue.k + nearAt (s.ss a)
    let row := spadBase s.issue.k + nearAt (s.ss b)
    let bytes := rszBytes z
    let pkg := bf (s.ss a) 63 52
    let behind := (s.icore.far.filter (fun x => farWrites x.kind)).map (·.id) ++ s.icore.eng.logL.map (·.id)
    let goesOut : Prop := (∀ r ∈ s.icore.eng.rm, r.sent.isSome = true) ∧ (rmTo s.icore.eng pkg).length < 8 ∧ pkg ≠ s.head.trsId.toNat ∧
      s.portFor s.issue.k pkg = some i ∧ (s.head.ports.getD i Port.reset).buf.length < 8192
    let reported (t : State) (v : Option Word) : Prop :=
      ∃ x, t.icore.eng.sq = s.icore.eng.sq ++ [x] ∧ x.id = s.nextId ∧ x.word = s.ss a ∧ x.val = v ∧ x.who = s.origin ∧
        t.mem = s.mem ∧ t.ic.regs = s.ic.regs
    (2 ≤ len → len ≤ 2 ^ 31 - 1 → (s.ss a).toNat % 2 = 0 → 0x00FF000200000000 ≤ (s.ss a).toNat → off + len ≤ 0xC000000 →
      (s.cluster cl).owner = s.ic.crew → (s.cluster cl).clr = false → s.icore.swapArr = false → s.icore.eng.sl.length < 4 → cl < s.clusters.length →
      Gives (.sld p a b r6) s (fun t =>
        t.icore.eng.sl = s.icore.eng.sl ++ [⟨s.nextId, s.origin, halfBase cl h + off, (cl, h), len, r6.toNat, 0, 0, behind⟩] ∧
        (t.cluster cl).reads0 = (s.cluster cl).reads0 + (1 - h) ∧ (t.cluster cl).reads1 = (s.cluster cl).reads1 + h ∧
        t.mem = s.mem ∧ t.ic.regs = s.ic.regs)) ∧
    ((s.ss a).toNat % 64 = 0 → s.bind .scale (s.ss a) 64 = some w → s.halfWait s.issue.k w.half false = none → s.WalksRoom →
      (winOf (s.ss a).toNat ≠ 1 →
        exec (.scld p n a) s = .next ((s.issues (.scale n) (s.ss a) 64 0 w.parts).landWait .e (.scale n) 12 s.nextId)) ∧
      (Near (s.ss a) 64 → s.ic.refs = [] → s.Clean (memLocs pa 64) → ∃ v,
        exec (.scld p n a) s = .next ((s.fixed (memLocs pa 64)).land .e (.scale n) v 12) ∧
          ∀ j, j < 1024 → v.getLsbD j = (decide (j < 512) && s.nearBit (nearAt (s.ss a)) j))) ∧
    (goesOut → s.ic.qrm.length < 32 → s.ic.refs = [] → (s.ss a).toNat % bytes = 0 →
      Gives (.rld p z a) s (fun t => s.RmGets t (s.ss a) (if z = .row then .loadRow else .load) bytes (some (rszKind z)) i)) ∧
    (goesOut → s.ic.pubs = [] → (s.ss a).toNat % bytes = 0 →
      (z ≠ .row → Gives (.rst p z a b) s (fun t => s.RmGets t (s.ss a) (.store (s.ss b)) bytes none i)) ∧
      (z = .row → Near (s.ss b) 128 → s.ic.refs = [] → s.Clean (memLocs row 128) → ∃ v, (∀ j, j < 1024 → v.getLsbD j = s.nearBit (nearAt (s.ss b)) j) ∧
        Gives (.rst p z a b) s (fun t => s.RmGets t (s.ss a) (.storeRow v) 128 none i))) ∧
    (goesOut → s.ic.pubs = [] → s.ic.refs = [] → s.ic.qrm.length < 32 → (s.ss a).toNat % (if dw then 8 else 4) = 0 →
      Gives (.ratom p op dw res a b c) s (fun t => s.RmGets t (s.ss a) (.atom op (s.ss b) (s.ss c)) (if dw then 8 else 4)
        (if res then some (.scal (if dw then .d else .ws)) else none) i)) ∧
    (s.icore.eng.sq.length < 16 → Gives (.tdone p a) s (fun t => reported t none) ∧ Gives (.prbr p a b) s (fun t => reported t (some (s.ss b))))

/-! ### Events of far accesses -/

/-- R59 to R61, R90, R97, R98, R119, R255, R280, R281, R283: a far access that is free, whole and in HBM4E, and meets no storage error,
is performed by its event. A load or a scale load brings its bytes to its entry of qld or to its landing; an atomic writes the result of
the table of R281 and delivers the old value, or, as fadd of a crew in exact mode, records its addend; a store writes its bytes and the
lines of the snapshot cache that hold them; a wait read returns; a prefetch brings its line into the snapshot cache. A wide access moves
whole here: no choice of its doublewords is left (R87; log entry 12). -/
def Obligations.FarEventsComplete : Prop :=
  ∀ (s : State) (k id pa n : Nat) (a : FarAcc) (p : Part) (op : AOp) (dw : Bool), k < s.cores.length → s.far? k id = some a → a.who.k = k →
    (s.ctx k a.who.r).uid = a.who.uid → s.farFree a = true → s.upsets = [] → s.moves = [] → a.got = 0 → s.MemOk → inHbm pa n = true →
    0 < n → n ≤ 128 →
    let c := s.ctx k a.who.r
    let brought (t : State) (v : Row) : Prop :=
      t.far? k id = none ∧
      (t.ctx k a.who.r).qld = c.qld.map (fun q => if q.id = id then { q with val := some v, err := none } else q) ∧
      (t.ctx k a.who.r).landing = c.landing.map (fun l => if l.wait = some id then { l with wait := none, val := v, err := none } else l)
    let bytes (v : Row) : Prop := ∀ j, j < 1024 → v.getLsbD j = (decide (j < 8 * n) && memBit s.mem pa j)
    let old : Word := BitVec.ofNat 64 (leNat (s.mem.read pa n))
    let b := a.data.extractLsb' 0 64
    let z := a.data.extractLsb' 64 64
    let cut (x : Word) : Word := if dw then x else (x.setWidth 32).setWidth 64
    let int (x : Word) : Int := if dw then x.toInt else (x.setWidth 32).toInt
    let new : Word := match op with
      | .add => old + b | .and => old &&& b | .or => old ||| b | .xor => old ^^^ b
      | .min => if int b < int old then b else old
      | .max => if int old < int b then b else old
      | .minu => if (cut b).toNat < old.toNat then b else old
      | .maxu => if old.toNat < (cut b).toNat then b else old
      | .swap => b
      | .cas => if old = cut z then b else old
      | .fadd => BitVec.ofNat 64 (f32Add old.toNat (cut b).toNat)
      | .fmax => BitVec.ofNat 64 (f32Max old.toNat (cut b).toNat)
    let size : Prop := n = (if dw then 8 else 4) ∧ (op = .fadd ∨ op = .fmax → dw = false)
    let sums := op = .fadd ∧ s.exact? a.who.crew = true
    let updated (t : State) : Prop := s.OnlyBytes t pa n ∧ BitVec.ofNat 64 (leNat (t.mem.read pa n)) = cut new
    let one : Prop := a.parts = [p] ∧ p.off = 0 ∧ p.flt = none ∧ s.pieces k 0 a.root (farAk a.kind) p = some [(pa, n)]
    let clear := logHits (s.core k).eng.logL a.root
    (s.farPieces a = some [(0, pa, n)] →
      (a.kind = .load ∨ (∃ m, a.kind = .scale m) → (s.core k).snap = [] →
        Gives (.farLoadComplete k id) s (fun t => ∃ v, bytes v ∧ brought t v ∧ t.mem = s.mem)) ∧
      (a.kind = .atom op dw true → size → ¬ sums → clear a.va.toNat a.size = false →
        Gives (.atomResultArrive k id) s (fun t => updated t ∧
          brought t ((if dw then old else (old.setWidth 32).signExtend 64).setWidth 1024))) ∧
      (a.kind = .waitRead → n = 8 → c.waitRd = some ⟨id, none, none⟩ →
        Gives (.waitReadReturn k a.who.r) s (fun t => (t.ctx k a.who.r).waitRd = some ⟨id, some old, none⟩ ∧ t.far? k id = none ∧ t.mem = s.mem)) ∧
      (a.kind = .prefetch →
        Gives (.prefetchLineFill k id) s (fun t => t.far? k id = none ∧ t.mem = s.mem ∧ ∃ v, snapLine (t.core k).snap (pa / 128) = some v ∧
          (snapLine (s.core k).snap (pa / 128) = none → ∀ j, j < 1024 → v.getLsbD j = memBit s.mem (pa / 128 * 128) j)))) ∧
    (one → clear p.va.toNat p.len = false →
      (a.kind = .store →
        Gives (.farWritePerform k id) s (fun t => t.far? k id = none ∧ s.OnlyBytes t pa n ∧
          (∀ j, j < 8 * n → memBit t.mem pa j = a.data.getLsbD j) ∧
          (t.core k).snap = snapStore (s.core k).snap pa ((toBytes 128 a.data).take n))) ∧
      (a.kind = .atom op dw false → size → ¬ sums → Gives (.farWritePerform k id) s (fun t => t.far? k id = none ∧ updated t)) ∧
      (a.kind = .atom op dw false → size → sums → (s.die (homeDie pa)).ordsum.length < 2048 → homeDie pa < s.dies.length →
        Gives (.farWritePerform k id) s (fun t => t.far? k id = none ∧ t.mem = s.mem ∧
          ∃ e, (t.die (homeDie pa)).ordsum = (s.die (homeDie pa)).ordsum ++ [e] ∧ e.crew = a.who.crew ∧ e.lcore = a.who.lcore ∧ e.pa = pa ∧
            e.addend = b.setWidth 32 ∧ e.order = id)))

/-! ### Publishes, refreshes, suspension and pickup -/

/-- R60, R91 to R95, R147 to R149: PUBLISH_COMPLETE ends a context's oldest publish once the far writes that it covers are performed; near
stores that it covers and that stand at their landing, or whose context waits outside its bundles, are performed with it (log entry 11). The
context of a PBAR then arrives: with every other participant there, which in the scope fabric are this package's (log entry 33), all that wait are released with a refresh (at once: log entry 53), else its
flag is set. REFRESH_PERFORM empties the snapshot cache; SUSPEND_COMPLETE writes the continuation record and frees the slot; WAIT_MONITOR_EVAL makes a WAITING record
READY when its condition holds; CONTEXT_PICKUP restores a READY record into a free slot. The cores have no remote request to send, and
the records lie in HBM4E. -/
def Obligations.SynchronisationEventsComplete : Prop :=
  ∀ (s : State) (k r : Nat), k < s.cores.length → r < 2 → (s.core k).eng.rm = [] → s.upsets = [] →
    let c := s.ctx k r
    (∀ p l, c.pubs = p :: l → (s.core k).pubDone p.covers = true →
      let t := (s.flushNear k p.covers Ctx.landsHere).modCtx k r (fun x => { x with pubs := l })
      (p.kind ≠ .pbar → exec (.publishComplete k r p.id) s = .next t) ∧
      (∀ w, p.kind = .pbar → c.mode = .barrier p.scope false → s.crew? c.crew = some w → l.any (fun q => decide (q.kind = .pbar)) = false →
        k ∈ w.members →
        let other (m : Nat) : Prop := m ∈ w.members ∧ sameInst p.scope k m = true ∧ m ≠ k
        let here (m : Nat) : Prop := ∃ e ∈ w.arrived, e.1 = p.scope ∧ e.2.1 = w.lcore m
        ¬ here k →
        ((∀ m, other m → here m) → Gives (.publishComplete k r p.id) s (fun u => ∀ m q, other m ∨ m = k → q < 2 →
          (s.ctx m q).crew = c.crew → (m = k ∧ q = r) ∨ (s.ctx m q).mode = .barrier p.scope true →
            (u.ctx m q).mode = .running ∧ (u.core m).snap = [])) ∧
        ((∃ m, other m ∧ ¬ here m) → Gives (.publishComplete k r p.id) s (fun u => (u.ctx k r).mode = .barrier p.scope true ∧ u.mem = t.mem ∧
          ∃ x, u.crew? c.crew = some x ∧ ∃ e ∈ x.arrived, e.1 = p.scope ∧ e.2.1 = w.lcore k)))) ∧
    (∀ f l, c.refs = f :: l → s.refReady k r f = true →
      exec (.refreshPerform k r) s =
        .next ((s.modCore k (fun x => { x with snap := [] })).modCtx k r (fun x => { x with refs := l }))) ∧
    (∀ q w, c.mode = .suspending q → s.crew? c.crew = some w → c.pubs = [] →
      let a := w.queueAt.1 + 64 * q.qslot
      inHbm a 64 = true → s.MemOk → w.lcore k < 256 →
        Gives (.suspendComplete k r) s (fun t => (t.ctx k r).mode = .empty ∧ s.OnlyBytes t a 64 ∧
          (let m := s.ctx k r
           let w1 := t.read64 (a + 8)
           bf w1 41 38 = (if q.waiting then 2 else 1) ∧ bf w1 63 48 = c.crew.toNat ∧ bf w1 47 42 = m.regs.prio.toNat ∧
             bf w1 7 0 = w.lcore k ∧ wb w1 20 = q.any ∧ bf w1 27 21 = m.regs.p.toNat / 2 % 128 ∧
             [1#5, 2#5, 3#5, 4#5].map m.regs.getS = [t.read64 (a + 16), t.read64 (a + 24), t.read64 (a + 32), t.read64 (a + 40)] ∧
             (q.waiting = true → t.read64 (a + 56) = q.addr)) ∧
          ∃ x, t.crew? c.crew = some x ∧ x.reserved = w.reserved.filter (fun i => decide (i ≠ q.qslot)))) ∧
    (∀ w i pa cc v, s.crew? w.id = some w → i < w.queueAt.2 → i ∉ w.reserved → recSt (s.queueRec w i) = 2 →
      s.waitPlace w (w.phys (recLcore (s.queueRec w i))) (lrw (s.queueRec w i) 7) = some pa →
      Wc.dec (bf (lrw (s.queueRec w i) 1) 37 35) = some cc → recVal (s.queueRec w i) = some v →
      inHbm pa 8 = true → inHbm (w.queueAt.1 + 64 * i) 64 = true → wcHolds cc (s.read64 pa) v = true → s.MemOk →
        Gives (.waitMonitorEval w.id.toNat i) s (fun t => recSt (t.queueRec w i) = 1 ∧ s.OnlyBytes t (w.queueAt.1 + 64 * i + 8) 8 ∧
          (∀ j, j < 64 → j < 38 ∨ 41 < j → (lrw (t.queueRec w i) 1).getLsbD j = (lrw (s.queueRec w i) 1).getLsbD j))) ∧
    (∀ w i ls, s.crews.find? (fun x => decide (x.st = .running) && x.members.contains k) = some w → s.crew? w.id = some w →
      s.pickupSlot w k = some r → i < w.queueAt.2 → i ∉ w.reserved → s.takerOf w i = some k → s.badRec w k (s.queueRec w i) = false →
      recSt (s.queueRec w i) = 1 → inHbm (w.queueAt.1 + 64 * i) 64 = true → recLoops (s.core k).imem w.imglen (s.queueRec w i) = some ls →
      s.MemOk →
        Gives (.contextPickup k r i) s (fun t =>
          let x := s.queueRec w i
          let g := (t.ctx k r).regs
          (t.ctx k r).mode = .running ∧ (t.ctx k r).crew = w.id ∧ g.pc.toNat = bf (lrw x 0) 17 0 ∧ g.prio.toNat = bf (lrw x 1) 47 42 ∧
            g.tick = 0 ∧ g.loops = ls ∧ g.rings = Rings.zero ∧ [1#5, 2#5, 3#5, 4#5].map g.getS = [lrw x 2, lrw x 3, lrw x 4, lrw x 5] ∧
            (∀ j : Nat, 1 ≤ j → j < 8 → g.p.getLsbD j = (lrw x 1).getLsbD (20 + j)) ∧ (t.core k).snap = [] ∧
            recSt (t.queueRec w i) = 0))

/-! ### Crews -/

/-- R50, R65, R142, R143, R164 to R167, R175, R200: the launch whose turn it is is placed once its cores are free and awake: its image is
in the instruction memory of every member, whose slot 0 holds the initial context, cores that last belonged to another crew are cleared,
the scratchpads are preloaded, the clusters belong to the crew, and a release time at least 2 µs ahead is chosen (by a free value: log
entry 32). At that time the crew runs, with the recorded refreshes of its contexts performed once the reads before them are over. PREEMPT
saves every context of a crew that must yield, once its cores stand between bundles and between pieces (log entry 72), and CREW_RESUME
restores them; what is kept beside the save block is the model's choice (log entry 17). -/
def Obligations.CrewPlacementCompletes : Prop :=
  ∀ (s : State) (w : Crew), s.MemOk → s.upsets = [] → w.members.Nodup → (∀ m ∈ w.members, m < s.cores.length ∧ (s.core m).gate = .active) →
    let from2us (v : BitVec 64) : Prop := ∃ d, 2000 ≤ d ∧ d < 2000 + 2 ^ 32 ∧ v = s.time + BitVec.ofNat 64 d
    let img := bf (lrw w.lr 2) 51 0
    let src := bf (lrw w.lr 4) 51 0
    let n := bf (lrw w.lr 3) 51 32
    (s.nextLaunch = some w → w.st = .waiting → s.coresFree w = true → inHbm img w.imglen = true → inHbm src n = true → n ≤ 0xC0000 →
      inHbm w.queueAt.1 (64 * w.queueAt.2) = true → (∀ a ∈ w.flagPas, inHbm a 8 = true) →
      Gives (.launchAdmit w.id.toNat) s (fun t =>
        (∃ x ∈ t.crews, x.order = w.order ∧ x.st = .placed ∧ from2us x.rt) ∧
        ∀ m ∈ w.members, (t.ctx m 0).mode = .running ∧ (t.ctx m 0).crew = w.id ∧ (t.ctx m 0).regs.pc = 0 ∧ (t.ctx m 0).regs.tick = 0 ∧
          (t.ctx m 0).regs.s = [] ∧ (t.ctx m 0).regs.prio.toNat = bf (lrw w.lr 0) 15 10 ∧
          (t.core m).imem = s.mem.read img w.imglen ∧ (t.core m).snap = [] ∧ (t.core m).lastCrew = some w.id ∧
          ((s.core m).lastCrew ≠ some w.id → (t.core m).tiles = [] ∧ (t.core m).acc = [] ∧ (t.core m).scales = []) ∧
          (∀ j, j < n → Tab.get t.mem (spadBase m + j) = Tab.get s.mem (src + j)) ∧
          (clusterOf m < s.clusters.length → (t.cluster (clusterOf m)).owner = w.id ∧ (t.cluster (clusterOf m)).arr = 0))) ∧
    (s.crew? w.id = some w → w.st = .placed → w.rt.toNat ≤ s.time.toNat →
      (∀ m ∈ w.members, ∀ r, r < 2 → ∀ f ∈ (s.ctx m r).refs, (∀ a ∈ (s.core m).far, a.id ∉ f.after) ∧
        ∀ q ∈ (s.core m).eng.rm, q.id ∉ f.after) →
        Gives (.crewRelease w.id.toNat) s (fun t => ∃ x, t.crew? w.id = some x ∧ x.st = .running)) ∧
    (s.crew? w.id = some w → w.st = .placed → w.rt.toNat ≤ s.time.toNat →
      (∀ m ∈ w.members, (s.ctx m 0).refs = [] ∧ (s.ctx m 1).refs = [] ∧ ∀ q ∈ (s.core m).eng.rm, q.sent.isSome = true) →
      (s.seqDie w.id = none → exec (.crewRelease w.id.toNat) s = .next (s.modCrew w.id (fun x => { x with st := .running }))) ∧
      (∀ d, s.seqDie w.id = some d → d < s.dies.length → (s.die d).seq.st = .armed → (s.die d).seq.still = false →
        exec (.crewRelease w.id.toNat) s =
          .next ((s.modCrew w.id (fun x => { x with st := .running })).modSeq d (fun q => { q with
            st := .load, step := 0, began := s.time, slip := 0, nodes := q.nodes.map Node.fresh })))) ∧
    (s.crew? w.id = some w → s.mustYield w = true → w.members.length = w.size + 1 → (∀ m ∈ w.members, (s.core m).stands = true) →
      (∀ i, i ≤ w.size → ∀ x ∈ slotsUnder (w.saveBlock i) 0x140000, (s.frame? x).isSome = true) →
      Gives (.preempt w.id.toNat) s (fun t => ∃ x, t.crew? w.id = some x ∧ x.st = .preempted ∧ x.pausedAt = s.time ∧
        ∀ i, i ≤ w.size → (t.ctx (w.phys i) 0).mode = .empty ∧ (t.ctx (w.phys i) 1).mode = .empty ∧
          ∃ v ∈ x.saved, v.lcore = i ∧ v.core.c0 = s.ctx (w.phys i) 0 ∧ v.core.c1 = s.ctx (w.phys i) 1)) ∧
    (s.nextLaunch = some w → s.crew? w.id = some w → w.st = .preempted → s.coresFree w = true → (w.saved.map (·.lcore)).Nodup →
      (∀ v ∈ w.saved, v.lcore < w.members.length) →
      Gives (.crewResume w.id.toNat) s (fun t => (∃ x, t.crew? w.id = some x ∧ x.st = .placed ∧ x.saved = [] ∧ from2us x.rt) ∧
        ∀ v ∈ w.saved, (t.ctx (w.phys v.lcore) 0).regs = v.core.c0.regs ∧ (t.ctx (w.phys v.lcore) 0).mode = v.core.c0.mode ∧
          (t.ctx (w.phys v.lcore) 1).regs = v.core.c1.regs ∧ (t.ctx (w.phys v.lcore) 1).mode = v.core.c1.mode))

/-- R98, R99, R150, R163, R168, R169, R384, R385, R406: a crew that has reached its completion leaves, its ordered sums applied and its LAUNCH
complete with OK, or with KILLED after a KILL; the oldest trap record of a crew is written with its eight doublewords once its slot's
CAUSE byte is zero, and its MSI is sent; a watchdog that reaches its window posts its condition for a running context, parks a context
that waits in PBAR, FUSE or REJOIN (the members of its lock-step group stop with it, R162), and for one that suspends only records it.
When a crew has reached its completion, and where the watchdog finds a waiting context, are log entries 41 and 28. -/
def Obligations.CrewEventsComplete : Prop :=
  ∀ (s : State) (k r : Nat) (w : Crew), k < s.cores.length → r < 2 → s.MemOk →
    let c := s.ctx k r
    let rec0 (info : Word) : TrapRec :=
      { cause := .watchdog, slots := 0, lcore := w.lcore k, rslot := r, async := true, halted := false,
        image := BitVec.ofNat 32 (bf (lrw w.lr 0) 63 32), pc := s.nextPc k r, tick := c.regs.tick, time := s.time, addr := 0, info := info,
        seq := w.trapSeq, resume := none }
    let posted (t : State) (l : List TrapRec) : Prop := ∃ x, t.crew? c.crew = some x ∧ x.trapq = w.trapq ++ rec0 1 :: l ∧
      x.trapSeq = w.trapSeq + 1 + BitVec.ofNat 32 l.length
    let ripe : Prop := 2 ^ min 40 (max 16 (bf c.wdog 37 32)) ≤ c.stallCnt
    (s.crew? w.id = some w → s.finished w = true → w.kills = [] → w.queue < s.head.queues.length →
      Gives (.crewComplete w.id.toNat) s (fun t => (∀ x ∈ t.crews, x.order = w.order → x.st = .done) ∧
        (∀ d, ∀ e ∈ (t.die d).ordsum, e.crew ≠ w.id) ∧
        (t.cpq w.queue).pend = (s.cpq w.queue).pend ++
          (if w.cmpl then [⟨BitVec.ofNat 64 (w.tag.toNat * 2 ^ 32 + if w.killed then 5 else 0), s.time⟩] else []) ∧
        (t.cpq w.queue).halt = (s.cpq w.queue).halt)) ∧
    (∀ x l, s.crews.find? (fun y => decide (y.id = w.id) && decide (y.trapq ≠ [])) = some w → w.trapq = x :: l →
      let a := bf (lrw w.lr 16) 51 6 * 64 + 64 * (x.seq.toNat % 2 ^ (bf (lrw w.lr 16) 3 0 + 4))
      inHbm a 64 = true → Tab.get s.mem (a + 7) = 0 → s.upsets = [] →
      Gives (.trapRecordWrite w.id.toNat) s (fun t => s.OnlyBytes t a 64 ∧
        (List.range 8).map (fun i => t.read64 (a + 8 * i)) =
          [BitVec.ofNat 64 (x.cause.code * 2 ^ 56 + x.slots.toNat * 2 ^ 48 + w.id.toNat * 2 ^ 32 + x.lcore * 2 ^ 24 + x.rslot * 2 ^ 23 +
             (if x.async then 2 ^ 22 else 0) + (if x.halted then 2 ^ 21 else 0)),
           BitVec.ofNat 64 (x.image.toNat * 2 ^ 32 + x.pc.toNat), x.tick, x.time, x.addr, x.info, BitVec.ofNat 64 (x.seq.toNat * 2 ^ 32), 0] ∧
        (l ≠ [] → ∃ y ∈ t.crews, y.order = w.order ∧ y.trapq = l) ∧
        (∀ f, imsicFile (msiAddr (lrw w.lr 17)) = some f → bf (lrw w.lr 17) 62 52 ≠ 0 → (f, bf (lrw w.lr 17) 62 52) ∈ t.head.imsic))) ∧
    (c.mode = .running → (s.ctx k (1 - r)).mode ≠ .empty → 2 ^ min 40 (max 10 (bf c.wdog 5 0)) ≤ c.yieldCnt →
      exec (.yieldWatchdogExpire k r) s = .next (s.modCtx k r (fun x => { x with yieldCnt := 0, conds := x.conds ++ [⟨.watchdog, 0, 0, none⟩] }))) ∧
    (ripe → c.mode = .running →
      exec (.stallWatchdogExpire k r) s = .next (s.modCtx k r (fun x => { x with stallCnt := 0, conds := x.conds ++ [⟨.watchdog, 0, 1, none⟩] }))) ∧
    (ripe → s.crew? c.crew = some w → c.conds = [] → ((∃ sc a, c.mode = .barrier sc a) ∨ (∃ q, c.mode = .fuseWait q) ∨ c.mode = .rejoinWait) →
      Gives (.stallWatchdogExpire k r) s (fun t => (t.ctx k r).mode = .trapped ∧ (t.ctx k r).regs = c.regs ∧ (t.ctx k r).was = c.mode ∧
        ∃ l, posted t l ∧ (s.groupOf k = [k] → l = []) ∧ ∀ x ∈ l, x.cause = .group)) ∧
    (ripe → s.crew? c.crew = some w → (∃ q, c.mode = .suspending q) →
      Gives (.stallWatchdogExpire k r) s (fun t => (t.ctx k r).mode = c.mode ∧ (t.ctx k r).stallCnt = 0 ∧ posted t []))

/-! ### Page walks, the fault unit, replay and invalidation -/

/-- R114 to R117, R119, R121 to R123, R126 to R131, R133, R134: a walk that runs, for the one far access of its die, and ends at a leaf
leaves the page translated, and one that faults opens a page record of its cause on the die of the core; a batch closes when its threshold or timer is reached and is
delivered to a ring with room, each range record in its place; an acknowledgement removes the delivered records, and what waited on a
record whose range is not aborted waits no more; the oldest entry of a side log is performed at its place; an invalidation command joins
those pending, and its end removes exactly the translations that it names, and by the model's choice the walk caches whole (log entries 10
and 44). -/
def Obligations.FaultEventsComplete : Prop :=
  ∀ (s : State) (k id : Nat) (d : Bool), k < s.cores.length → (if d then 1 else 0) < s.dies.length → s.MemOk →
    let i := if d then 1 else 0
    let f := (s.die i).flt
    let opened := f.recs.filter (fun r => !r.closed)
    let batch := f.recs.filter (fun r => r.closed && r.seq.isNone)
    let rs := rangesOf batch
    let size := 2 ^ (min 10 (bf f.ring 3 0) + 6)
    let base := bf f.ring 51 11 * 2048
    let join (x : Inv) : Host.Outcome State Fault Refusal := .next (s.modHead (fun h => { h with invs := h.invs ++ [x] }))
    (∀ a p va, s.far? k id = some a → a.who.k = k → dieOf k = i → s.farMiss a = some (p, va) → p.cls = .paged → a.kind ≠ .prefetch → s.upsets = [] →
      s.walkRuns i (walkKey a.root va) = true → (∀ c, dieOf c = i → ∀ b ∈ (s.core c).far, b = a) →
      (∀ y ∈ (s.die i).walks, y.agent = .far ∧ y.also = []) →
      (∀ e ea bits ls ps, s.walk i a.root va (farAk a.kind) = (.leaf e ea bits, ls, ps) →
        Gives (.pageWalkComplete k id) s (fun t => (∃ x ∈ (t.core k).tlbs.core, x.asid = rootAsid a.root ∧ x.bits = bits ∧
          x.va = va / 2 ^ bits * 2 ^ bits ∧ x.pte = e ||| 0x40 ||| (if farWrites a.kind then 0x80 else 0)) ∧
          s.OnlyBytes t ea 8 ∧ (s.read64 ea = e → t.read64 ea = e ||| 0x40 ||| (if farWrites a.kind then 0x80 else 0)) ∧
          ∃ b, t.far? k id = some b ∧ b.parts = a.parts)) ∧
      (∀ cause bits ls ps, s.walk i a.root va (farAk a.kind) = (.fault cause bits, ls, ps) → cause < 16 → f.recs.length < 512 →
        Gives (.pageWalkComplete k id) s (fun t => t.mem = s.mem ∧
          ∃ x ∈ (t.die i).flt.recs, x.asid = rootAsid a.root ∧ x.vpn = BitVec.ofNat 45 (va / 4096) ∧ x.cause.toNat = cause ∧
          ∃ b, t.far? k id = some b ∧ ∃ q ∈ b.parts, q.flt = some ⟨x.vpn, x.cause, x.num⟩))) ∧
    (wb f.ctl 0 = true → (∃ r l, opened = r :: l ∧ (bf f.ctl 25 16 ≤ opened.length ∨ bf f.ctl 47 32 * 1000 ≤ (s.time - r.opened).toNat)) → batch = [] →
      exec (.faultBatchClose d) s = .next (s.modFlt i (fun x => { x with recs := x.recs.map (fun r => { r with closed := true }) }))) ∧
    (batch ≠ [] → inHbm base (size * 32) = true → (f.prod - f.cons + BitVec.ofNat 32 rs.length).toNat ≤ size →
      Gives (.faultBatchDeliver d) s (fun t => (t.die i).flt.prod = f.prod + BitVec.ofNat 32 rs.length ∧ (t.die i).flt.seq = f.seq + 1 ∧
        (∀ r ∈ (t.die i).flt.recs, r.closed = true → r.seq.isSome = true) ∧
        (rs.length ≤ size → ∀ j x, rs[j]? = some x → ∀ m, m < 4 →
          t.read64 (base + (f.prod.toNat + j) % 2 ^ 32 % size * 32 + 8 * m) = (x.words (f.seq + 1)).getD m 0))) ∧
    (∀ n : BitVec 32, n.toNat ≤ f.seq.toNat → s.upsets = [] →
      Gives (.fltAck d n) s (fun t => (t.die i).flt.recs = f.recs.filter (fun r => !r.acked n) ∧
        (∀ r, f.recs.filter (fun r => r.acked n) = [r] → wb (s.read64 (r.slot + 24)) 0 = false → dieOf k = i → k < 256 →
          ∀ a ∈ (s.core k).far, a.waitsOn r.asid ⟨r.vpn, r.cause, r.num⟩ = true →
            ∃ b ∈ (t.core k).far, b.id = a.id ∧ ∀ p ∈ b.parts, p.flt ≠ some ⟨r.vpn, r.cause, r.num⟩))) ∧
    (∀ u e l v pa, u < 5 → (s.core k).eng.log u = e :: l → (∀ y ∈ e :: l, y.unrec = false) → e.flt = none → (e.kind = .store ∨ e.kind = .copy) → e.put = 0 →
      e.va.toNat % 8 + e.len ≤ 128 →
      s.engPlace k u e.root (logAk u e.kind) e.who none anyKey { off := 0, va := e.va, len := e.len, cls := e.cls, flt := none } = .at v [(pa, e.len)] → v.MemOk → v.moves = [] → (v.core k).eng.log u = e :: l →
      Gives (.sideLogReplay k u) s (fun t => v.OnlyBytes t pa e.len ∧ (∀ j, j < 8 * e.len → memBit t.mem pa j = e.data.getLsbD j) ∧
        (t.core k).eng.log u = l)) ∧
    (∀ (m : Bool) (asid : BitVec 16) (pages : BitVec 28), s.head.invs.length < 16 →
      let v := BitVec.ofNat 45 (bf s.head.inva 56 12)
      exec (.tlbInvAll m) s = join ⟨m, 0, 0, v, 0⟩ ∧ exec (.tlbInvAsid m asid) s = join ⟨m, 1, asid, v, 0⟩ ∧
        exec (.tlbInvVpn m) s = join ⟨m, 2, 0, v, 0⟩ ∧ exec (.tlbInvAsidVpn m asid) s = join ⟨m, 3, asid, v, 0⟩ ∧
        (pages ≠ 0 → exec (.tlbInvRange m asid pages) s = join ⟨m, 4, asid, v, pages.toNat⟩)) ∧
    (∀ x l, s.head.invs = x :: l →
      let named (e : TlbEnt) : Prop :=
        let own := wb e.pte 5 = false ∧ e.asid = x.asid
        let first := e.va / 2 ^ e.bits * 2 ^ e.bits
        let within (n : Nat) : Prop := first < x.vpn.toNat * 4096 + n * 4096 ∧ x.vpn.toNat * 4096 < first + 2 ^ e.bits ∧ 0 < n
        match x.op.toNat with
        | 0 => True
        | 1 => own
        | 2 => within 1
        | 3 => own ∧ within 1
        | _ => own ∧ within x.pages
      let kept (b a : List TlbEnt) : Prop := ∀ e, e ∈ a ↔ e ∈ b ∧ ¬ named e
      Gives .tlbInvComplete s (fun t => t.head.invs = l ∧ t.head.invDone = s.head.invDone + 1 ∧
        (∀ p, p < s.cores.length → let b := (s.core p).tlbs
          let a := (t.core p).tlbs
          kept b.l a.l ∧ kept b.c0 a.c0 ∧ kept b.c1 a.c1 ∧ kept b.c2 a.c2 ∧ kept b.c3 a.c3 ∧ kept b.sc a.sc ∧ kept b.core a.core) ∧
        (∀ c, c < s.clusters.length → kept (s.cluster c).tlb (t.cluster c).tlb) ∧ (∀ n, (t.die n).walkc = [])))

/-! ### Latent-seam slots -/

/-- R24, R25, R27, R136: the first touch of an unplaced slot binds it to the lowest free frame of its home bank and zeroes it; a release is
taken when none is in progress and the number names a slot of the die, and ends, with no copy in flight, with the slot unplaced, while that
of a slot unplaced as it was asked for changes nothing but BUSY; a move is taken for a placed slot whose target bank has room, refused with
UNPL or FAIL else, and ends with the slot in the lowest free frame of the target bank and its contents as before. That a write of SEAM_MIG
clears FAIL is the model's choice (log entry 68). -/
def Obligations.SlotEventsComplete : Prop :=
  ∀ (s : State) (d : Bool) (n : BitVec 14) (home bank : BitVec 7) (x : BitVec 15), (if d then 1 else 0) < s.dies.length → s.MemOk →
    s.head.held = false →
    let i := if d then 1 else 0
    let g := i * 16384 + n.toNat
    let rel := (s.die i).rel
    let mig := (s.die i).mig
    let moved (t : State) (m : SlotOp) : Prop := (t.die i).mig = m ∧ (t.die i).frames = (s.die i).frames ∧ t.mem = s.mem
    (∀ f, s.frame? g = none → s.freeFrame i home.toNat = some f →
      Gives (.slotPlacement d n home) s (fun t => t.frame? g = some f ∧ f / 128 = home.toNat ∧
        (∀ a, slotBase g ≤ a → a < slotBase (g + 1) → Tab.get t.mem a = 0) ∧ s.OnlyBytes t (slotBase g) 0x10000)) ∧
    (rel.busy = false → x.getLsbD 14 = d →
      exec (.seamRel d x) s = .next (s.modDie i (fun y => { y with rel := ⟨true, x, 0, false, (s.frame? x.toNat).isNone⟩ }))) ∧
    (rel.busy = true → rel.unpl = false → rel.slot.toNat / 16384 = i → s.inFlight rel.slot.toNat = 0 →
      Gives (.slotReleaseEffect d) s (fun t => t.frame? rel.slot.toNat = none ∧ (t.die i).rel.busy = false ∧ t.mem = s.mem ∧
        ∀ m, m ≠ rel.slot.toNat → t.frame? m = s.frame? m)) ∧
    (rel.busy = true → rel.unpl = true →
      exec (.slotReleaseEffect d) s = .next (s.modDie i (fun y => { y with rel := { y.rel with busy := false } }))) ∧
    (mig.busy = false → x.getLsbD 14 = d →
      (s.frame? x.toNat = none → Gives (.seamMig d bank x) s (fun t => moved t ⟨false, x, bank, false, true⟩)) ∧
      (∀ f, s.frame? x.toNat = some f →
        ((s.freeFrame i bank.toNat).isSome = true → f / 128 ≠ bank.toNat →
          Gives (.seamMig d bank x) s (fun t => moved t ⟨true, x, bank, false, false⟩)) ∧
        (s.freeFrame i bank.toNat = none ∨ f / 128 = bank.toNat →
          Gives (.seamMig d bank x) s (fun t => moved t ⟨false, x, bank, true, false⟩)))) ∧
    (∀ e f, mig.busy = true → mig.slot.toNat / 16384 = i → s.inFlight mig.slot.toNat = 0 → s.frame? mig.slot.toNat = some e →
      e / 128 ≠ mig.bank.toNat → s.freeFrame i mig.bank.toNat = some f →
      Gives (.slotMigrationDone d) s (fun t => t.frame? mig.slot.toNat = some f ∧ t.mem = s.mem ∧ (t.die i).mig.busy = false ∧
        (t.die i).mig.fail = false ∧ ∀ m, m ≠ mig.slot.toNat → t.frame? m = s.frame? m))

/-! ### The weight seam, its temperature, and storage errors -/

/-- R8, R65, R69, R70, R82 to R84, R396: a change of owner clears the swap state of a cluster and starts the clear, whose end leaves both halves
zero; a refresh cycle goes on by one row and counts a stall while a stream reads the bank, and does nothing in reduced service; a hotter band
applies at once; a write of ERR_INJ that would arm a position above 71 is ignored whole, and any other is taken, with ARM at 0 for an array
above 11 and for a word of the other die (that it is so for the other die's word, and that P2 counts only with DOUBLE, are the model's
readings: log entries 21 and 36); an armed injection is performed on its word by a write of any agent, and disarmed; a write of ERR_LSTAT
drops the oldest records and clears the bits of OVF that it writes as ones; a patrol scrub corrects single errors of HBM4E and of the latent seam of a die whose period has come, and leaves
uncorrectable words. What an owner change resets, when a clear reads zero and what a stall counts are log entry 36; that a dropped record is
gone is log entry 61. -/
def Obligations.StorageEventsComplete : Prop :=
  ∀ (s : State) (d h : Bool) (c : BitVec 3) (owner : BitVec 16) (ex : BitVec 5) (v : Word) (arr : BitVec 4) (temp : Nat),
    let i := if d then 1 else 0
    let cl := i * 8 + c.toNat
    let x := s.cluster cl
    let y := s.die i
    let base := 0x30000000000 + cl * 0x20000000
    let w := v &&& 0xFF0FFFFFFFFFFFFF
    let area := bf w 61 56
    let fits : Prop := area ≤ 11 ∧ (if 5 ≤ area ∧ area ≤ 7 then (memLoc (bf w 51 0)).1 else bf w 39 39) = i
    let beyond : Prop := wb w 63 = true ∧ (71 < bf y.injPos 6 0 ∨ wb w 62 = true ∧ 71 < bf y.injPos 14 8)
    let due (j : Nat) : Prop := j < 2 ∧ (s.die j).scrub ≠ 0 ∧
      ∀ t0, (s.die j).scrubAt = some t0 → (s.die j).scrub.toNat * 1000000000 ≤ (s.time - t0).toNat
    cl < s.clusters.length → i < s.dies.length → s.MemOk →
    Gives (.seamOwnerWrite d c owner ex) s (fun t =>
      let z := t.cluster cl
      z.owner = owner ∧ z.exp = ex ∧ z.act = x.act ∧ t.mem = s.mem ∧
        (owner = x.owner → z.epoch = x.epoch ∧ z.arr = x.arr ∧ z.lost = x.lost ∧ z.clr = x.clr) ∧
        (owner ≠ x.owner → z.epoch = 0 ∧ z.arr = 0 ∧ z.lost = true ∧ z.clr = true ∧ ∀ j, j < 16 → (t.core (cl * 16 + j)).swapArr = false)) ∧
    (x.clr = true → Gives (.seamClearDone d c) s (fun t => (t.cluster cl).clr = false ∧ s.OnlyBytes t base 0x20000000 ∧
      ∀ a, base ≤ a → a < base + 0x20000000 → Tab.get t.mem a = 0)) ∧
    (s.head.held = true → exec (.weightRefreshCycle d c h) s = .next s) ∧
    (s.head.held = false → Gives (.weightRefreshCycle d c h) s (fun t =>
      let z := t.cluster cl
      t.mem = s.mem ∧ z.act = x.act ∧
      (if h then z.row1 = (x.row1 + 1) % 2048 ∧ z.row0 = x.row0 ∧ z.stall0 = x.stall0 ∧ z.stall1 = (if 0 < x.reads1 then x.stall1 + 1 else x.stall1)
       else z.row0 = (x.row0 + 1) % 2048 ∧ z.row1 = x.row1 ∧ z.stall1 = x.stall1 ∧ z.stall0 = (if 0 < x.reads0 then x.stall0 + 1 else x.stall0)))) ∧
    (let hot := if temp ≤ 85 then 0 else if temp ≤ 95 then 1 else if temp ≤ 105 then 2 else 3
     (x.band.toNat < hot → Gives (.sensorSample d c temp) s (fun t => (t.cluster cl).band.toNat = hot ∧ t.mem = s.mem ∧ t.cores = s.cores)) ∧
     (hot = x.band.toNat → Gives (.sensorSample d c temp) s (fun t => (t.cluster cl).band = x.band ∧ t.mem = s.mem ∧ t.cores = s.cores))) ∧
    (beyond → exec (.errInj d v) s = .next s) ∧
    (¬ beyond → Gives (.errInj d v) s (fun t => (t.die i).injPos = y.injPos ∧ t.upsets = s.upsets ∧ t.mem = s.mem ∧
      (t.die i).inj = (if wb w 63 = true ∧ ¬ fits then w &&& 0x7FFFFFFFFFFFFFFF else w))) ∧
    (wb y.inj 63 = false → exec (.errInjPerform d) s = .next s) ∧
    (wb y.inj 63 = true → bf y.injPos 6 0 ≤ 71 → bf y.injPos 14 8 ≤ 71 →
      Gives (.errInjPerform d) s (fun t => wb (t.die i).inj 63 = false ∧ t.mem = s.mem ∧
        let hit : Upset := ⟨i, bf y.inj 61 56, bf y.inj 51 3 * 8, if wb y.inj 62 then [bf y.injPos 6 0, bf y.injPos 14 8] else [bf y.injPos 6 0]⟩
        ∀ u, u ∈ t.upsets ↔ u = hit ∨ u ∈ s.upsets ∧ ¬ (u.die = i ∧ u.array = hit.array ∧ u.loc = hit.loc))) ∧
    (arr.toNat < y.logs.length → Gives (.errLstatWrite d arr v) s (fun t =>
      let b := y.logs.getD arr.toNat ErrLog.zero
      let a := (t.die i).logs.getD arr.toNat ErrLog.zero
      a.head = b.head ∧ a.count = min b.count (bf v 12 8) ∧ a.ovf < 2 ^ 32 ∧
        (∀ j, j < 32 → Nat.testBit a.ovf j = (Nat.testBit b.ovf j && !v.getLsbD (32 + j))) ∧
        ∀ e, e ∈ a.recs ↔ e ∈ b.recs ∧ (b.head + 15 - e.1) % 16 < a.count)) ∧
    Gives .patrolScrub s (fun t => t.mem = s.mem ∧ ∀ u, u ∈ t.upsets ↔ u ∈ s.upsets ∧
      ¬ ((u.array = 5 ∨ u.array = 7) ∧ due u.die ∧ u.flipped.length = 1))

/-! ### Copy engines, stream loader, matrix unit -/

/-- R73 to R75, R104, R351, R352, R355, R357, R368: with no fence at its head, a queue's head copy that may go on writes
the next piece of its destination, as R351 makes it, and goes on behind it; a prefetch hint goes on by one row; a signal that nothing
stands before is written and its command leaves; an export writes its next word; and the loader fetches the next granule, and decodes a
whole chunk into two rows or marks a bad one. A piece moves whole here: no choice of its doublewords is left (R87; log entry 12). -/
def Obligations.EngineEventsComplete : Prop :=
  ∀ (s : State) (k q : Nat), k < s.cores.length → q < 4 → s.MemOk →
    let e := (s.core k).eng
    let here (t : State) : List Cmd := (t.core k).eng.ce q
    let atLocal (p : Part) (l : List Part) : Prop := l = [p] ∧ p.cls = .loc ∧ p.off = 0
    (∀ c l multi w, s.headCmd k q = some c → e.ce q = c :: l → c.kind = .copy multi w →
      let g := geoOf w
      let a := g.dst + c.piece * g.dp + c.pos
      let n := min (128 - a % 128) (g.dLen - c.pos)
      let j := c.pos / g.dt.size
      let next := if g.dLen ≤ c.pos + n then (c.piece + 1, 0) else (c.piece, c.pos + n)
      c.done = false → s.copyHeld k c g = false → e.mayRun q c = true → g.pfh = false → g.mc = 0 → s.upsets = [] → (s.core k).far = [] → k < 256 →
      s.moves = [] → c.got = 0 → c.put = 0 → e.log (q + 1) = [] → e.logL = [] →
      (∀ r ∈ g.runs c.piece j (n / g.dt.size), ∃ p, atLocal p (s.cmdParts k c.who.crew c.xl c.acts r.1 r.2) ∧ p.len = r.2) →
      (∃ p, atLocal p (s.cmdParts k c.who.crew c.xl c.acts a n) ∧ p.len = n) → n % g.dt.size = 0 → 0 < n →
      let at' (x : Nat) : Nat := spadBase k + x % 0x100000
      let src := (g.runs c.piece j (n / g.dt.size)).flatMap (fun r => s.mem.read (at' (r.1 % 2 ^ 64)) r.2)
      Gives (.copyPiece k q) s (fun t =>
        s.OnlyBytes t (at' (a % 2 ^ 64)) n ∧ t.mem.read (at' (a % 2 ^ 64)) n = g.fill c.piece j (n / g.dt.size) src ∧
        (next.1 < g.dRows → ∃ x, here t = x :: l ∧ x.id = c.id ∧ (x.piece, x.pos) = next) ∧
        (g.dRows ≤ next.1 → g.siga = 0 → here t = l) ∧ (g.dRows ≤ next.1 → g.siga ≠ 0 → ∃ x, here t = x :: l ∧ x.id = c.id ∧ x.done = true))) ∧
    (∀ c l multi w, s.headCmd k q = some c → e.ce q = c :: l → c.kind = .copy multi w → (geoOf w).pfh = true → c.done = false →
      e.mayRun q c = true → (geoOf w).vc ≠ 0 → 0 < (geoOf w).st.size →
      (c.piece < (geoOf w).vr → (∀ p ∈ s.cmdParts k c.who.crew c.xl c.acts ((geoOf w).src + c.piece * (geoOf w).sp) ((geoOf w).vc * (geoOf w).st.size), p.cls ≠ .paged) →
        Gives (.copyPiece k q) s (fun t => ∃ x, here t = x :: l ∧ x.id = c.id ∧ x.piece = c.piece + 1 ∧ t.mem = s.mem)) ∧
      ((geoOf w).vr ≤ c.piece → (geoOf w).siga = 0 → Gives (.copyPiece k q) s (fun t => here t = l ∧ t.mem = s.mem))) ∧
    (∀ c l a v sc add u pa p, s.headCmd k q = some c → e.ce q = c :: l → c.kind = .sig a v sc add → e.mayRun q c = true → e.log (q + 1) = [] →
      e.logL = [] → s.cmdParts k c.who.crew c.xl c.acts a.toNat 8 = [p] →
      s.engPlace k (q + 1) c.xl.root (if add then .sigAdd else .sigWrite) c.who none anyKey p = .at u [(pa, 8)] →
      u.farBefore k c.after [(pa, 8)] = false → u.upsets = [] → u.MemOk → here u = c :: l →
      Gives (.signalWrite k q) s (fun t => here t = l ∧ u.OnlyBytes t pa 8 ∧ t.read64 pa = (if add then u.read64 pa + v else v))) ∧
    (∀ c l a len out v bs, s.headCmd k q = some c → e.ce q = c :: l → c.kind = .xmeta a len out → e.mayRun q c = true →
      (e.log (q + 1)).length < 256 →
      (c.begun = true ∨ ∀ h ∈ (s.cmdParts k c.who.crew c.xl c.acts out.toNat 4).flatMap viewHalf, s.readsLeft h = false) →
      (c.pos < len.toNat → s.engRead k q c (s.cmdParts k c.who.crew c.xl c.acts (a.toNat + c.pos) (min 34 (len.toNat - c.pos))) = .bytes v bs →
        ∀ p u, v.cmdParts k c.who.crew c.xl c.acts (out.toNat + 4 * c.piece) 4 = [p] →
        v.engWritePart k q c .copyDst .copy p ((leBytes 4 (c.pos + (if (chunkSize c.pos len.toNat bs).isNone then 2 ^ 31 else 0))).drop p.off |>.take p.len) = .ok u →
        here u = c :: l →
        Gives (.xmetaExport k q) s (fun t => t.mem = u.mem ∧
          (∀ z, chunkSize c.pos len.toNat bs = some z → c.pos + z < len.toNat → ∃ x, here t = x :: l ∧ x.piece = c.piece + 1 ∧ x.pos = c.pos + z) ∧
          (∀ z, chunkSize c.pos len.toNat bs = some z → len.toNat ≤ c.pos + z → here t = l) ∧
          (chunkSize c.pos len.toNat bs = none → here t = l))) ∧
      (len.toNat ≤ c.pos → Gives (.xmetaExport k q) s (fun t => here t = l ∧ t.mem = s.mem))) ∧
    (∀ t0 l, e.sl = t0 :: l → e.halted.getLsbD 4 = false →
      let g := min (512 - (t0.pa + t0.fetched) % 512) (t0.len - t0.fetched)
      let rows := (e.fifo.filter (fun x => match x with
        | .row _ => true
        | _ => false)).length
      let chunk := t0.pa + t0.decoded
      let head := leNat (s.mem.read chunk 2)
      let z := if head = 0x8000 then 258 else 34 + popBytes (s.mem.read (chunk + 2) 32)
      (0 < g → (s.cluster t0.half.1).clr = false → s.farBefore k t0.after [(t0.pa + t0.fetched, g)] = false →
        (t0.fetched - t0.decoded + g) * t0.ratio ≤ 4 * (16384 - 128 * rows) →
        Gives (.streamFetch k) s (fun t => (t.core k).eng.sl = { t0 with fetched := t0.fetched + g } :: l ∧ t.mem = s.mem)) ∧
      (head = 0 ∨ head = 0x8000 → t0.decoded + z ≤ t0.len → 1024 ≤ z * t0.ratio → t0.decoded + z ≤ t0.fetched → 34 ≤ t0.fetched - t0.decoded →
        s.upsets = [] →
        Gives (.streamChunkDecode k) s (fun t => ∃ v w, (t.core k).eng.fifo = e.fifo ++ [.row v, .row w] ∧
          (∀ j, j < 256 →
            let b := if head = 0x8000 then Tab.get s.mem (chunk + 2 + j)
              else if memBit s.mem (chunk + 2) j then
                Tab.get s.mem (chunk + 34 + ((List.range j).filter (fun i => memBit s.mem (chunk + 2) i)).length)
              else 0
            (if j < 128 then v.extractLsb' (8 * j) 8 else w.extractLsb' (8 * (j - 128)) 8) = b) ∧
          (t0.decoded + z < t0.len → (t.core k).eng.sl = { t0 with decoded := t0.decoded + z } :: l) ∧
          (t0.decoded + z = t0.len → (t.core k).eng.sl = l) ∧ t.mem = s.mem)) ∧
      (t0.decoded + 2 ≤ t0.fetched → t0.fetched ≤ t0.len → head ≠ 0 → head ≠ 0x8000 → s.upsets = [] →
        Gives (.streamChunkDecode k) s (fun t => (t.core k).eng.fifo = e.fifo ++ [.mark t0.decoded] ∧ (t.core k).eng.sl = l ∧ t.mem = s.mem)))

/-- R318, R322, R328, R329, R336, R338, R343: the entry at the head of mx, when nothing stands before it, runs and leaves: ACCZ clears its
accumulator, ASCFG with CLR the running bests, MSTW writes one word of the store or of the table, invalid where it breaks the table's rules
(that a LEN of 0 breaks them is a deduction: log entry 30),
ACFIN divides the sums by their counts, and routine 0 adds, or writes, the dot products of its rows with the columns of the B group. -/
def Obligations.MatrixEntriesRun : Prop :=
  ∀ (s : State) (k : Nat), k < s.cores.length →
    let e := (s.core k).eng
    (∀ x l, e.mx = x :: l → e.halted.getLsbD 5 = false → x.flt = none → x.after.any (s.core k).pending = false →
      let acc := physAccOf x.split x.half x.acc
      let getAcc (t : State) (a r n : Nat) : Nat := (accGet (t.core k).acc a r).getD n 0
      (x.kind = .accz → Gives (.mxEntryRun k) s (fun t => (t.core k).eng.mx = l ∧ t.mem = s.mem ∧
        (∀ i, acc * 512 ≤ i → i < acc * 512 + 512 → Tab.get (t.core k).acc i = 0) ∧
        (∀ i, i < acc * 512 ∨ acc * 512 + 512 ≤ i → Tab.get (t.core k).acc i = Tab.get (s.core k).acc i))) ∧
      (x.kind = .ascfgClr → Gives (.mxEntryRun k) s (fun t => (t.core k).eng.mx = l ∧ t.mem = s.mem ∧ (t.core k).best = List.replicate 128 ⟨true, 0xFFFF, 0x7F800000⟩)) ∧
      (∀ a b, x.kind = .mstw false a b → Tab.wf (s.core k).mstore = true → Gives (.mxEntryRun k) s (fun t => (t.core k).eng.mx = l ∧ t.mem = s.mem ∧
        ∀ i, Tab.get (t.core k).mstore i = if i = a.toNat % 4096 then b else Tab.get (s.core k).mstore i)) ∧
      (∀ a b, x.kind = .mstw true a b → Tab.wf (s.core k).mtab = true → 16 ≤ a.toNat % 256 → Gives (.mxEntryRun k) s (fun t => (t.core k).eng.mx = l ∧ t.mem = s.mem ∧
        ∀ i, Tab.get (t.core k).mtab i = if i = a.toNat % 256 then
            (if bf b 63 26 ≠ 0 ∨ bf b 23 12 = 0 ∨ 4096 < bf b 11 0 + bf b 23 12 then b &&& 0xFFFFFFFFFEFFFFFF else b)
          else Tab.get (s.core k).mtab i)) ∧
      (∀ c d, x.kind = .acfin c d → Tab.wf (s.core k).acc = true → s.upsets = [] →
        let cen := physAccOf x.split x.half c
        Gives (.mxEntryRun k) s (fun t => (t.core k).eng.mx = l ∧ t.mem = s.mem ∧ ∀ r n, r < 128 → n < 128 →
          getAcc t cen r n = if getAcc s acc r 127 % 2 ^ 31 ≠ 0 ∧ n < d then f32Div (getAcc s acc r n) (getAcc s acc r 127) % 2 ^ 32
            else getAcc s cen r n)) ∧
      (∀ w base bt xt mt push st len v rows, x.kind = .routine 0 w base bt xt mt push st len → Tab.wf (s.core k).acc = true →
        s.mxRows k x (passRows 0 w base) = .rows v rows → v.upsets = [] → v.mem = s.mem → k < v.cores.length →
        (v.core k).acc = (s.core k).acc → (v.core k).eng = e →
        let p := passOf (lrw w 0)
        let sc := if p.scl = true then some (p, x.scales) else none
        let dot (r n : Nat) : Nat := rowDot (mxProd x.ta x.tb) sc (elts x.ta.size (128 / x.ta.size) (rows.getD r 0)) (btRow bt x.tb n) (128 / x.tb.size / 32)
        Gives (.mxEntryRun k) s (fun t => (t.core k).eng.mx = l ∧ t.mem = s.mem ∧ ∀ r n, r < 128 → n < 128 →
          getAcc t acc r n = if p.arow ≤ r ∧ r < p.arow + p.rows then
              (if p.zero = true then dot (r - p.arow) n else f32Add (getAcc s acc r n) (dot (r - p.arow) n)) % 2 ^ 32
            else getAcc s acc r n)))

/-! ### Remote access and the trestle link -/

/-- R41, R363, R364, R367, R391, R392, R400: a response or a time-out returns the slot of a request that was sent and fills its entry of
qrm, with the value or, for a status other than 0, with the failure, which for a write without an entry is posted for its context; a
response for no request is discarded. A request of another package is performed once at its place when an export window permits it,
answered with status 0, and refused with status 1 when none does; a row moves whole here, with no choice of its doublewords left (R87; log
entry 12). No other request of the core waits to be sent, and no injection is armed. -/
def Obligations.RemoteEventsComplete : Prop :=
  ∀ (s : State) (k id st : Nat) (v : Row) (r : RmReq) (q : RemReq) (j z : Nat), k < s.cores.length →
    (s.rm? k id = none → exec (.remoteResponse k id st v) s = .next s) ∧
    (s.rm? k id = some r → (∀ x ∈ (s.core k).eng.rm, x.sent.isSome = true) → s.findCtx r.who.crew r.who.uid = some (j, z) → j < s.cores.length →
      let gone : State := s.modEng k (fun e => { e with rm := e.rm.filter (fun x => decide (x.id ≠ id)) })
      let filled (v : Row) (e : Option QErr) : State := gone.modCtx j z (fun c => { c with
        qrm := c.qrm.map (fun x => if x.id = id then { x with val := some v, err := e } else x) })
      let answered (n : Nat) (v : Row) : State :=
        if r.qrm then (if n = 0 then filled v none else filled 0 (some ⟨.remote, r.fab, BitVec.ofNat 64 n, false, r.who.pc⟩))
        else if n = 0 ∨ r.kind = .load ∨ r.kind = .loadRow then gone
        else gone.modCtx j z (fun c => { c with conds := c.conds ++ [⟨.remote, r.fab, BitVec.ofNat 64 n, none⟩] })
      exec (.remoteResponse k id st v) s = .next (answered st v) ∧
      (∀ t0 p, r.sent = some (t0, p) →
        (s.head.trsTmo.toNat * 1000 ≤ (s.time - t0).toNat → exec (.remoteTimeout k id) s = .next (answered 4 0)) ∧
        ((s.time - t0).toNat < s.head.trsTmo.toNat * 1000 → exec (.remoteTimeout k id) s = .next s))) ∧
    (s.canRespond q = true → s.head.trsNpkg.toNat ≤ q.pkg.toNat →
      Gives (.remoteRequestArrive q) s (fun t => t.resp = .status 1 0 ∧ t.mem = s.mem)) ∧
    (s.canRespond q = true → q.pkg.toNat < s.head.trsNpkg.toNat → s.MemOk → s.upsets = [] → (∀ d, wb (s.die d).inj 63 = false) →
      s.moves = [] → s.head.rowOf q = none →
      let a := q.pa.toNat
      let n := q.size
      let rb := s.head.trsRqbase.toNat + (q.pkg.toNat * 260 + q.agent) * 2048
      let permitted := (∃ c ∈ s.head.exps, c.exports q = true) ∧ inHbm a n = true ∧ s.heldAt a n = false
      ((∀ c ∈ s.head.exps, c.exports q = false) →
        Gives (.remoteRequestArrive q) s (fun t => t.resp = .status 1 0 ∧ s.OnlyBytes t rb 2048)) ∧
      (permitted → 0 < n → n ≤ 128 → rb + 2048 ≤ a ∨ a + n ≤ rb →
        let bytes (v : Row) : Prop := ∀ i, i < 1024 → v.getLsbD i = (decide (i < 8 * n) && memBit s.mem a i)
        let stored {w : Nat} (t : State) (v : BitVec w) : Prop := (∀ i, i < 8 * n → memBit t.mem a i = v.getLsbD i) ∧
          ∀ b, (b < a ∨ a + n ≤ b) → (b < rb ∨ rb + 2048 ≤ b) → Tab.get t.mem b = Tab.get s.mem b
        let old : Word := BitVec.ofNat 64 (leNat (s.mem.read a n))
        (q.kind = .load ∨ q.kind = .loadRow →
          Gives (.remoteRequestArrive q) s (fun t => (∃ w, t.resp = .status 0 w ∧ bytes w) ∧ s.OnlyBytes t rb 2048)) ∧
        (∀ w, q.kind = .store w → Gives (.remoteRequestArrive q) s (fun t => t.resp = .status 0 0 ∧ stored t w)) ∧
        (∀ w, q.kind = .storeRow w → Gives (.remoteRequestArrive q) s (fun t => t.resp = .status 0 0 ∧ stored t w)) ∧
        (∀ op b c, q.kind = .atom op b c → n = 4 ∨ n = 8 → Gives (.remoteRequestArrive q) s (fun t =>
          t.resp = .status 0 (old.setWidth 1024) ∧ stored t (atomNew op (decide (n = 8)) old b c)))))

/-- R389, R390, R392, R393: a frame of another EtherType than TRS_ETYPE is nothing to a port, and one of that type is received flit by flit;
a flit in order is delivered and its acknowledgement taken, a CRC error or a sequence gap is counted and answered with a NAK flit, a repeated
flit is discarded; a NAK makes the sender replay; a port without progress for TRS_TMO, or without a lane, goes down, and what was sent on it
is answered; lanes are shed and regained by retraining; a port comes up with its sequence numbers at the start, which are 0 by the model's
choice (log entry 43). For the clauses on received flits, no NAK is due and no request waits to be sent. -/
def Obligations.LinkEventsComplete : Prop :=
  ∀ (s : State) (i : BitVec 3) (f : Flit) (fs : List Flit) (n : BitVec 16) (lanes : BitVec 3), i.toNat < s.head.ports.length →
    let p := s.port i.toNat
    let now (t : State) : Port := t.port i.toNat
    let good := f.crc = crc32 (flitBody f)
    let ahead := (f.seq - p.rxSeq).toNat
    let acks (a : BitVec 16) (t : State) : Prop :=
      if a ≠ p.ackd ∧ (a - p.ackd).toNat < 0x8000 then
        (now t).ackd = a ∧ (now t).buf = p.buf.filter (fun g => decide (0x8000 ≤ (a - g.seq).toNat))
      else (now t).ackd = p.ackd ∧ (now t).buf = p.buf
    let fine (x : BitVec 3) := x = 1 ∨ x = 2 ∨ x = 4
    let down (t : State) : Prop := (now t).up = false ∧ (now t).lanes = 0 ∧ (now t).buf = [] ∧
      ∀ k, k < s.cores.length → ∀ x ∈ (t.core k).eng.rm, ∀ t0, x.sent ≠ some (t0, i.toNat)
    let calm : Prop := p.nakDue = false ∧ ∀ k, ∀ x ∈ (s.core k).eng.rm, x.sent.isSome = true
    (p.up = true →
      (f.etype ≠ s.head.trsEtype → exec (.flitReceive i [f]) s = .next s) ∧
      (calm → f.etype = s.head.trsEtype → good → f.seq = p.rxSeq → Gives (.flitReceive i [f]) s (fun t => (now t).rxSeq = p.rxSeq + 1 ∧ (now t).nak = false ∧
        (now t).crcerr = p.crcerr ∧ acks f.ackseq t ∧ (now t).replay = (if f.flags.getLsbD 0 then p.replay + 1 else p.replay))) ∧
      (calm → f.etype = s.head.trsEtype → p.nak = false → p.buf.length < 8192 → ¬ good ∨ (0 < ahead ∧ ahead < 0x8000) →
        Gives (.flitReceive i [f]) s (fun t => (now t).rxSeq = p.rxSeq ∧ (now t).nak = true ∧ (now t).crcerr = p.crcerr + 1 ∧
          (now t).nakDue = false ∧ ∃ g, (now t).buf = p.buf ++ [g] ∧ g.vc = 2 ∧ g.flags = 3 ∧ g.seq = p.txSeq ∧ g.ackseq = p.rxSeq - 1 ∧
            g.crc = crc32 (flitBody g) ∧ g.etype = s.head.trsEtype)) ∧
      (calm → f.etype = s.head.trsEtype → good → 0x8000 ≤ ahead → Gives (.flitReceive i [f]) s (fun t => now t = p)) ∧
      (calm → good → f.seq = p.rxSeq → fs ≠ [] → fs.length ≤ 34 → (∀ g ∈ f :: fs, g.etype = s.head.trsEtype) →
        ∃ t, exec (.flitReceive i [f]) s = .next t ∧ exec (.flitReceive i (f :: fs)) s = exec (.flitReceive i fs) t) ∧
      (calm → Gives (.nakReceive i n) s (fun t => acks n t ∧ (now t).replay = p.replay + 1 ∧ (now t).rxSeq = p.rxSeq)) ∧
      (p.buf ≠ [] → s.head.trsTmo.toNat * 1000 ≤ (s.time - p.lastAck).toNat → Gives (.portDown i) s down) ∧
      ((s.time - p.lastAck).toNat < s.head.trsTmo.toNat * 1000 → exec (.portDown i) s = .next s) ∧
      (lanes.toNat < p.lanes.toNat → lanes = 1 ∨ lanes = 2 →
        Gives (.laneShed i lanes) s (fun t => (now t).lanes = lanes ∧ (now t).up = true ∧ (now t).retraining = true ∧
          (now t).shed = p.shed + 1 ∧ (now t).buf = p.buf)) ∧
      (0 < p.lanes.toNat → Gives (.laneShed i 0) s (fun t => down t ∧ (now t).shed = p.shed + 1)) ∧
      Gives (.retrain i) s (fun t => (now t).retraining = true ∧ (now t).lanes = p.lanes ∧ (now t).buf = p.buf)) ∧
    (p.retraining = true → Gives (.retrainingDone i lanes) s (fun t => (now t).retraining = false ∧ (now t).buf = p.buf ∧
      (now t).txSeq = p.txSeq ∧ (p.regain = true → fine lanes → (now t).lanes = lanes) ∧ (p.regain = false → (now t).lanes = p.lanes))) ∧
    (p.en = true → p.up = false → fine lanes → Gives (.portUp i lanes) s (fun t => (now t).up = true ∧ (now t).lanes = lanes ∧
      (now t).txSeq = 0 ∧ (now t).rxSeq = 0 ∧ (now t).buf = [] ∧ (now t).nak = false ∧ t.mem = s.mem))

/-! ### The step sequencer -/

/-- R174 to R190: a write of EN = 1 arms an idle sequencer whose configuration and nodes pass, and stops it with ERR 1 when the configuration
does not; EN = 0 makes it idle. LOAD writes the step registers of every member and runs the step, or stops with ERR 2 at a bad entry. A tile
goes to the queue of the member whose turn it is. A report that matches an outstanding tile completes it, and any other is counted. A probe
of a block that is not eligible completes undelivered; an eligible block is skipped or computed when its tiles have been reported. A copy
of the sequencer goes on by one piece, and its end completes the block's nodes, or renews its tag. The close leads to the next step or to
DONE. What an arming keeps, what a write with EN 1 does outside IDLE and whose registers translate are log entries 42 and 56; a piece moves
whole here (R87; log entry 12). -/
def Obligations.SequencerEventsComplete : Prop :=
  ∀ (s : State) (d : Bool) (v : Word) (w : Crew) (k : Nat), 
    let i := if d then 1 else 0
    let q := (s.die i).seq
    let now (t : State) : Seq := (t.die i).seq
    i < s.dies.length → s.upsets = [] → k < s.cores.length →
    let c := (v ||| 1) &&& 0xFFFF0FFFFFFFF005
    let armed : Seq := { q with ctl := c }
    let ws := (List.range armed.nnode).map (fun n => s.nodeWords (bf q.graph 51 6 * 64 + 32 * n))
    (q.st = .idle →
      (armed.cfgOk = true → (∀ n, n < armed.nnode → nodeOk armed.nblk n (ws.getD n []) = true) → (ws.map nodeOf).all (reuseOk (ws.map nodeOf)) = true →
        Gives (.ssqArm d v) s (fun t => (now t).st = .armed ∧ (now t).ctl = c ∧ (now t).step = 0 ∧ (now t).err = 0 ∧
          (now t).nodes = ws.map nodeOf ∧ (now t).tags = (if c.getLsbD 2 then q.tags else []) ∧ t.mem = s.mem)) ∧
      (armed.cfgOk = false → Gives (.ssqArm d v) s (fun t => (now t).st = .stopped ∧ (now t).err = 1 ∧ t.mem = s.mem))) ∧
    (q.st ≠ .idle → exec (.ssqArm d v) s = .next (s.modSeq i (fun x => { x with ctl := c }))) ∧
    Gives (.ssqDisarm d) s (fun t => (now t).st = .idle ∧ (now t).ctl = q.ctl &&& 0xFFFFFFFFFFFFFFFE ∧ (now t).nodes = [] ∧ (now t).tags = q.tags ∧
      (∀ x, s.seqCrew i = some x → s.seqDie x.id = some i → k ∈ x.members → (t.core k).eng.tileq = []) ∧ t.mem = s.mem) ∧
    (s.seqCrew i = some w →
      (q.st = .load →
        let e := (List.range 8).map (fun n => s.read64 (bf q.stab 51 6 * 64 + 64 * q.step + 8 * n))
        let lo (n : Nat) : Word := BitVec.ofNat 64 (bf (lrw e n) 31 0)
        let hi (n : Nat) : Word := BitVec.ofNat 64 (bf (lrw e n) 63 32)
        let dl := bf (lrw e 5) 47 0
        (entryOk e = true → (∀ b ∈ q.blockIds, blkOk (s.words8 (bf q.blkt 51 6 * 64 + 64 * b)) = true) →
          Gives (.seqLoad d) s (fun t => (now t).st = .run ∧ (now t).entry = e ∧ (now t).nodes = q.nodes ∧ t.mem = s.mem ∧
            (k ∈ w.members → Tab.wf (s.core k).steps = true → (List.range 16).map (fun n => Tab.get (t.core k).steps n) =
              [BitVec.ofNat 64 q.step, lo 0, hi 0, lo 1, lo 2, hi 2, lo 3, hi 3, lrw e 4, hi 1, lo 6, hi 6, lo 7,
               if dl = 0 then 0 else q.began + BitVec.ofNat 64 dl + q.slip, q.began,
               BitVec.ofNat 64 ((if (lrw e 5).getLsbD 63 then 1 else 0) + (if (lrw w.lr 0).getLsbD 7 then 2 else 0) +
                 (if q.step + 1 = bf q.ctl 43 32 then 4 else 0) + bf q.ctl 43 32 * 2 ^ 16)]))) ∧
        (entryOk e = false → Gives (.seqLoad d) s (fun t => (now t).st = .stopped ∧ (now t).err = 2 ∧ t.cores = s.cores))) ∧
      (∀ n a p, q.st = .run → (s.nextReturned w q = some (n, a, p) ∨
          (s.nextReturned w q = none ∧ s.nextTile i w q (List.range q.nodes.length) = some (n, a, p))) → w.phys p < s.cores.length →
        Gives (.tileDeliver d) s (fun t =>
          (t.core (w.phys p)).eng.tileq = (s.core (w.phys p)).eng.tileq ++ [BitVec.ofNat 64
            (n * 2 ^ 48 + q.step % 256 * 2 ^ 40 + bf (q.node n).n0 63 56 * 2 ^ 32 + a * 2 ^ 16 + bf (q.node n).n0 15 0)] ∧
          (now t).out = q.out ++ [⟨n, a, w.phys p, none⟩] ∧ t.mem = s.mem)) ∧
      (∀ y src dst n, q.st = .run → q.copies.head? = some y → y.flt = none → q.slog = [] → copyPlan (q.blk y.blk) y = some (src, dst, n) → s.MemOk →
        s.moves = [] → y.got = 0 → y.put = 0 →
        let x := s.seqXlat w
        let pa (va : Nat) : Nat := (va + x.ho.toNat) % 2 ^ 64
        let ev : Instr := if y.skip then .skipCopy d else .reuseUpdate d
        inHeap x src = true → inHeap x dst = true → heapOk x .copySrc = true → heapOk x .copyDst = true →
        s.heldAt (pa src) n = false → s.heldAt (pa dst) n = false → inHbm (pa src) n = true → inHbm (pa dst) n = true →
          Gives ev s (fun t => (∀ o, o < n → Tab.get t.mem (pa dst + o) = Tab.get s.mem (pa src + o)) ∧ s.OnlyBytes t (pa dst) n ∧
            ∃ z, (now t).copies.head? = some z ∧ z.id = y.id ∧ z.pos = y.pos + n)) ∧
      (∀ y l, q.st = .run → q.copies = y :: l → y.flt = none → copyPlan (q.blk y.blk) y = none → q.slog.any (fun e => decide (e.src = y.id)) = false →
        (y.skip = true → Gives (.skipCopy d) s (fun t => (now t).copies = l ∧ t.mem = s.mem ∧
          ∀ x ∈ (now t).nodes, x.reuse = true → x.block = y.blk → x.complete = true)) ∧
        (y.skip = false → Gives (.reuseUpdate d) s (fun t => (now t).copies = l ∧ (now t).tag y.blk = ⟨true, q.step⟩ ∧ t.mem = s.mem)))) ∧
    (∀ r l, (s.core k).eng.sq = r :: l → (s.core k).reportReady r = true → s.seqDie r.who.crew = some i →
      let n := bf r.word 55 48
      let a := bf r.word 31 16
      let x := q.node n
      let matching := r.word = tileWordOf q.step n x a ∧ x.probe = r.val.isSome
      (∀ o, matching → n < q.nodes.length → q.out.find? (fun o => decide (o.node = n) && decide (o.tile = a)) = some o →
        Gives (.reportPerform k) s (fun t => (t.core k).eng.sq = l ∧ ((now t).node n).doneT = x.doneT ++ [a] ∧ o ∉ (now t).out ∧
          (x.probe = false → x.doneT.length + 1 = x.tiles → ((now t).node n).complete = true) ∧
          (∀ y, r.val = some y → ((now t).node n).reps = x.reps ++ [(a, y)]))) ∧
      (¬ matching ∨ q.out.all (fun o => decide (o.node ≠ n) || decide (o.tile ≠ a)) = true →
        Gives (.reportPerform k) s (fun t => (t.core k).eng.sq = l ∧ (now t).badrep = min (q.badrep + 1) 0xFFFF ∧ (now t).nodes = q.nodes ∧
          (now t).out = q.out))) ∧
    (∀ n, q.st = .run → n < q.nodes.length → (q.node n).probe = true → (q.node n).decided = false → q.predsDone (q.node n) = true →
      let b := (q.node n).block
      let passed (t : State) : Prop := ((now t).node n).decided = true ∧ ((now t).node n).complete = true
      (s.eligible i b = false → Gives (.probeDecision d n) s (fun t => passed t ∧ (now t).copies = q.copies)) ∧
      (s.eligible i b = true → (q.node n).tiles ≤ (q.node n).doneT.length →
        (skips (q.blk b) (q.node n) = true → Gives (.probeDecision d n) s (fun t => passed t ∧
          (now t).copies = q.copies ++ [{ id := s.nextId, blk := b, skip := true, pos := 0, slots := [], flt := none }] ∧ t.nextId = s.nextId + 1)) ∧
        (skips (q.blk b) (q.node n) = false → Gives (.probeDecision d n) s (fun t => passed t ∧ (now t).copies = q.copies)))) ∧
    (q.st = .close → Gives (.stepClose d) s (fun t => t.mem = s.mem ∧ (now t).step = (if q.step + 1 < bf q.ctl 43 32 then q.step + 1 else q.step) ∧
      (now t).st = (if q.step + 1 < bf q.ctl 43 32 then .load else .done) ∧
      (q.step + 1 < bf q.ctl 43 32 → (now t).began = s.time ∧ ∀ x ∈ (now t).nodes, x.complete = false ∧ x.doneT = [] ∧ x.reps = [])))

/-! ### The governor and power gating -/

/-- R192 to R200, R157, R396: an evaluation adds the package's energy of the period and, outside reduced service, asks for a point for every
quadrant: with the governor off 1,250 MHz and 350 mV with every pattern all ones, below the power limit never less than the quadrant's clusters
call for, each at the fused minimum supply of its clock or as it was. A ramp raises the supply before the clock and lowers the clock before the supply.
A core in HOLD is gated after the break-even time, stays gated, and wakes with its arrays, scratchpad and instruction memory zero;
PWR_GATE.EN = 0 wakes every core of the die; droop pressure reaches every core of its quadrant. How points are lowered is log entry 34, that all ones
comes before XPAT log entry 57, and that a power equal to PLIM does not exceed it log entry 62. -/
def Obligations.PowerEventsComplete : Prop :=
  ∀ (s : State) (d : Bool) (n : BitVec 2) (k watts : Nat) (beh : BitVec 16) (on : Bool) (since : BitVec 64),
    s.cores.length = 256 → s.clusters.length = 16 → s.dies.length = 2 → (∀ i, i < 2 → (s.die i).quads.length = 4) → k < 256 → s.MemOk →
    let i := if d then 1 else 0
    let quad (t : State) (j : Nat) : Quad := (t.die (j / 4)).quads.getD (j % 4) Quad.reset
    let x := quad s (i * 4 + n.toNat)
    let energy (t : State) : Prop := t.head.energy = s.head.energy + BitVec.ofNat 64 (watts * max 1 (bf s.head.govCtl 47 40) * 1000)
    let woken (g : Gate) : Gate := match g with
      | .active | .hold _ => .active
      | .gating _ => .gating true
      | .gated | .waking => .waking
    Gives (.govEvaluate watts) s (fun t => energy t ∧ t.mem = s.mem ∧ t.cores = s.cores ∧
      (s.head.held = true → t.clusters = s.clusters ∧ ∀ j, j < 8 → quad t j = quad s j) ∧
      (s.head.held = false → wb s.head.govCtl 0 = false → (∀ c, c < 16 → (t.cluster c).pat = 0xFFFF) ∧
        ∀ j, j < 8 → (quad t j).mhzT = 1250 ∧ (quad t j).mvT = 350) ∧
      (s.head.held = false → wb s.head.govCtl 0 = true → ∀ j, j < 8 →
        (quad t j).mhz = (quad s j).mhz ∧ (quad t j).mv = (quad s j).mv ∧
        (watts ≤ min 1800 (bf s.head.govCtl 15 4) → ∃ m, m = (((s.meter watts).evalSeq 0).evalSeq 1).quadClock j ∧ m ≤ (quad t j).mhzT ∧
          ((quad t j).mhzT = m ∧ (quad t j).mvT = Config.fusedMinMv j m ∨ (quad t j).mhzT = (quad s j).mhzT ∧ (quad t j).mvT = (quad s j).mvT)))) ∧
    Gives (.quadrantRampDone d n) s (fun t =>
      let y := quad t (i * 4 + n.toNat)
      y.mhzT = x.mhzT ∧ y.mvT = x.mvT ∧ t.mem = s.mem ∧
      (x.ramp = true → (x.mhz < x.mhzT → x.mv ≠ x.mvT → y.mv = x.mvT ∧ y.mhz = x.mhz ∧ y.ramp = true) ∧
        (x.mhz < x.mhzT → x.mv = x.mvT → y.mhz = x.mhzT ∧ y.mv = x.mv ∧ y.ramp = false) ∧
        (x.mhzT < x.mhz → y.mhz = x.mhzT ∧ y.mv = x.mv) ∧ (x.mhz = x.mhzT → y.mv = x.mvT ∧ y.mhz = x.mhz ∧ y.ramp = false)) ∧
      (x.ramp = false → y = x)) ∧
    ((s.core k).gate = .hold since → s.coreIdle k = true → max 1 (s.die (k / 128)).gateBeh.toNat * 1000 ≤ (s.time - since).toNat →
      exec (.gateHoldExpire k) s = .next (s.modCore k (fun c => { c with gate := .gating false }))) ∧
    ((s.core k).gate = .gating on → exec (.gatingDone k) s = .next (s.modCore k (fun c => { c with gate := if on then .waking else .gated }))) ∧
    exec (.wakeRequest k) s = .next (s.modCore k (fun c => { c with gate := woken c.gate })) ∧
    ((s.core k).gate = .waking → Gives (.wakeComplete k) s (fun t =>
      let c := t.core k
      let base := 0x20000000000 + k / 128 * 0x8000000 + k % 128 * 0x100000
      c.gate = .active ∧ c.tiles = [] ∧ c.acc = [] ∧ c.scales = [] ∧ c.imem = [] ∧ c.lastCrew = none ∧ s.OnlyBytes t base 0xC0000 ∧
        ∀ a, base ≤ a → a < base + 0xC0000 → Tab.get t.mem a = 0)) ∧
    Gives (.pwrGateDisable d beh) s (fun t => (t.die i).gateEn = false ∧ (t.die i).gateBeh = beh ∧ t.mem = s.mem ∧
      (k / 128 = i → (t.core k).gate = woken (s.core k).gate) ∧ (k / 128 ≠ i → t.core k = s.core k)) ∧
    Gives (.droopPressureChange d n on) s (fun t => t.mem = s.mem ∧
      (k / 32 = i * 4 + n.toNat → t.core k = { s.core k with press := on }) ∧ (k / 32 ≠ i * 4 + n.toNat → t.core k = s.core k))

/-! ### Debugger access and the heap-window registers -/

/-- R29 to R31, R162, R170 to R172: RESUME lets a parked context issue the bundle at its PC, or go on waiting where it was parked while it waited,
and the members of its lock-step group that were parked with it go on too: a participant of a barrier that was parked before its publish was
over arrives, and a member in FUSE may be the last of its group; STEP lets it issue one bundle; KILL ends it as HALT does; and
each leaves a context that is not parked alone; STOP posts the debug condition for a context that is neither parked nor absent. CX_DDATA of a
parked context writes the piece that CX_DSEL names, which then reads back. CX_HCTL.EN is accepted, and stays, only for a window that passes
the checks of R30. That halted queues go on, that a breakpoint is passed once and whom a RESUME resumes are log entries 26 and 29. -/
def Obligations.DebugEventsComplete : Prop :=
  ∀ (s : State) (k r : Nat) (v : Word) (which : BitVec 2), k < s.cores.length → r < 2 →
    let c := s.ctx k r
    let now (t : State) : Ctx := t.ctx k r
    let parked := c.mode = .trapped ∨ c.mode = .debug ∨ c.mode = .group
    let freed (t : State) : Prop := ∀ q, q < 4 → ∀ x ∈ (t.core k).eng.ce q, x.failed = true → x.who.uid ≠ c.uid
    let waits (m : CtxMode) : Prop := (∃ sc a, m = .barrier sc a) ∨ (∃ q, m = .fuseWait q) ∨ m = .rejoinWait
    let quiet : Prop := ∀ p ∈ k :: s.groupOf k, ∀ q, q < 2 → ¬ waits (s.ctx p q).mode ∧ ¬ waits (s.ctx p q).was
    let alone : Prop := s.groupOf k = [k] ∧ (s.ctx k (1 - r)).mode = .empty
    (parked →
      (let others (t : State) : Prop := ∀ p q, c.mode ≠ .group → p ∈ s.groupOf k → p < s.cores.length → p ≠ k → q < 2 → (s.ctx p q).mode = .group →
         (t.ctx p q).mode = (s.ctx p q).was
       (quiet → Gives (.cxResume k r) s (fun t =>
         now t = { c with mode := c.was, was := .running, stallCnt := 0, skipBrk := true } ∧ freed t ∧ others t ∧ t.mem = s.mem) ∧
        Gives (.cxStep k r) s (fun t =>
         now t = { c with mode := c.was, was := .running, stallCnt := 0, skipBrk := true, stepOne := true } ∧ freed t ∧ others t ∧ t.mem = s.mem)) ∧
       (let gone (t : State) : Prop := (now t).regs = { c.regs with rings := (now t).regs.rings } ∧ ((now t).mode = c.was ∨ waits c.was) ∧ freed t
        Gives (.cxResume k r) s gone ∧ Gives (.cxStep k r) s (fun t => gone t ∧ (now t).stepOne = true))) ∧
      (∀ sc w m, alone → c.was = .barrier sc false → s.crew? c.crew = some w → c.pubs.any (fun p => decide (p.kind = .pbar)) = false →
        (let here (m : Nat) : Prop := ∃ e ∈ w.arrived, e.1 = sc ∧ e.2.1 = w.lcore m
         k ∈ w.members → m ∈ w.members → m ≠ k → sameInst sc k m = true → ¬ here k → ¬ here m →
         Gives (.cxResume k r) s (fun t => (now t).mode = .barrier sc true ∧ t.mem = s.mem ∧
           ∃ x, t.crew? c.crew = some x ∧ ∃ e ∈ x.arrived, e.1 = sc ∧ e.2.1 = w.lcore k))) ∧
      (∀ q, alone → c.was = .fuseWait q →
        (∀ p ∈ fuseCores q k, p < s.cores.length ∧ (p ≠ k → (s.ctx p (s.onlyCtx p)).mode = .fuseWait q)) →
        Gives (.cxResume k r) s (fun t => ∀ p ∈ fuseCores q k,
          (t.ctx p (t.onlyCtx p)).mode = .running ∧ (t.core p).fuse = some ⟨q, false⟩)) ∧
      exec (.cxStop k r) s = .next (s.wake k) ∧
      Gives (.cxKill k r) s (fun t => (now t).mode = .empty ∧ (now t).landing = [] ∧ (now t).qld = [] ∧ freed t ∧
        ((∀ q, q < 2 → ∀ e ∈ (s.ctx k q).landing, e.stores = true → e.id ∉ (s.core k).inPubs) → t.mem = s.mem) ∧
        (t.core k).orphans = (s.core k).orphans ++ c.pubs ∧
        ∀ w, s.crew? c.crew = some w → ∃ x, t.crew? c.crew = some x ∧ x.ended = w.ended ++ [⟨c.uid, w.lcore k, r, c.regs.pc, c.regs.tick⟩]) ∧
      (let e := c.sel
       let core := s.core k
       let written (P : State → Prop) : Prop := Gives (.cxDdataWrite k r v) s (fun t => P t ∧ t.mem = s.mem)
       Tab.wf c.regs.s = true → Tab.wf core.tiles = true → Tab.wf core.acc = true → Tab.wf core.scales = true → Tab.wf core.steps = true →
       written (fun _ => True) ∧
       (e.cls = 0 → e.index < 32 → e.piece = 0 → written (fun t => (now t).regs.getS (BitVec.ofNat 5 e.index) = if e.index = 0 then 0 else v)) ∧
       (e.cls = 1 → e.piece = 0 → written (fun t => (now t).regs.p = v.setWidth 8 ||| 1)) ∧
       (∀ i, e.cls = 3 → e.piece < 16 → s.selTile k r e.index = some i → written (fun t =>
         ∀ j, j < 1024 → (Tab.get (t.core k).tiles i).getLsbD j =
           if 64 * e.piece ≤ j ∧ j < 64 * e.piece + 64 then v.getLsbD (j - 64 * e.piece) else (Tab.get core.tiles i).getLsbD j)) ∧
       ((e.cls = 2 ∧ e.index < 32 ∧ 64 * e.piece < latchBits (e.index / 4)) ∨ (e.cls = 4 ∧ (s.selAcc k r e.index e.piece).isSome = true) ∨
         (e.cls = 5 ∧ e.index < 8 ∧ e.piece < 8) ∨ (e.cls = 6 ∧ e.index < 16 ∧ e.piece = 0) → written (fun t => t.selGet k r = v)))) ∧
    (¬ parked → exec (.cxResume k r) s = .next (s.wake k) ∧ exec (.cxStep k r) s = .next (s.wake k) ∧ exec (.cxKill k r) s = .next (s.wake k) ∧
      exec (.cxDdataWrite k r v) s = .next (s.wake k) ∧
      (c.mode = .empty → exec (.cxStop k r) s = .next (s.wake k)) ∧
      (c.mode ≠ .empty → Gives (.cxStop k r) s (fun t => now t = { c with conds := c.conds ++ [⟨.debug, 0, 0, none⟩] } ∧ t.mem = s.mem))) ∧
    (let x := c.xl
     let fits (hb hl ho : Word) : Bool := decide (0x10000 ≤ hl.toNat ∧ hb.toNat + hl.toNat ≤ 0x00FF000000000000 ∧
       (hb.toNat + ho.toNat) % 2 ^ 64 + hl.toNat ≤ 0x6000000000)
     let keeps (y : Xlat) : Xlat := if wb x.hctl 0 && !fits y.hb y.hl y.ho then { y with hctl := (x.hctl &&& 6) ||| 8 } else y
     Gives (.cxHctlWrite k r v) s (fun t => t.mem = s.mem ∧ now t = { c with xl := { x with
       hctl := (v &&& 6) ||| (if wb v 0 = false then x.hctl &&& 8 else if fits x.hb x.hl x.ho then 1 else 8) } }) ∧
     Gives (.heapWindowRegWrite k r which v) s (fun t => t.mem = s.mem ∧ now t = { c with xl :=
       (if which = 0 then keeps ({ x with hb := v &&& 0x00FFFFFFFFFF0000 } : Xlat)
        else if which = 1 then keeps ({ x with hl := v &&& 0x0000FFFFFFFF0000 } : Xlat)
        else if which = 2 then keeps ({ x with ho := v &&& 0xFFFFFFFFFFFF0000 } : Xlat) else x) }))

/-! ### Command processors -/

/-- R380 to R388: the doorbell, RESUME and SEAL act on their queue alone. The packet whose turn it is is taken; NOP completes, WRITE stores its
value at the place its pointer names, WAIT waits until its condition holds, LAUNCH hands the crew of a record that passes the checks to the
arbiter and else completes with REFUSED, KILL takes a waiting crew from the arbiter and ends a running one, ATTEST writes the report or the
identity, FWLOAD begins to load, and its end fills the inactive bank and verifies it (log entry 45); a pointer that no capability backs is a CAPFAULT, and a failure halts the queue. A
completion enters its ring. The places named lie in HBM4E, and no word holds an upset. The readings of these
rules are log entry 40. -/
def Obligations.CommandProcessorEventsComplete : Prop :=
  ∀ (s : State) (q : BitVec 6) (v : BitVec 32) (i : BitVec 3) (a b : Nat), q.toNat < s.head.queues.length → s.MemOk → s.upsets = [] →
    let c := s.cpq q.toNat
    let now (t : State) : Cpq := t.cpq q.toNat
    let p := s.pkt c
    let taken (ty : Nat) (used : List Nat) := s.turn q.toNat = true ∧ inHbm c.pktAt 64 = true ∧ pktType p = ty ∧ pktBreach p used = none
    let ended (t : State) (st w sub : Nat) : Prop := (now t).head = c.head + 1 ∧ (now t).halt = (decide (st ≠ 0) && decide (st ≠ 5)) ∧
      (now t).pend = if pktCmpl p then c.pend ++ [⟨(⟨st, w, sub⟩ : Ending).word0 (pktTag p), s.time⟩] else c.pend
    let waits (t : State) : Prop := (now t).head = c.head + 1 ∧ (now t).pend = c.pend ∧ (now t).halt = false
    let holds (t : State) (a : Nat) (l : List Byte) : Prop := s.OnlyBytes t a l.length ∧ ∀ j, j < l.length → Tab.get t.mem (a + j) = l.getD j 0
    Gives (.cpqDoorbell q v) s (fun t => now t = { c with tail := v } ∧ t.mem = s.mem) ∧
    Gives (.cpqResume q) s (fun t => now t = { c with halt := false } ∧ t.mem = s.mem) ∧
    (c.caps.length = 8 → Gives (.cpqCapSeal q i) s (fun t => t.mem = s.mem ∧
      (let k := c.cap i.toNat
       let n := bf k.hi 51 0
       (now t).cap i.toNat = { k with hi := putField k.hi 63 63 (if 1 ≤ n ∧ (inHbm (bf k.lo 51 0) n = true ∨ inSlots (bf k.lo 51 0) n = true) then 1 else 0) }) ∧
      ∀ j, j ≠ i.toNat → (now t).cap j = c.cap j)) ∧
    (taken 0 [] → Gives (.nop q) s (fun t => ended t 0 0 0 ∧ t.mem = s.mem)) ∧
    (taken 3 [1, 2] → (s.ptr c (lrw p 1) 2 8 = some a → a % 8 = 0 → inHbm a 8 = true →
        Gives (.write q) s (fun t => ended t 0 0 0 ∧ holds t a (toBytes 8 (lrw p 2)))) ∧
      (s.ptr c (lrw p 1) 2 8 = none → Gives (.write q) s (fun t => ended t 2 1 0 ∧ t.mem = s.mem))) ∧
    (taken 4 [1, 2, 3] → s.ptr c (lrw p 1) 1 8 = some a → a % 8 = 0 → (Wc.dec (bf (lrw p 3) 2 0)).isSome = true →
      Gives (.wait q) s (fun t => waits t ∧ (now t).waitPkt = some p ∧ t.mem = s.mem)) ∧
    (∀ x cc, c.waitPkt = some x → s.head.fw.hover = false → s.ptr c (lrw x 1) 1 8 = some a → inHbm a 8 = true → Wc.dec (bf (lrw x 3) 2 0) = some cc →
      (wcHolds cc (s.read64 a) (lrw x 2) = true → Gives (.waitPacketComplete q) s (fun t => (now t).waitPkt = none ∧ t.mem = s.mem ∧
        (now t).pend = if pktCmpl x then c.pend ++ [⟨Ending.ok.word0 (pktTag x), s.time⟩] else c.pend)) ∧
      (wcHolds cc (s.read64 a) (lrw x 2) = false → exec (.waitPacketComplete q) s = .next s)) ∧
    (taken 1 [1] → s.ptr c (lrw p 1) 1 256 = some a → a % 64 = 0 → inHbm a 256 = true →
      let l := (List.range 32).map (fun j => s.read64 (a + 8 * j))
      let w := waitingCrew a l q.toNat p c.head
      (∀ x, s.chkRecord l = some x → Gives (.launch q) s (fun t => ended t 3 1 x ∧ t.crews = s.crews)) ∧
      (∀ (pas : List Nat), s.chkRecord l = none → pas.length = bf (lrw l 22) 3 0 →
        (∀ j, j < pas.length → s.flagPlace w (lrw l 21 + BitVec.ofNat 64 (8 * j)) = some (pas.getD j 0, s) ∧ s.named c 2 (pas.getD j 0) 8 = true) →
        s.chkCaps c w = none → w.prio ≤ c.prio →
          Gives (.launch q) s (fun t => waits t ∧ t.mem = s.mem ∧ t.crews = s.crews ++ [{ w with order := s.nextId, flagPas := pas }]))) ∧
    (taken 2 [1] →
      let named (x : Crew) : Bool := decide (x.queue = q.toNat) && decide (x.id.toNat = bf (lrw p 1) 15 0) && decide (x.st ≠ .done)
      (s.crews.find? named = none → Gives (.kill q) s (fun t => ended t 1 1 0 ∧ t.crews = s.crews)) ∧
      (∀ w, s.crews.find? named = some w →
        (w.st = .waiting → Gives (.kill q) s (fun t => (now t).head = c.head + 1 ∧ (∀ x ∈ t.crews, x.order = w.order → x.st = .done) ∧
          (∀ x ∈ s.crews, x.order ≠ w.order → x ∈ t.crews) ∧
          (now t).pend = c.pend ++ (if w.cmpl then [⟨(⟨5, 0, 0⟩ : Ending).word0 w.tag, s.time⟩] else []) ++
            ((w.kills ++ [(pktTag p, pktCmpl p, c.head)]).filter (fun x => x.2.1)).map (fun x => ⟨Ending.ok.word0 x.1, s.time⟩))) ∧
        (w.st = .running ∨ w.st = .preempted → Gives (.kill q) s (fun t => waits t ∧
          (∀ m r, m ∈ w.members → r < 2 → (t.ctx m r).crew = w.id → (t.ctx m r).mode = .empty) ∧
          ∃ x ∈ t.crews, x.order = w.order ∧ x.killed = true ∧ x.kills = w.kills ++ [(pktTag p, pktCmpl p, c.head)])))) ∧
    (taken 5 [1, 2, 3] → s.ptr c (lrw p 1) 1 64 = some a → inHbm a 64 = true →
      let out := if wb (lrw p 3) 0 then s.identity else s.report (s.read a 64)
      (s.ptr c (lrw p 2) 2 out.length = some b → inHbm b out.length = true → Gives (.attest q) s (fun t => ended t 0 0 0 ∧ holds t b out)) ∧
      (s.ptr c (lrw p 2) 2 out.length = none → Gives (.attest q) s (fun t => ended t 2 2 0 ∧ t.mem = s.mem))) ∧
    (taken 6 [1, 2] → s.head.fw.loading = none →
      (c.fwOk = false → Gives (.fwload q) s (fun t => ended t 1 0 0 ∧ t.head.fw = s.head.fw)) ∧
      (c.fwOk = true → s.ptr c (lrw p 1) 1 (lrw p 2).toNat = none → Gives (.fwload q) s (fun t => ended t 2 1 0 ∧ t.head.fw = s.head.fw)) ∧
      (c.fwOk = true → s.ptr c (lrw p 1) 1 (lrw p 2).toNat = some a →
        Gives (.fwload q) s (fun t => waits t ∧ t.mem = s.mem ∧ t.head.fw = { s.head.fw with stage := 1, loading := some (q.toNat, p, c.head) }))) ∧
    (∀ x idx, s.head.fw.loading = some (q.toNat, x, idx) → s.head.fwRuns = true → s.ptr c (lrw x 1) 1 (lrw x 2).toNat = some a →
      inHbm a (lrw x 2).toNat = true →
      let l := s.read a (lrw x 2).toNat
      let loaded (t : State) (stage : BitVec 2) (e : Ending) : Prop := t.head.fw.inactive = l ∧ t.head.fw.stage = stage ∧
        t.head.fw.loading = none ∧ t.head.fw.active = s.head.fw.active ∧ t.mem = s.mem ∧ (now t).head = c.head ∧
        (now t).halt = (c.halt || e.halts) ∧ (now t).pend = if pktCmpl x then c.pend ++ [⟨e.word0 (pktTag x), s.time⟩] else c.pend
      (imageOk l s.head.fw.fsvn = true → Gives (.fwload q) s (fun t => loaded t 2 ⟨0, 0, 0⟩)) ∧
      (imageOk l s.head.fw.fsvn = false → Gives (.fwload q) s (fun t => loaded t 3 ⟨6, 1, 0⟩))) ∧
    (∀ r l, c.pend = r :: l → c.cfull = false → s.ringOk (c.cap 1) 2 (c.csize * 16) = true →
      let e := (c.cap 1).base + c.ctail.toNat % c.csize * 16
      inHbm e 16 = true → Gives (.completionWrite q) s (fun t => (now t).pend = l ∧ (now t).ctail = c.ctail + 1 ∧
        holds t e (toBytes 8 r.w0 ++ toBytes 8 r.time)))

/-! ### Firmware and bring-up -/

/-- R386, R387, R394 to R397: a swap starts a hand-over of a verified bank, whose end makes the new firmware active if it accepts the state
block and else keeps the old; COMMIT raises the fused SVN; package reset leaves the machine as it is after reset but for the banks, the bank
last active and the fused SVN; RESET passes to BOOT, in which verification starts the first bank that verifies, the last active first, or fails; base training
leads to reduced service with pattern 0x5555, or fails; the repairs of reduced service are installed and lead to SWITCH, and its end
zero-fills the held ranges, releases them and begins full service. What STAGE keeps, when the pattern is set and how the operand of
REDUCED_WORK_DONE numbers shafts and faults are log entry 45. -/
def Obligations.BringUpEventsComplete : Prop :=
  ∀ (s : State) (ok : Bool) (faults : List (Nat × BitVec 64)) (n : Nat) (f : BitVec 64), s.cores.length = 256 → s.clusters.length = 16 →
    let w := s.head.fw
    let only (t : State) : Prop := t.mem = s.mem ∧ t.cores = s.cores ∧ t.crews = s.crews
    let fails (t : State) (c : BitVec 8) : Prop := t.head.phase = 7 ∧ t.head.fcode = c
    (w.stage = 2 → w.hover = false → Gives .fwSwap s (fun t => t.head.fw = { w with hover := true, hoverAt := s.time } ∧ only t)) ∧
    (w.stage ≠ 2 ∨ w.hover = true → exec .fwSwap s = .next s) ∧
    (w.hover = true →
      let v := (Config.stateBlockVersion w.aver).toNat
      let accepts := imgField w.inactive 0xC 2 ≤ v ∧ v ≤ imgField w.inactive 0xE 2
      (accepts → Gives .fwHandoverDone s (fun t => only t ∧ t.head.fw.active = w.inactive ∧ t.head.fw.inactive = w.active ∧
        t.head.fw.aver = imgVersion w.inactive ∧ t.head.fw.hover = false ∧ t.head.fw.rollbk = false)) ∧
      (¬ accepts → Gives .fwHandoverDone s (fun t => only t ∧ t.head.fw = { w with hover := false, rollbk := true }))) ∧
    (imgSvn w.active ≤ 4095 → Gives .fwCommit s (fun t => only t ∧ t.head.fw.fsvn.toNat = max w.fsvn.toNat (imgSvn w.active))) ∧
    Gives .packageReset s (fun t => t.mem = [] ∧ t.cores = State.reset.cores ∧ t.clusters = State.reset.clusters ∧ t.dies = State.reset.dies ∧
      t.crews = [] ∧ t.upsets = [] ∧ t.time = 0 ∧ t.resets = s.resets + 1 ∧ t.head.fw.act = w.act ∧ t.head.fw.fsvn = w.fsvn ∧
      t.head.fw.bank0 = w.bank0 ∧ t.head.fw.bank1 = w.bank1 ∧ t.head.phase = 0 ∧ t.head.held = true) ∧
    (s.head.phase = 0 → Gives .bootVerifyDone s (fun t => only t ∧ t.head.phase = 1 ∧ t.head.fw = w)) ∧
    (s.head.phase = 1 →
      (imageOk w.active w.fsvn = true → Gives .bootVerifyDone s (fun t => only t ∧ t.head.phase = 2 ∧ t.head.fw.act = w.act ∧
        t.head.fw.aver = imgVersion w.active)) ∧
      (imageOk w.active w.fsvn = false → imageOk w.inactive w.fsvn = true → Gives .bootVerifyDone s (fun t => only t ∧ t.head.phase = 2 ∧
        t.head.fw.act = !w.act ∧ t.head.fw.aver = imgVersion w.inactive)) ∧
      (imageOk w.active w.fsvn = false → imageOk w.inactive w.fsvn = false → Gives .bootVerifyDone s (fun t => only t ∧ fails t 1))) ∧
    (s.head.phase = 2 → Gives (.baseTrainingDone ok) s (fun t => only t ∧ (ok = true → t.head.phase = 3 ∧ t.head.held = s.head.held ∧
      ∀ c, c < 16 → (t.cluster c).pat = 0x5555) ∧ (ok = false → fails t 2 ∧ t.clusters = s.clusters))) ∧
    (s.head.phase = 3 →
      Gives (.reducedWorkDone faults) s (fun t => t.head.phase = 4 ∧ t.mem = s.mem ∧ t.crews = s.crews) ∧
      (n < 320 → Tab.wf (s.cluster (n / 160 * 8 + n % 160 / 4)).shafts = true → Gives (.reducedWorkDone [(n, f)]) s (fun t =>
        let v := if n % 160 < 32 then Tab.get (t.cluster (n / 160 * 8 + n % 160 / 4)).shafts (n % 160 % 4)
          else (t.core (n / 160 * 128 + (n % 160 - 32))).shaft
        let group (g : Nat) : Nat := bf f (4 * g + 1) (4 * g) + bf f (4 * g + 3) (4 * g + 2)
        (v.getLsbD 63 = true ↔ ∃ g, g < 16 ∧ 3 ≤ group g) ∧ (∀ g, g < 16 → bf v (2 * g + 1) (2 * g) = min 2 (bf f (4 * g + 1) (4 * g))) ∧
        bf v 62 32 = 0))) ∧
    (s.head.phase = 4 → (∀ x ∈ s.crews, x.holding = false) → ((s.rebind 0).bind (fun t => t.rebind 1)).isSome = true →
      Gives .switchDone s (fun t => t.head.phase = 5 ∧ t.head.held = false ∧ t.head.fullms = BitVec.ofNat 32 (s.time.toNat / 1000000) ∧
        t.crews = s.crews ∧ ∀ a, Tab.get t.mem a = if inHeld a 1 then 0 else Tab.get s.mem a))

/-! ### Agents outside the compute dies -/

/-- R8, R9, R22, R25, R109, R371 to R373, R376 to R379, R394: an inbound PCIe request that the IOMMU lets through untranslated, by its mode Bare
or by a device context without translation (log entry 59), over a link that is up, and the access of an application core that does not translate, to HBM4E
outside the held ranges, is performed at its home copy; a PCIe request elsewhere, and every one while the IOMMU is off, is unsupported, and one to
a held range is refused and logged; a posted write that a full die has no frame for, and a request whose source ACS does not accept, are logged as
a Completer Abort; over a link that is down nothing comes, and a legacy INTx message is dropped and counted. A store to an interrupt file is an
MSI. A hart that has not started does nothing; a started one takes an interrupt first, and goes on behind its access, with the value of a load in
its register, or takes an exception, for a misaligned or a page fault under Sv57 too, by its delegation (log entry 50). A register is written in the privileged view; a misaligned access, and in the unprivileged view a store that would change a
privileged field, is an access fault that changes nothing; a hole ignores a store. A root port takes EN, at which its link trains or goes down, and BIF, takes a new bifurcation at its link
reset, at which its link trains if EN is 1, and sends the MSI of the logical port of an event. The access codes that no table gives, what a
hart reaches and the AER report are log entries 38 and 63. -/
def Obligations.OutsideAccessesComplete : Prop :=
  ∀ (s : State) (x : OutAcc) (off : BitVec 33) (v : Word) (r : Reg) (port : Bool) (j : BitVec 2), s.MemOk → s.upsets = [] → s.head.pci.length = 2 →
    let a := x.addr.toNat
    let n := x.size
    let old : Word := BitVec.ofNat 64 (leNat (s.mem.read a n))
    let bytes (v : Row) : Prop := ∀ i, i < 1024 → v.getLsbD i = (decide (i < 8 * n) && memBit s.mem a i)
    let stored {w : Nat} (t : State) (v : BitVec w) : Prop := s.OnlyBytes t a n ∧ ∀ i, i < 8 * n → memBit t.mem a i = v.getLsbD i
    let performed (i : Instr) (ends : State → Prop) : Prop :=
      (x.kind = .load ∨ x.kind = .loadRow → Gives i s (fun t => (∃ w, t.resp = .value w ∧ bytes w) ∧ t.mem = s.mem ∧ ends t)) ∧
      (∀ w, x.kind = .store w → Gives i s (fun t => t.resp = .value 0 ∧ stored t w ∧ ends t)) ∧
      (∀ w, x.kind = .storeRow w → Gives i s (fun t => t.resp = .value 0 ∧ stored t w ∧ ends t)) ∧
      (∀ op b c, x.kind = .atom op b c → n = 4 ∨ n = 8 → Gives i s (fun t => t.resp = .value (old.setWidth 1024) ∧
        stored t (atomNew op (decide (n = 8)) old b c) ∧ ends t))
    let pci (t : State) : Pci := t.head.pci.getD (if port then 1 else 0) Pci.reset
    let back (t : State) : Pci := t.head.pci.getD (x.agent / 65536 / 4) Pci.reset
    let link := (back s).up = true
    let acs := ((back s).raw (x.agent / 65536 / 4) (x.agent / 65536 % 4) 0x146).getLsbD 0
    let ddt := bf s.head.iommu.ddtp 53 10 * 4096 + x.agent % 2 ^ 24 * 64
    let mode := bf s.head.iommu.ddtp 3 0
    let bare := link ∧ acs = false ∧ (mode = 1 ∨ mode = 2 ∧ x.agent % 2 ^ 24 < 64 ∧ inHbm ddt 64 = true ∧ s.heldAt ddt 64 = false ∧
      (List.range 8).map (fun i => s.read64 (ddt + 8 * i)) = [1, 0, 0, 0, 0, 0, 0, 0])
    let logged (t : State) (z : Resp) : Prop := t.resp = z ∧ (back t).aer = (back s).aer ++ [(x.agent / 65536 % 4, z)]
    let refused : Prop := bare → Gives (.inboundPcieRequest x) s (fun t => logged t .unsupported ∧ t.mem = s.mem)
    let h0 := s.head.harts.getD x.agent Hart.reset
    let runs := s.head.started = true ∧ x.agent < s.head.harts.length ∧ x.own = []
    let level : HartMode := if h0.mprv = true ∧ h0.mode = .m then h0.mpp else h0.mode
    let direct := runs ∧ s.head.hartIrq x.agent = none ∧ (level = .m ∨ bf h0.satp 63 60 ≠ 10)
    let sv57 := runs ∧ s.head.hartIrq x.agent = none ∧ level ≠ .m ∧ bf h0.satp 63 60 = 10
    let hart (P : Hart → Hart → Prop) (t : State) : Prop := ∀ h, s.head.harts[x.agent]? = some h → ∃ g, t.head.harts[x.agent]? = some g ∧ P h g
    let goes : State → Prop := hart (fun h g => g.pc = h.pc + x.len.setWidth 64 ∧ g.mode = h.mode ∧
      (x.kind = .load → x.sgn = false → n ≤ 8 → x.rd ≠ 0 → Tab.wf h.x = true →
        ∀ i, i < 64 → (Tab.get g.x x.rd.toNat).getLsbD i = (decide (i < 8 * n) && memBit s.mem a i)))
    let traps (load store : Nat) : Prop := Gives (.appCoreAccess x) s (fun t => t.resp = .accessFault ∧ t.mem = s.mem ∧ hart (fun h g =>
      let c := if x.kind = .load ∨ x.kind = .loadRow then load else store
      g.x = h.x ∧ if h.medeleg.getLsbD c = true ∧ h.mode ≠ .m
        then g.mode = .s ∧ g.spp = h.mode ∧ g.sepc = h.pc ∧ g.scause.toNat = c ∧ g.stval = x.addr ∧ g.pc = h.stvec &&& ~~~3
        else g.mode = .m ∧ g.mpp = h.mode ∧ g.mepc = h.pc ∧ g.mcause.toNat = c ∧ g.mtval = x.addr ∧ g.pc = h.mtvec &&& ~~~3) t)
    let answered (i : Instr) (z : Resp) : Prop := exec i s = .next { s with resp := z }
    (0 < n → n ≤ 128 → inHbm a n = true →
      (s.heldAt a n = false → (bare → performed (.inboundPcieRequest x) (fun _ => True)) ∧ (direct → performed (.appCoreAccess x) goes)) ∧
      (s.heldAt a n = true → refused ∧ (direct → traps 5 7))) ∧
    (0 < n → n ≤ 128 → inSpad a n = true ∨ inHalf a n = true → (direct → performed (.appCoreAccess x) goes) ∧ refused) ∧
    (s.head.started = false → exec (.appCoreAccess x) s = .next s) ∧
    (sv57 → (4096 < a % 4096 + n → traps 4 6) ∧ (a % 4096 + n ≤ 4096 → a / 2 ^ 56 ≠ 0 → a / 2 ^ 56 ≠ 255 → traps 13 15)) ∧
    (∀ c, runs → s.head.hartIrq x.agent = some c → h0.mideleg.getLsbD c = false →
      Gives (.appCoreAccess x) s (fun t => t.resp = .none ∧ t.mem = s.mem ∧ hart (fun h g => g.x = h.x ∧ g.mode = .m ∧ g.mie = false ∧
        g.mpie = h.mie ∧ g.mepc = h.pc ∧ g.mcause = BitVec.ofNat 64 (c + 2 ^ 63)) t)) ∧
    (¬ link → exec (.inboundPcieRequest x) s = .next s) ∧
    (link → 0 < n → acs = true → (x.agent / 256 % 256 = 0 ∨ x.agent / 256 % 256 < (back s).field (x.agent / 65536 / 4) (x.agent / 65536 % 4) 0x19 1) →
      Gives (.inboundPcieRequest x) s (fun t => logged t .abort ∧ t.mem = s.mem)) ∧
    (link → 0 < n → acs = false → mode = 0 → s.head.iommu.fqcsr.getLsbD 16 = false →
      Gives (.inboundPcieRequest x) s (fun t => logged t .unsupported ∧ t.mem = s.mem)) ∧
    (∀ w, bare → x.kind = .store w → 0 < n → inSlots a n = true → s.heldAt a n = false → s.touch a n none = none →
      Gives (.inboundPcieRequest x) s (fun t => logged t .abort ∧ t.mem = s.mem)) ∧
    (link → n = 0 → exec (.inboundPcieRequest x) s = .next (s.modHead (fun h => { h with msiDrop := h.msiDrop + 1 }))) ∧
    (∀ w f, x.kind = .store w → n = 4 → imsicFile a = some f → 1 ≤ bf w 31 0 → bf w 31 0 ≤ 2047 →
      (bare → Gives (.inboundPcieRequest x) s (fun t => t.resp = .value 0 ∧ (f, bf w 31 0) ∈ t.head.imsic ∧ t.mem = s.mem)) ∧
      (direct → Gives (.appCoreAccess x) s (fun t => t.resp = .value 0 ∧ (f, bf w 31 0) ∈ t.head.imsic ∧ t.mem = s.mem))) ∧
    (x.kind = .load → n = 8 → a = 0x40000000000 → direct → Gives (.appCoreAccess x) s (fun t => t.resp = .value (s.head.govCtl.setWidth 1024))) ∧
    (off.toNat % 8 ≠ 0 → ∀ p, answered (.regWrite p off v) .accessFault) ∧
    (off.toNat % 8 = 0 → regAt off.toNat = none → ∀ p, answered (.regWrite p off v) (.value 0)) ∧
    (off.toNat % 8 = 0 → regAt off.toNat = some r →
      Gives (.regWrite true off v) s (fun t => t.resp = .value 0 ∧ t = { (s.touchReg r).setReg r v with resp := .value 0 }) ∧
      ((s.touchReg r).trapsUser r v = true → Gives (.regWrite false off v) s (fun t =>
        t.resp = .accessFault ∧ t.mem = s.mem ∧ t.head = s.head ∧ t.dies = s.dies ∧ t.clusters = s.clusters))) ∧
    (off = 0 → Gives (.regWrite true off v) s (fun t => t.head.govCtl = v &&& 0x0000FFF0FFFFFFF1 ∧ t.mem = s.mem)) ∧
    Gives (.pciCtlWrite port v) s (fun t => (pci t).ctl = v &&& 0xD ∧ (pci t).bifNow = (pci s).bifNow ∧
      (pci t).up = v.getLsbD 0 ∧ t.mem = s.mem) ∧
    Gives (.linkReset port) s (fun t => (pci t).bifNow = BitVec.ofNat 2 (bf (pci s).ctl 3 2) ∧ (pci t).ctl = (pci s).ctl ∧
      (pci t).up = (pci s).ctl.getLsbD 0 ∧ t.mem = s.mem) ∧
    (∀ f, j.toNat < (if (pci s).bifNow = 1 then 2 else if (pci s).bifNow = 2 then 4 else 1) → 1 ≤ bf (pci s).msid 10 0 →
      bf (pci s).msid 10 0 + j.toNat ≤ 2047 → imsicFile (bf (pci s).msia 51 2 * 4) = some f →
      Gives (.rootPortEvent port j) s (fun t => (f, bf (pci s).msid 10 0 + j.toNat) ∈ t.head.imsic ∧ t.mem = s.mem))

/-! ### Frames, landings, the end of a bundle -/

/-- R51, R89, R204, R252 (and R168, by which a suppressed bundle changes nothing): a slot instruction that only lands results changes the
landing buffer of its own context and nothing else: no register, no mode, no queue, publish, refresh or counter of it, no other context, no
tile, accumulator or scale, no byte of memory and no register of a die or of the package; and it leaves the bundle in issue as it was. A near
store takes a number as well. A control instruction other than CALL and SUSP changes nothing but what it asks of the end of its bundle, SUSP that
and the reservation of its queue slot (R147), and CALL nothing but that request and its landing, whose place in the landing buffer is written
(R80, R84). The error logs record what the reads have met, and an injection armed for a place that is written is performed. -/
def Obligations.SlotFrame : Prop :=
  ∀ (i : Instr) (s t : State), exec i s = .next t → s.issue.res = .ok → t.issue.res = .ok →
    (onlyLands i = true → s.LandsOnly t ∧ t.issue = s.issue ∧ ((∀ p z a b k x, i ≠ .st p z a b k x) → (∀ p a b k x, i ≠ .vst p a b k x) →
      (∀ p z a b x, i ≠ .vsts p z a b x) → t.nextId = s.nextId)) ∧
    (asksOnly i = true → t = { s with issue := t.issue }) ∧
    (∀ p, i = .susp p ∨ i = .suspAny p → t = { s with issue := { s.issue with ctl := t.issue.ctl }, crews := t.crews } ∧
      (t.crews = s.crews ∨ ∃ q, t.crews = (s.modCrew s.ic.crew (fun w => { w with
        reserved := if w.reserved.contains q then w.reserved else w.reserved ++ [q] })).crews)) ∧
    (∀ p off, i = .call p off → s.LandsOnly t ∧ t.nextId = s.nextId ∧ t.issue = { s.issue with ctl := t.issue.ctl } ∧
      (s.upsets = [] → (∀ d, (s.die d).inj.getLsbD 63 = false) → t.upsets = [] ∧ t.dies = s.dies))

/-- R51, R208, R251, R404: results that are due land in the cycle in which their context's bundle issues or is suppressed: RESULT_LANDING makes that
cycle of its core the scheduler's next (log entry 46), and with nothing due it changes nothing. As it lands, a result leaves the landing buffer,
writes its destination, enters its slot's latch ring and raises its flags; whatever is not due stays. -/
def Obligations.ResultsLand : Prop :=
  ∀ (s : State) (k r : Nat) (e : Landing), k < s.cores.length → r < 2 → s.MemOk →
    let c := s.ctx k r
    let x := s.core k
    let now (t : State) : Regs := (t.ctx k r).regs
    (c.due = [] → exec (.resultLanding k r) s = .next s) ∧
    (c.due ≠ [] → ∃ t, exec (.resultLanding k r) s = .next t ∧ t = { s with agenda := .cycle k :: s.agenda } ∧ step t = (s.tickTime).cycle k) ∧
    (Tab.wf c.regs.s = true → Tab.wf c.regs.mp = true → Tab.wf x.tiles = true → Tab.wf x.acc = true → Tab.wf x.scales = true →
    (let t := landDue s k r
     (t.ctx k r).landing = c.landing.filter (fun y => !y.ready c.regs.tick) ∧
      (now t).tick = c.regs.tick ∧ (now t).pc = c.regs.pc ∧ (t.ctx k r).mode = c.mode ∧ t.issue = s.issue ∧ (c.due = [] → t.mem = s.mem)) ∧
    (c.due = [e] → e.tileWord = false →
      let lands (P : State → Prop) : Prop := P (landDue s k r)
      let ringed (t : State) : Prop := (now t).rings = c.regs.rings.push e.slot e.val ∧ t.mem = s.mem
      ((∀ y, e.dst ≠ .csr y) → lands (fun t => (now t).fflags = c.regs.fflags ||| e.fl)) ∧
      (e.dst = .none → lands (fun t => ringed t ∧ (now t).s = c.regs.s ∧ (now t).p = c.regs.p ∧ (t.core k).tiles = x.tiles)) ∧
      (∀ n, e.dst = .scal n → lands (fun t => ringed t ∧ ∀ m, (now t).getS m = if m = n ∧ m ≠ 0 then e.val.setWidth 64 else c.regs.getS m)) ∧
      (∀ n, e.dst = .pred n → lands (fun t => ringed t ∧ ∀ m, (now t).getP m = if m = n ∧ m ≠ 0 then e.val.getLsbD 0 else c.regs.getP m)) ∧
      (∀ dir n q, e.dst = .tile dir n q 1024 → lands (fun t => ringed t ∧ tileRead (t.core k).tiles n.toNat dir q.toNat = e.val ∧
        ∀ m q', m ≠ n.toNat → q' < 32 → m < 16 → tileRead (t.core k).tiles m dir q' = tileRead x.tiles m dir q')) ∧
      (∀ n, e.dst = .acc n → lands (fun t => ringed t ∧ ∀ m, Tab.get (t.core k).acc m = if m = n then e.val else Tab.get x.acc m)) ∧
      (∀ n, e.dst = .mp n → lands (fun t => ringed t ∧
        ∀ m, Tab.get (now t).mp m = if m = n.toNat then e.val.setWidth 64 else Tab.get c.regs.mp m)) ∧
      (∀ n, e.dst = .scale n → lands (fun t => ringed t ∧
        ∀ m, Tab.get (t.core k).scales m = if m = n.toNat then e.val.setWidth 512 else Tab.get x.scales m)) ∧
      (∀ bs, e.dst = .spad bs → (bs.map (·.1)).Nodup → lands (fun t => (now t).rings = c.regs.rings ∧
        (∀ y ∈ bs, Tab.get t.mem (spadBase k + y.1) = y.2) ∧
        ∀ b, (∀ y ∈ bs, b ≠ spadBase k + y.1) → Tab.get t.mem b = Tab.get s.mem b))))

/-- R151, R155, R202, R257 to R260, R209, R150: the end of a bundle advances the tick by one and the PC by the bundle's length, or to the
target of its transfer; a LOOP enters its body, or skips it when its count is 0; the last bundle of a body goes back to its first while
iterations are left; GIVE and TAKE change their token; YIELD zeroes the count of the yield watchdog; HALT frees the slot, and writes no memory
where no near store on its way to landing is covered by a publish (log entry 11). -/
def Obligations.BundlesEnd : Prop :=
  ∀ (s : State) (l : LoopSt) (pc : BitVec 18) (n : BitVec 2) (b : Bool), 
    let i := s.issue
    let c := s.ic
    let im := s.icore.imem
    let t := s.endBundle
    let now := t.ctx i.k i.r
    i.k < s.cores.length → i.r < 2 → i.post = [] → i.park = none → i.dec = false → c.stepOne = false →
    let plain := i.ctl = .next
    ((plain ∨ i.ctl = .goto pc ∨ i.ctl = .loop l ∨ i.ctl = .brk) →
      now.regs.tick = c.regs.tick + 1 ∧ now.regs.s = c.regs.s ∧ now.regs.rings = c.regs.rings ∧ now.mode = c.mode ∧ now.landing = c.landing ∧
        t.mem = s.mem ∧ now.stallCnt = 0 ∧ (i.yld = true → now.yieldCnt = 0) ∧ (i.toks = [] → now.regs.tok = c.regs.tok) ∧
        (i.toks = [(n, b)] → ∀ m : Nat, m < 4 → now.regs.tok.getLsbD m = if m = n.toNat then b else c.regs.tok.getLsbD m)) ∧
    (plain → c.regs.loops = [] → now.regs.pc = BitVec.ofNat 18 (i.pc.toNat + i.len) ∧ now.regs.loops = []) ∧
    (∀ ls, plain → c.regs.loops = l :: ls → l.last = i.pc → 1 < l.left →
      now.regs.pc = l.first ∧ now.regs.loops = { l with iter := l.iter + 1, left := l.left - 1 } :: ls) ∧
    (plain → c.regs.loops = [l] → l.last = i.pc → l.left ≤ 1 → now.regs.pc = BitVec.ofNat 18 (i.pc.toNat + i.len) ∧ now.regs.loops = []) ∧
    (plain → c.regs.loops = [l] → l.last ≠ i.pc → now.regs.pc = BitVec.ofNat 18 (i.pc.toNat + i.len) ∧ now.regs.loops = [l]) ∧
    (i.ctl = .goto pc → now.regs.pc = pc ∧ (c.regs.loops = [] → now.regs.loops = [])) ∧
    (i.ctl = .loop l → 0 < l.left → now.regs.pc = l.first ∧ now.regs.loops = l :: c.regs.loops) ∧
    (i.ctl = .loop l → l.left = 0 → c.regs.loops = [] → now.regs.pc = BitVec.ofNat 18 (afterPc im l.last.toNat) ∧ now.regs.loops = []) ∧
    (i.ctl = .brk → c.regs.loops = [l] → now.regs.pc = BitVec.ofNat 18 (afterPc im l.last.toNat) ∧ now.regs.loops = []) ∧
    (i.ctl = .halt → now.mode = .empty ∧ now.landing = [] ∧
      ((∀ q, q < 2 → ∀ e ∈ (s.ctx i.k q).landing, e.stores = true → e.id ∉ (s.core i.k).inPubs) → t.mem = s.mem))

/-! ### The whole machine -/

/-- Every step keeps memory in its canonical form and the package in its parts: no instruction and no event adds a byte twice, lists a byte
at the value of an unwritten one, or loses a core, a cluster, a die, a port or a queue. -/
def Obligations.StepKeepsSoundness : Prop := ∀ (s t : State), s.Sound → step s = .next t → t.Sound

/-- Nothing stops the machine: every instruction and every event leaves a next state, and so does every step. -/
def Obligations.NothingStops : Prop := (∀ (i : Instr) (s : State), ∃ t, exec i s = .next t) ∧ ∀ s, Runs s

/-- R7, R65, R82, R129, R137, R153, R156, R157, R163, R174, R193, R194, R199, R200, R381, R389, R392, R397: the state after package reset is sound,
and holds the reset values that the manual gives. -/
def Obligations.ResetState : Prop :=
  let s := State.reset
  s.Sound ∧ s.time = 0 ∧ s.crews = [] ∧
    (∀ c ∈ s.cores, c.c0.mode = .empty ∧ c.c1.mode = .empty ∧ c.ilim = 2048 ∧ c.splitEn = true ∧ c.splitMask = 0x78 ∧ c.gate = .active ∧
      c.cnt = ⟨0, 0, 0, 0, 0, 0, 0, 0⟩ ∧ c.c0.wdog = 0x0000001A00000018 ∧ c.c0.xl.hctl = 0) ∧
    (∀ c ∈ s.clusters, c.owner = 0xFFFF ∧ c.epoch = 0 ∧ c.exp = 0 ∧ c.arr = 0 ∧ c.lost = false ∧ c.clr = false ∧ c.act = false ∧ c.xpat = 0xFFFF ∧
      c.pat = 0xFFFF) ∧
    (∀ d ∈ s.dies, d.seq.ctl = 0xFFFF000000000000 ∧ d.seq.st = .idle ∧ d.flt.ctl = 0x0000006400400000 ∧ d.flt.prod = 0 ∧ d.flt.seq = 0 ∧
      d.scrub = 86400 ∧ d.gateEn = true ∧ d.gateBeh = 20 ∧ d.energy = 0 ∧ d.ifcred = 0 ∧ d.skipcred = 0 ∧
      ∀ q ∈ d.quads, q.mv = 350 ∧ q.mhz = 1250) ∧
    (let h := s.head
     bf h.govCtl 47 40 = 10 ∧ bf h.govCtl 39 36 = 3 ∧ bf h.govCtl 31 16 = 50 ∧ bf h.govCtl 15 4 = 1800 ∧ bf h.govCtl 0 0 = 1 ∧
     h.trsEtype = 0x88B5 ∧ h.trsTmo = 100 ∧ h.energy = 0 ∧ h.msiDrop = 0 ∧ h.invDone = 0 ∧ h.phase = 0 ∧ h.held = true ∧ h.fullms = 0 ∧ h.clus = 0 ∧
     ∀ q ∈ h.queues, ∀ c ∈ q.caps, wb c.hi 63 = false)
end

