-- ==== Sys2Proof/Laws/Bytes.lean ====
section
/-!
SUPPORT. Bytes and bits: what ofBytes, toBytes and Memory.read hold, bit by bit.
-/

namespace Sys2Proof.Machine

theorem leNat_cons (b : Byte) (l : List Byte) : leNat (b :: l) = b.toNat + 256 * leNat l := rfl

/-- Bit j of a little-endian number is bit j % 8 of byte j / 8. -/
theorem leNat_testBit (l : List Byte) (j : Nat) : (leNat l).testBit j = (l.getD (j / 8) 0#8).getLsbD (j % 8) := by
  induction l generalizing j with
  | nil => simp [leNat]
  | cons b l ih =>
    rw [leNat_cons]
    have h : b.toNat + 256 * leNat l = 2 ^ 8 * leNat l + b.toNat := by omega
    rw [h]
    rw [Nat.testBit_two_pow_mul_add _ b.isLt]
    by_cases hj : j < 8
    · have h0 : j / 8 = 0 := by omega
      have h1 : j % 8 = j := by omega
      simp [hj, h0, h1, BitVec.getLsbD]
    · obtain ⟨k, rfl⟩ : ∃ k, j = k + 8 := ⟨j - 8, by omega⟩
      have h0 : (k + 8) / 8 = k / 8 + 1 := by omega
      have h1 : (k + 8) % 8 = k % 8 := by omega
      simp [ih, h0, h1]

theorem ofBytes_getLsbD (w : Nat) (l : List Byte) (j : Nat) :
    (ofBytes w l).getLsbD j = (decide (j < w) && (l.getD (j / 8) 0#8).getLsbD (j % 8)) := by
  simp [ofBytes, BitVec.getLsbD_ofNat, leNat_testBit]

@[simp] theorem length_toBytes {w : Nat} (n : Nat) (v : BitVec w) : (toBytes n v).length = n := by simp [toBytes]

theorem getD_toBytes {w : Nat} (n : Nat) (v : BitVec w) (i : Nat) (h : i < n) : (toBytes n v).getD i 0#8 = v.extractLsb' (8 * i) 8 := by
  simp [toBytes, List.getD, h]

@[simp] theorem Memory.length_read (m : Memory) (a n : Nat) : (Memory.read m a n).length = n := by simp [Memory.read]

theorem Memory.getD_read (m : Memory) (a n i : Nat) (h : i < n) : (Memory.read m a n).getD i 0#8 = Tab.get m (a + i) := by
  simp [Memory.read, List.getD, h]

end Sys2Proof.Machine
end

