-- ==== Sys2Proof/Laws/State.lean ====
section
/-!
SUPPORT. What each update of the state leaves alone, field by field; reads of a core, a context, a die or a cluster after an update of
one; and the fields of a context's registers under their updates.
-/

namespace Sys2Proof.Machine

/-! ### Fields of the state -/

section

variable (s : State)

@[simp] theorem State.modCore_time (k : Nat) (f : Core → Core) : (s.modCore k f).time = s.time := rfl
@[simp] theorem State.modCore_steps (k : Nat) (f : Core → Core) : (s.modCore k f).steps = s.steps := rfl
@[simp] theorem State.modCore_free (k : Nat) (f : Core → Core) : (s.modCore k f).free = s.free := rfl
@[simp] theorem State.modCore_resets (k : Nat) (f : Core → Core) : (s.modCore k f).resets = s.resets := rfl
@[simp] theorem State.modCore_mem (k : Nat) (f : Core → Core) : (s.modCore k f).mem = s.mem := rfl
@[simp] theorem State.modCore_clusters (k : Nat) (f : Core → Core) : (s.modCore k f).clusters = s.clusters := rfl
@[simp] theorem State.modCore_dies (k : Nat) (f : Core → Core) : (s.modCore k f).dies = s.dies := rfl
@[simp] theorem State.modCore_head (k : Nat) (f : Core → Core) : (s.modCore k f).head = s.head := rfl
@[simp] theorem State.modCore_crews (k : Nat) (f : Core → Core) : (s.modCore k f).crews = s.crews := rfl
@[simp] theorem State.modCore_upsets (k : Nat) (f : Core → Core) : (s.modCore k f).upsets = s.upsets := rfl
@[simp] theorem State.modCore_nextId (k : Nat) (f : Core → Core) : (s.modCore k f).nextId = s.nextId := rfl
@[simp] theorem State.modCore_agenda (k : Nat) (f : Core → Core) : (s.modCore k f).agenda = s.agenda := rfl
@[simp] theorem State.modCore_moves (k : Nat) (f : Core → Core) : (s.modCore k f).moves = s.moves := rfl
@[simp] theorem State.modCore_focus (k : Nat) (f : Core → Core) : (s.modCore k f).focus = s.focus := rfl
@[simp] theorem State.modCore_issue (k : Nat) (f : Core → Core) : (s.modCore k f).issue = s.issue := rfl
@[simp] theorem State.modCore_resp (k : Nat) (f : Core → Core) : (s.modCore k f).resp = s.resp := rfl

@[simp] theorem State.modCtx_time (k r : Nat) (f : Ctx → Ctx) : (s.modCtx k r f).time = s.time := rfl
@[simp] theorem State.modCtx_steps (k r : Nat) (f : Ctx → Ctx) : (s.modCtx k r f).steps = s.steps := rfl
@[simp] theorem State.modCtx_free (k r : Nat) (f : Ctx → Ctx) : (s.modCtx k r f).free = s.free := rfl
@[simp] theorem State.modCtx_resets (k r : Nat) (f : Ctx → Ctx) : (s.modCtx k r f).resets = s.resets := rfl
@[simp] theorem State.modCtx_mem (k r : Nat) (f : Ctx → Ctx) : (s.modCtx k r f).mem = s.mem := rfl
@[simp] theorem State.modCtx_clusters (k r : Nat) (f : Ctx → Ctx) : (s.modCtx k r f).clusters = s.clusters := rfl
@[simp] theorem State.modCtx_dies (k r : Nat) (f : Ctx → Ctx) : (s.modCtx k r f).dies = s.dies := rfl
@[simp] theorem State.modCtx_head (k r : Nat) (f : Ctx → Ctx) : (s.modCtx k r f).head = s.head := rfl
@[simp] theorem State.modCtx_crews (k r : Nat) (f : Ctx → Ctx) : (s.modCtx k r f).crews = s.crews := rfl
@[simp] theorem State.modCtx_upsets (k r : Nat) (f : Ctx → Ctx) : (s.modCtx k r f).upsets = s.upsets := rfl
@[simp] theorem State.modCtx_nextId (k r : Nat) (f : Ctx → Ctx) : (s.modCtx k r f).nextId = s.nextId := rfl
@[simp] theorem State.modCtx_agenda (k r : Nat) (f : Ctx → Ctx) : (s.modCtx k r f).agenda = s.agenda := rfl
@[simp] theorem State.modCtx_moves (k r : Nat) (f : Ctx → Ctx) : (s.modCtx k r f).moves = s.moves := rfl
@[simp] theorem State.modCtx_focus (k r : Nat) (f : Ctx → Ctx) : (s.modCtx k r f).focus = s.focus := rfl
@[simp] theorem State.modCtx_issue (k r : Nat) (f : Ctx → Ctx) : (s.modCtx k r f).issue = s.issue := rfl
@[simp] theorem State.modCtx_resp (k r : Nat) (f : Ctx → Ctx) : (s.modCtx k r f).resp = s.resp := rfl

@[simp] theorem State.modRegs_time (k r : Nat) (f : Regs → Regs) : (s.modRegs k r f).time = s.time := rfl
@[simp] theorem State.modRegs_steps (k r : Nat) (f : Regs → Regs) : (s.modRegs k r f).steps = s.steps := rfl
@[simp] theorem State.modRegs_free (k r : Nat) (f : Regs → Regs) : (s.modRegs k r f).free = s.free := rfl
@[simp] theorem State.modRegs_resets (k r : Nat) (f : Regs → Regs) : (s.modRegs k r f).resets = s.resets := rfl
@[simp] theorem State.modRegs_mem (k r : Nat) (f : Regs → Regs) : (s.modRegs k r f).mem = s.mem := rfl
@[simp] theorem State.modRegs_clusters (k r : Nat) (f : Regs → Regs) : (s.modRegs k r f).clusters = s.clusters := rfl
@[simp] theorem State.modRegs_dies (k r : Nat) (f : Regs → Regs) : (s.modRegs k r f).dies = s.dies := rfl
@[simp] theorem State.modRegs_head (k r : Nat) (f : Regs → Regs) : (s.modRegs k r f).head = s.head := rfl
@[simp] theorem State.modRegs_crews (k r : Nat) (f : Regs → Regs) : (s.modRegs k r f).crews = s.crews := rfl
@[simp] theorem State.modRegs_upsets (k r : Nat) (f : Regs → Regs) : (s.modRegs k r f).upsets = s.upsets := rfl
@[simp] theorem State.modRegs_nextId (k r : Nat) (f : Regs → Regs) : (s.modRegs k r f).nextId = s.nextId := rfl
@[simp] theorem State.modRegs_agenda (k r : Nat) (f : Regs → Regs) : (s.modRegs k r f).agenda = s.agenda := rfl
@[simp] theorem State.modRegs_moves (k r : Nat) (f : Regs → Regs) : (s.modRegs k r f).moves = s.moves := rfl
@[simp] theorem State.modRegs_focus (k r : Nat) (f : Regs → Regs) : (s.modRegs k r f).focus = s.focus := rfl
@[simp] theorem State.modRegs_issue (k r : Nat) (f : Regs → Regs) : (s.modRegs k r f).issue = s.issue := rfl
@[simp] theorem State.modRegs_resp (k r : Nat) (f : Regs → Regs) : (s.modRegs k r f).resp = s.resp := rfl

@[simp] theorem State.modEng_time (k : Nat) (f : Engines → Engines) : (s.modEng k f).time = s.time := rfl
@[simp] theorem State.modEng_steps (k : Nat) (f : Engines → Engines) : (s.modEng k f).steps = s.steps := rfl
@[simp] theorem State.modEng_free (k : Nat) (f : Engines → Engines) : (s.modEng k f).free = s.free := rfl
@[simp] theorem State.modEng_resets (k : Nat) (f : Engines → Engines) : (s.modEng k f).resets = s.resets := rfl
@[simp] theorem State.modEng_mem (k : Nat) (f : Engines → Engines) : (s.modEng k f).mem = s.mem := rfl
@[simp] theorem State.modEng_clusters (k : Nat) (f : Engines → Engines) : (s.modEng k f).clusters = s.clusters := rfl
@[simp] theorem State.modEng_dies (k : Nat) (f : Engines → Engines) : (s.modEng k f).dies = s.dies := rfl
@[simp] theorem State.modEng_head (k : Nat) (f : Engines → Engines) : (s.modEng k f).head = s.head := rfl
@[simp] theorem State.modEng_crews (k : Nat) (f : Engines → Engines) : (s.modEng k f).crews = s.crews := rfl
@[simp] theorem State.modEng_upsets (k : Nat) (f : Engines → Engines) : (s.modEng k f).upsets = s.upsets := rfl
@[simp] theorem State.modEng_nextId (k : Nat) (f : Engines → Engines) : (s.modEng k f).nextId = s.nextId := rfl
@[simp] theorem State.modEng_agenda (k : Nat) (f : Engines → Engines) : (s.modEng k f).agenda = s.agenda := rfl
@[simp] theorem State.modEng_moves (k : Nat) (f : Engines → Engines) : (s.modEng k f).moves = s.moves := rfl
@[simp] theorem State.modEng_focus (k : Nat) (f : Engines → Engines) : (s.modEng k f).focus = s.focus := rfl
@[simp] theorem State.modEng_issue (k : Nat) (f : Engines → Engines) : (s.modEng k f).issue = s.issue := rfl
@[simp] theorem State.modEng_resp (k : Nat) (f : Engines → Engines) : (s.modEng k f).resp = s.resp := rfl

@[simp] theorem State.refresh_time (k : Nat) : (s.refresh k).time = s.time := rfl
@[simp] theorem State.refresh_steps (k : Nat) : (s.refresh k).steps = s.steps := rfl
@[simp] theorem State.refresh_free (k : Nat) : (s.refresh k).free = s.free := rfl
@[simp] theorem State.refresh_resets (k : Nat) : (s.refresh k).resets = s.resets := rfl
@[simp] theorem State.refresh_mem (k : Nat) : (s.refresh k).mem = s.mem := rfl
@[simp] theorem State.refresh_clusters (k : Nat) : (s.refresh k).clusters = s.clusters := rfl
@[simp] theorem State.refresh_dies (k : Nat) : (s.refresh k).dies = s.dies := rfl
@[simp] theorem State.refresh_head (k : Nat) : (s.refresh k).head = s.head := rfl
@[simp] theorem State.refresh_crews (k : Nat) : (s.refresh k).crews = s.crews := rfl
@[simp] theorem State.refresh_upsets (k : Nat) : (s.refresh k).upsets = s.upsets := rfl
@[simp] theorem State.refresh_nextId (k : Nat) : (s.refresh k).nextId = s.nextId := rfl
@[simp] theorem State.refresh_agenda (k : Nat) : (s.refresh k).agenda = s.agenda := rfl
@[simp] theorem State.refresh_moves (k : Nat) : (s.refresh k).moves = s.moves := rfl
@[simp] theorem State.refresh_focus (k : Nat) : (s.refresh k).focus = s.focus := rfl
@[simp] theorem State.refresh_issue (k : Nat) : (s.refresh k).issue = s.issue := rfl
@[simp] theorem State.refresh_resp (k : Nat) : (s.refresh k).resp = s.resp := rfl

@[simp] theorem State.modDie_time (d : Nat) (f : Die → Die) : (s.modDie d f).time = s.time := rfl
@[simp] theorem State.modDie_steps (d : Nat) (f : Die → Die) : (s.modDie d f).steps = s.steps := rfl
@[simp] theorem State.modDie_free (d : Nat) (f : Die → Die) : (s.modDie d f).free = s.free := rfl
@[simp] theorem State.modDie_resets (d : Nat) (f : Die → Die) : (s.modDie d f).resets = s.resets := rfl
@[simp] theorem State.modDie_mem (d : Nat) (f : Die → Die) : (s.modDie d f).mem = s.mem := rfl
@[simp] theorem State.modDie_cores (d : Nat) (f : Die → Die) : (s.modDie d f).cores = s.cores := rfl
@[simp] theorem State.modDie_clusters (d : Nat) (f : Die → Die) : (s.modDie d f).clusters = s.clusters := rfl
@[simp] theorem State.modDie_head (d : Nat) (f : Die → Die) : (s.modDie d f).head = s.head := rfl
@[simp] theorem State.modDie_crews (d : Nat) (f : Die → Die) : (s.modDie d f).crews = s.crews := rfl
@[simp] theorem State.modDie_upsets (d : Nat) (f : Die → Die) : (s.modDie d f).upsets = s.upsets := rfl
@[simp] theorem State.modDie_nextId (d : Nat) (f : Die → Die) : (s.modDie d f).nextId = s.nextId := rfl
@[simp] theorem State.modDie_agenda (d : Nat) (f : Die → Die) : (s.modDie d f).agenda = s.agenda := rfl
@[simp] theorem State.modDie_moves (d : Nat) (f : Die → Die) : (s.modDie d f).moves = s.moves := rfl
@[simp] theorem State.modDie_focus (d : Nat) (f : Die → Die) : (s.modDie d f).focus = s.focus := rfl
@[simp] theorem State.modDie_issue (d : Nat) (f : Die → Die) : (s.modDie d f).issue = s.issue := rfl
@[simp] theorem State.modDie_resp (d : Nat) (f : Die → Die) : (s.modDie d f).resp = s.resp := rfl

@[simp] theorem State.modSeq_time (d : Nat) (f : Seq → Seq) : (s.modSeq d f).time = s.time := rfl
@[simp] theorem State.modSeq_steps (d : Nat) (f : Seq → Seq) : (s.modSeq d f).steps = s.steps := rfl
@[simp] theorem State.modSeq_free (d : Nat) (f : Seq → Seq) : (s.modSeq d f).free = s.free := rfl
@[simp] theorem State.modSeq_resets (d : Nat) (f : Seq → Seq) : (s.modSeq d f).resets = s.resets := rfl
@[simp] theorem State.modSeq_mem (d : Nat) (f : Seq → Seq) : (s.modSeq d f).mem = s.mem := rfl
@[simp] theorem State.modSeq_cores (d : Nat) (f : Seq → Seq) : (s.modSeq d f).cores = s.cores := rfl
@[simp] theorem State.modSeq_clusters (d : Nat) (f : Seq → Seq) : (s.modSeq d f).clusters = s.clusters := rfl
@[simp] theorem State.modSeq_head (d : Nat) (f : Seq → Seq) : (s.modSeq d f).head = s.head := rfl
@[simp] theorem State.modSeq_crews (d : Nat) (f : Seq → Seq) : (s.modSeq d f).crews = s.crews := rfl
@[simp] theorem State.modSeq_upsets (d : Nat) (f : Seq → Seq) : (s.modSeq d f).upsets = s.upsets := rfl
@[simp] theorem State.modSeq_nextId (d : Nat) (f : Seq → Seq) : (s.modSeq d f).nextId = s.nextId := rfl
@[simp] theorem State.modSeq_agenda (d : Nat) (f : Seq → Seq) : (s.modSeq d f).agenda = s.agenda := rfl
@[simp] theorem State.modSeq_moves (d : Nat) (f : Seq → Seq) : (s.modSeq d f).moves = s.moves := rfl
@[simp] theorem State.modSeq_focus (d : Nat) (f : Seq → Seq) : (s.modSeq d f).focus = s.focus := rfl
@[simp] theorem State.modSeq_issue (d : Nat) (f : Seq → Seq) : (s.modSeq d f).issue = s.issue := rfl
@[simp] theorem State.modSeq_resp (d : Nat) (f : Seq → Seq) : (s.modSeq d f).resp = s.resp := rfl

@[simp] theorem State.modFlt_time (d : Nat) (f : Flt → Flt) : (s.modFlt d f).time = s.time := rfl
@[simp] theorem State.modFlt_steps (d : Nat) (f : Flt → Flt) : (s.modFlt d f).steps = s.steps := rfl
@[simp] theorem State.modFlt_free (d : Nat) (f : Flt → Flt) : (s.modFlt d f).free = s.free := rfl
@[simp] theorem State.modFlt_resets (d : Nat) (f : Flt → Flt) : (s.modFlt d f).resets = s.resets := rfl
@[simp] theorem State.modFlt_mem (d : Nat) (f : Flt → Flt) : (s.modFlt d f).mem = s.mem := rfl
@[simp] theorem State.modFlt_cores (d : Nat) (f : Flt → Flt) : (s.modFlt d f).cores = s.cores := rfl
@[simp] theorem State.modFlt_clusters (d : Nat) (f : Flt → Flt) : (s.modFlt d f).clusters = s.clusters := rfl
@[simp] theorem State.modFlt_head (d : Nat) (f : Flt → Flt) : (s.modFlt d f).head = s.head := rfl
@[simp] theorem State.modFlt_crews (d : Nat) (f : Flt → Flt) : (s.modFlt d f).crews = s.crews := rfl
@[simp] theorem State.modFlt_upsets (d : Nat) (f : Flt → Flt) : (s.modFlt d f).upsets = s.upsets := rfl
@[simp] theorem State.modFlt_nextId (d : Nat) (f : Flt → Flt) : (s.modFlt d f).nextId = s.nextId := rfl
@[simp] theorem State.modFlt_agenda (d : Nat) (f : Flt → Flt) : (s.modFlt d f).agenda = s.agenda := rfl
@[simp] theorem State.modFlt_moves (d : Nat) (f : Flt → Flt) : (s.modFlt d f).moves = s.moves := rfl
@[simp] theorem State.modFlt_focus (d : Nat) (f : Flt → Flt) : (s.modFlt d f).focus = s.focus := rfl
@[simp] theorem State.modFlt_issue (d : Nat) (f : Flt → Flt) : (s.modFlt d f).issue = s.issue := rfl
@[simp] theorem State.modFlt_resp (d : Nat) (f : Flt → Flt) : (s.modFlt d f).resp = s.resp := rfl

@[simp] theorem State.modCluster_time (c : Nat) (f : Cluster → Cluster) : (s.modCluster c f).time = s.time := rfl
@[simp] theorem State.modCluster_steps (c : Nat) (f : Cluster → Cluster) : (s.modCluster c f).steps = s.steps := rfl
@[simp] theorem State.modCluster_free (c : Nat) (f : Cluster → Cluster) : (s.modCluster c f).free = s.free := rfl
@[simp] theorem State.modCluster_resets (c : Nat) (f : Cluster → Cluster) : (s.modCluster c f).resets = s.resets := rfl
@[simp] theorem State.modCluster_mem (c : Nat) (f : Cluster → Cluster) : (s.modCluster c f).mem = s.mem := rfl
@[simp] theorem State.modCluster_cores (c : Nat) (f : Cluster → Cluster) : (s.modCluster c f).cores = s.cores := rfl
@[simp] theorem State.modCluster_dies (c : Nat) (f : Cluster → Cluster) : (s.modCluster c f).dies = s.dies := rfl
@[simp] theorem State.modCluster_head (c : Nat) (f : Cluster → Cluster) : (s.modCluster c f).head = s.head := rfl
@[simp] theorem State.modCluster_crews (c : Nat) (f : Cluster → Cluster) : (s.modCluster c f).crews = s.crews := rfl
@[simp] theorem State.modCluster_upsets (c : Nat) (f : Cluster → Cluster) : (s.modCluster c f).upsets = s.upsets := rfl
@[simp] theorem State.modCluster_nextId (c : Nat) (f : Cluster → Cluster) : (s.modCluster c f).nextId = s.nextId := rfl
@[simp] theorem State.modCluster_agenda (c : Nat) (f : Cluster → Cluster) : (s.modCluster c f).agenda = s.agenda := rfl
@[simp] theorem State.modCluster_moves (c : Nat) (f : Cluster → Cluster) : (s.modCluster c f).moves = s.moves := rfl
@[simp] theorem State.modCluster_focus (c : Nat) (f : Cluster → Cluster) : (s.modCluster c f).focus = s.focus := rfl
@[simp] theorem State.modCluster_issue (c : Nat) (f : Cluster → Cluster) : (s.modCluster c f).issue = s.issue := rfl
@[simp] theorem State.modCluster_resp (c : Nat) (f : Cluster → Cluster) : (s.modCluster c f).resp = s.resp := rfl

@[simp] theorem State.modHead_time (f : Head → Head) : (s.modHead f).time = s.time := rfl
@[simp] theorem State.modHead_steps (f : Head → Head) : (s.modHead f).steps = s.steps := rfl
@[simp] theorem State.modHead_free (f : Head → Head) : (s.modHead f).free = s.free := rfl
@[simp] theorem State.modHead_resets (f : Head → Head) : (s.modHead f).resets = s.resets := rfl
@[simp] theorem State.modHead_mem (f : Head → Head) : (s.modHead f).mem = s.mem := rfl
@[simp] theorem State.modHead_cores (f : Head → Head) : (s.modHead f).cores = s.cores := rfl
@[simp] theorem State.modHead_clusters (f : Head → Head) : (s.modHead f).clusters = s.clusters := rfl
@[simp] theorem State.modHead_dies (f : Head → Head) : (s.modHead f).dies = s.dies := rfl
@[simp] theorem State.modHead_crews (f : Head → Head) : (s.modHead f).crews = s.crews := rfl
@[simp] theorem State.modHead_upsets (f : Head → Head) : (s.modHead f).upsets = s.upsets := rfl
@[simp] theorem State.modHead_nextId (f : Head → Head) : (s.modHead f).nextId = s.nextId := rfl
@[simp] theorem State.modHead_agenda (f : Head → Head) : (s.modHead f).agenda = s.agenda := rfl
@[simp] theorem State.modHead_moves (f : Head → Head) : (s.modHead f).moves = s.moves := rfl
@[simp] theorem State.modHead_focus (f : Head → Head) : (s.modHead f).focus = s.focus := rfl
@[simp] theorem State.modHead_issue (f : Head → Head) : (s.modHead f).issue = s.issue := rfl
@[simp] theorem State.modHead_resp (f : Head → Head) : (s.modHead f).resp = s.resp := rfl

@[simp] theorem State.modCrew_time (id : BitVec 16) (f : Crew → Crew) : (s.modCrew id f).time = s.time := rfl
@[simp] theorem State.modCrew_steps (id : BitVec 16) (f : Crew → Crew) : (s.modCrew id f).steps = s.steps := rfl
@[simp] theorem State.modCrew_free (id : BitVec 16) (f : Crew → Crew) : (s.modCrew id f).free = s.free := rfl
@[simp] theorem State.modCrew_resets (id : BitVec 16) (f : Crew → Crew) : (s.modCrew id f).resets = s.resets := rfl
@[simp] theorem State.modCrew_mem (id : BitVec 16) (f : Crew → Crew) : (s.modCrew id f).mem = s.mem := rfl
@[simp] theorem State.modCrew_cores (id : BitVec 16) (f : Crew → Crew) : (s.modCrew id f).cores = s.cores := rfl
@[simp] theorem State.modCrew_clusters (id : BitVec 16) (f : Crew → Crew) : (s.modCrew id f).clusters = s.clusters := rfl
@[simp] theorem State.modCrew_dies (id : BitVec 16) (f : Crew → Crew) : (s.modCrew id f).dies = s.dies := rfl
@[simp] theorem State.modCrew_head (id : BitVec 16) (f : Crew → Crew) : (s.modCrew id f).head = s.head := rfl
@[simp] theorem State.modCrew_upsets (id : BitVec 16) (f : Crew → Crew) : (s.modCrew id f).upsets = s.upsets := rfl
@[simp] theorem State.modCrew_nextId (id : BitVec 16) (f : Crew → Crew) : (s.modCrew id f).nextId = s.nextId := rfl
@[simp] theorem State.modCrew_agenda (id : BitVec 16) (f : Crew → Crew) : (s.modCrew id f).agenda = s.agenda := rfl
@[simp] theorem State.modCrew_moves (id : BitVec 16) (f : Crew → Crew) : (s.modCrew id f).moves = s.moves := rfl
@[simp] theorem State.modCrew_focus (id : BitVec 16) (f : Crew → Crew) : (s.modCrew id f).focus = s.focus := rfl
@[simp] theorem State.modCrew_issue (id : BitVec 16) (f : Crew → Crew) : (s.modCrew id f).issue = s.issue := rfl
@[simp] theorem State.modCrew_resp (id : BitVec 16) (f : Crew → Crew) : (s.modCrew id f).resp = s.resp := rfl

/-- An injection changes the dies and the upsets alone (R84). -/
theorem State.injectIf_eq (hit : Nat → Nat → Nat → Bool) (d : Nat) :
    ∃ ds us, s.injectIf hit d = { s with dies := ds, upsets := us } := by
  unfold State.injectIf
  dsimp only
  split <;> exact ⟨_, _, rfl⟩

/-- The write of some words changes the dies and the upsets alone, where no injection is armed only the upsets (R80, R84). -/
theorem State.rewritten_eq (hit : Nat → Nat → Nat → Bool) : ∃ ds us, s.rewritten hit = { s with dies := ds, upsets := us } := by
  unfold State.rewritten
  obtain ⟨d0, u0, h0⟩ := (if s.upsets = [] then s else { s with upsets := s.upsets.filter (fun u => !hit u.die u.array u.loc) }).injectIf_eq hit 0
  dsimp only
  rw [h0]
  obtain ⟨d1, u1, h1⟩ := ({ (if s.upsets = [] then s else { s with upsets := s.upsets.filter (fun u => !hit u.die u.array u.loc) }) with
    dies := d0, upsets := u0 } : State).injectIf_eq hit 1
  rw [h1]
  split <;> exact ⟨_, _, rfl⟩

theorem State.clearUpsets_eq (ls : List (Nat × Nat × Nat)) : ∃ ds us, s.clearUpsets ls = { s with dies := ds, upsets := us } :=
  s.rewritten_eq _

@[simp] theorem State.clearUpsets_time (ls : List (Nat × Nat × Nat)) : (s.clearUpsets ls).time = s.time := by
  obtain ⟨_, _, h⟩ := s.clearUpsets_eq ls; rw [h]
@[simp] theorem State.clearUpsets_steps (ls : List (Nat × Nat × Nat)) : (s.clearUpsets ls).steps = s.steps := by
  obtain ⟨_, _, h⟩ := s.clearUpsets_eq ls; rw [h]
@[simp] theorem State.clearUpsets_free (ls : List (Nat × Nat × Nat)) : (s.clearUpsets ls).free = s.free := by
  obtain ⟨_, _, h⟩ := s.clearUpsets_eq ls; rw [h]
@[simp] theorem State.clearUpsets_resets (ls : List (Nat × Nat × Nat)) : (s.clearUpsets ls).resets = s.resets := by
  obtain ⟨_, _, h⟩ := s.clearUpsets_eq ls; rw [h]
@[simp] theorem State.clearUpsets_mem (ls : List (Nat × Nat × Nat)) : (s.clearUpsets ls).mem = s.mem := by
  obtain ⟨_, _, h⟩ := s.clearUpsets_eq ls; rw [h]
@[simp] theorem State.clearUpsets_cores (ls : List (Nat × Nat × Nat)) : (s.clearUpsets ls).cores = s.cores := by
  obtain ⟨_, _, h⟩ := s.clearUpsets_eq ls; rw [h]
@[simp] theorem State.clearUpsets_clusters (ls : List (Nat × Nat × Nat)) : (s.clearUpsets ls).clusters = s.clusters := by
  obtain ⟨_, _, h⟩ := s.clearUpsets_eq ls; rw [h]
@[simp] theorem State.clearUpsets_head (ls : List (Nat × Nat × Nat)) : (s.clearUpsets ls).head = s.head := by
  obtain ⟨_, _, h⟩ := s.clearUpsets_eq ls; rw [h]
@[simp] theorem State.clearUpsets_crews (ls : List (Nat × Nat × Nat)) : (s.clearUpsets ls).crews = s.crews := by
  obtain ⟨_, _, h⟩ := s.clearUpsets_eq ls; rw [h]
@[simp] theorem State.clearUpsets_nextId (ls : List (Nat × Nat × Nat)) : (s.clearUpsets ls).nextId = s.nextId := by
  obtain ⟨_, _, h⟩ := s.clearUpsets_eq ls; rw [h]
@[simp] theorem State.clearUpsets_moves (ls : List (Nat × Nat × Nat)) : (s.clearUpsets ls).moves = s.moves := by
  obtain ⟨_, _, h⟩ := s.clearUpsets_eq ls; rw [h]
@[simp] theorem State.clearUpsets_agenda (ls : List (Nat × Nat × Nat)) : (s.clearUpsets ls).agenda = s.agenda := by
  obtain ⟨_, _, h⟩ := s.clearUpsets_eq ls; rw [h]
@[simp] theorem State.clearUpsets_focus (ls : List (Nat × Nat × Nat)) : (s.clearUpsets ls).focus = s.focus := by
  obtain ⟨_, _, h⟩ := s.clearUpsets_eq ls; rw [h]
@[simp] theorem State.clearUpsets_issue (ls : List (Nat × Nat × Nat)) : (s.clearUpsets ls).issue = s.issue := by
  obtain ⟨_, _, h⟩ := s.clearUpsets_eq ls; rw [h]
@[simp] theorem State.clearUpsets_resp (ls : List (Nat × Nat × Nat)) : (s.clearUpsets ls).resp = s.resp := by
  obtain ⟨_, _, h⟩ := s.clearUpsets_eq ls; rw [h]

@[simp] theorem State.enterLanding_time (e : Landing) : (s.enterLanding e).time = s.time := by
  simp [State.enterLanding, State.modIc]
@[simp] theorem State.enterLanding_steps (e : Landing) : (s.enterLanding e).steps = s.steps := by
  simp [State.enterLanding, State.modIc]
@[simp] theorem State.enterLanding_free (e : Landing) : (s.enterLanding e).free = s.free := by
  simp [State.enterLanding, State.modIc]
@[simp] theorem State.enterLanding_resets (e : Landing) : (s.enterLanding e).resets = s.resets := by
  simp [State.enterLanding, State.modIc]
@[simp] theorem State.enterLanding_mem (e : Landing) : (s.enterLanding e).mem = s.mem := by
  simp [State.enterLanding, State.modIc]
@[simp] theorem State.enterLanding_clusters (e : Landing) : (s.enterLanding e).clusters = s.clusters := by
  simp [State.enterLanding, State.modIc]
@[simp] theorem State.enterLanding_head (e : Landing) : (s.enterLanding e).head = s.head := by
  simp [State.enterLanding, State.modIc]
@[simp] theorem State.enterLanding_crews (e : Landing) : (s.enterLanding e).crews = s.crews := by
  simp [State.enterLanding, State.modIc]
@[simp] theorem State.enterLanding_nextId (e : Landing) : (s.enterLanding e).nextId = s.nextId := by
  simp [State.enterLanding, State.modIc]
@[simp] theorem State.enterLanding_moves (e : Landing) : (s.enterLanding e).moves = s.moves := by
  simp [State.enterLanding, State.modIc]
@[simp] theorem State.enterLanding_agenda (e : Landing) : (s.enterLanding e).agenda = s.agenda := by
  simp [State.enterLanding, State.modIc]
@[simp] theorem State.enterLanding_focus (e : Landing) : (s.enterLanding e).focus = s.focus := by
  simp [State.enterLanding, State.modIc]
@[simp] theorem State.enterLanding_issue (e : Landing) : (s.enterLanding e).issue = s.issue := by
  simp [State.enterLanding, State.modIc]
@[simp] theorem State.enterLanding_resp (e : Landing) : (s.enterLanding e).resp = s.resp := by
  simp [State.enterLanding, State.modIc]

@[simp] theorem State.land_time (u : SlotId) (d : LandDst) (v : Row) (n : Nat) : (s.land u d v n).time = s.time := by
  simp [State.land]
@[simp] theorem State.land_steps (u : SlotId) (d : LandDst) (v : Row) (n : Nat) : (s.land u d v n).steps = s.steps := by
  simp [State.land]
@[simp] theorem State.land_free (u : SlotId) (d : LandDst) (v : Row) (n : Nat) : (s.land u d v n).free = s.free := by
  simp [State.land]
@[simp] theorem State.land_resets (u : SlotId) (d : LandDst) (v : Row) (n : Nat) : (s.land u d v n).resets = s.resets := by
  simp [State.land]
@[simp] theorem State.land_mem (u : SlotId) (d : LandDst) (v : Row) (n : Nat) : (s.land u d v n).mem = s.mem := by
  simp [State.land]
@[simp] theorem State.land_clusters (u : SlotId) (d : LandDst) (v : Row) (n : Nat) : (s.land u d v n).clusters = s.clusters := by
  simp [State.land]
@[simp] theorem State.land_head (u : SlotId) (d : LandDst) (v : Row) (n : Nat) : (s.land u d v n).head = s.head := by
  simp [State.land]
@[simp] theorem State.land_crews (u : SlotId) (d : LandDst) (v : Row) (n : Nat) : (s.land u d v n).crews = s.crews := by
  simp [State.land]
@[simp] theorem State.land_nextId (u : SlotId) (d : LandDst) (v : Row) (n : Nat) : (s.land u d v n).nextId = s.nextId := by
  simp [State.land]
@[simp] theorem State.land_moves (u : SlotId) (d : LandDst) (v : Row) (n : Nat) : (s.land u d v n).moves = s.moves := by
  simp [State.land]
@[simp] theorem State.land_agenda (u : SlotId) (d : LandDst) (v : Row) (n : Nat) : (s.land u d v n).agenda = s.agenda := by
  simp [State.land]
@[simp] theorem State.land_focus (u : SlotId) (d : LandDst) (v : Row) (n : Nat) : (s.land u d v n).focus = s.focus := by
  simp [State.land]
@[simp] theorem State.land_issue (u : SlotId) (d : LandDst) (v : Row) (n : Nat) : (s.land u d v n).issue = s.issue := by
  simp [State.land]
@[simp] theorem State.land_resp (u : SlotId) (d : LandDst) (v : Row) (n : Nat) : (s.land u d v n).resp = s.resp := by
  simp [State.land]

@[simp] theorem State.landF_time (u : SlotId) (d : LandDst) (v : Row) (n : Nat) (g : Flags) : (s.landF u d v n g).time = s.time := by
  simp [State.landF]
@[simp] theorem State.landF_steps (u : SlotId) (d : LandDst) (v : Row) (n : Nat) (g : Flags) : (s.landF u d v n g).steps = s.steps := by
  simp [State.landF]
@[simp] theorem State.landF_free (u : SlotId) (d : LandDst) (v : Row) (n : Nat) (g : Flags) : (s.landF u d v n g).free = s.free := by
  simp [State.landF]
@[simp] theorem State.landF_resets (u : SlotId) (d : LandDst) (v : Row) (n : Nat) (g : Flags) : (s.landF u d v n g).resets = s.resets := by
  simp [State.landF]
@[simp] theorem State.landF_mem (u : SlotId) (d : LandDst) (v : Row) (n : Nat) (g : Flags) : (s.landF u d v n g).mem = s.mem := by
  simp [State.landF]
@[simp] theorem State.landF_clusters (u : SlotId) (d : LandDst) (v : Row) (n : Nat) (g : Flags) : (s.landF u d v n g).clusters = s.clusters := by
  simp [State.landF]
@[simp] theorem State.landF_head (u : SlotId) (d : LandDst) (v : Row) (n : Nat) (g : Flags) : (s.landF u d v n g).head = s.head := by
  simp [State.landF]
@[simp] theorem State.landF_crews (u : SlotId) (d : LandDst) (v : Row) (n : Nat) (g : Flags) : (s.landF u d v n g).crews = s.crews := by
  simp [State.landF]
@[simp] theorem State.landF_nextId (u : SlotId) (d : LandDst) (v : Row) (n : Nat) (g : Flags) : (s.landF u d v n g).nextId = s.nextId := by
  simp [State.landF]
@[simp] theorem State.landF_moves (u : SlotId) (d : LandDst) (v : Row) (n : Nat) (g : Flags) : (s.landF u d v n g).moves = s.moves := by
  simp [State.landF]
@[simp] theorem State.landF_agenda (u : SlotId) (d : LandDst) (v : Row) (n : Nat) (g : Flags) : (s.landF u d v n g).agenda = s.agenda := by
  simp [State.landF]
@[simp] theorem State.landF_focus (u : SlotId) (d : LandDst) (v : Row) (n : Nat) (g : Flags) : (s.landF u d v n g).focus = s.focus := by
  simp [State.landF]
@[simp] theorem State.landF_issue (u : SlotId) (d : LandDst) (v : Row) (n : Nat) (g : Flags) : (s.landF u d v n g).issue = s.issue := by
  simp [State.landF]
@[simp] theorem State.landF_resp (u : SlotId) (d : LandDst) (v : Row) (n : Nat) (g : Flags) : (s.landF u d v n g).resp = s.resp := by
  simp [State.landF]

@[simp] theorem State.landWait_time (u : SlotId) (d : LandDst) (n id : Nat) : (s.landWait u d n id).time = s.time := by
  simp [State.landWait]
@[simp] theorem State.landWait_steps (u : SlotId) (d : LandDst) (n id : Nat) : (s.landWait u d n id).steps = s.steps := by
  simp [State.landWait]
@[simp] theorem State.landWait_free (u : SlotId) (d : LandDst) (n id : Nat) : (s.landWait u d n id).free = s.free := by
  simp [State.landWait]
@[simp] theorem State.landWait_resets (u : SlotId) (d : LandDst) (n id : Nat) : (s.landWait u d n id).resets = s.resets := by
  simp [State.landWait]
@[simp] theorem State.landWait_mem (u : SlotId) (d : LandDst) (n id : Nat) : (s.landWait u d n id).mem = s.mem := by
  simp [State.landWait]
@[simp] theorem State.landWait_clusters (u : SlotId) (d : LandDst) (n id : Nat) : (s.landWait u d n id).clusters = s.clusters := by
  simp [State.landWait]
@[simp] theorem State.landWait_head (u : SlotId) (d : LandDst) (n id : Nat) : (s.landWait u d n id).head = s.head := by
  simp [State.landWait]
@[simp] theorem State.landWait_crews (u : SlotId) (d : LandDst) (n id : Nat) : (s.landWait u d n id).crews = s.crews := by
  simp [State.landWait]
@[simp] theorem State.landWait_nextId (u : SlotId) (d : LandDst) (n id : Nat) : (s.landWait u d n id).nextId = s.nextId := by
  simp [State.landWait]
@[simp] theorem State.landWait_moves (u : SlotId) (d : LandDst) (n id : Nat) : (s.landWait u d n id).moves = s.moves := by
  simp [State.landWait]
@[simp] theorem State.landWait_agenda (u : SlotId) (d : LandDst) (n id : Nat) : (s.landWait u d n id).agenda = s.agenda := by
  simp [State.landWait]
@[simp] theorem State.landWait_focus (u : SlotId) (d : LandDst) (n id : Nat) : (s.landWait u d n id).focus = s.focus := by
  simp [State.landWait]
@[simp] theorem State.landWait_issue (u : SlotId) (d : LandDst) (n id : Nat) : (s.landWait u d n id).issue = s.issue := by
  simp [State.landWait]
@[simp] theorem State.landWait_resp (u : SlotId) (d : LandDst) (n id : Nat) : (s.landWait u d n id).resp = s.resp := by
  simp [State.landWait]

@[simp] theorem State.landStore_time (bs : List (Nat × Byte)) : (s.landStore bs).time = s.time := by
  simp [State.landStore]
@[simp] theorem State.landStore_steps (bs : List (Nat × Byte)) : (s.landStore bs).steps = s.steps := by
  simp [State.landStore]
@[simp] theorem State.landStore_free (bs : List (Nat × Byte)) : (s.landStore bs).free = s.free := by
  simp [State.landStore]
@[simp] theorem State.landStore_resets (bs : List (Nat × Byte)) : (s.landStore bs).resets = s.resets := by
  simp [State.landStore]
@[simp] theorem State.landStore_mem (bs : List (Nat × Byte)) : (s.landStore bs).mem = s.mem := by
  simp [State.landStore]
@[simp] theorem State.landStore_clusters (bs : List (Nat × Byte)) : (s.landStore bs).clusters = s.clusters := by
  simp [State.landStore]
@[simp] theorem State.landStore_head (bs : List (Nat × Byte)) : (s.landStore bs).head = s.head := by
  simp [State.landStore]
@[simp] theorem State.landStore_crews (bs : List (Nat × Byte)) : (s.landStore bs).crews = s.crews := by
  simp [State.landStore]
@[simp] theorem State.landStore_moves (bs : List (Nat × Byte)) : (s.landStore bs).moves = s.moves := by
  simp [State.landStore]
@[simp] theorem State.landStore_agenda (bs : List (Nat × Byte)) : (s.landStore bs).agenda = s.agenda := by
  simp [State.landStore]
@[simp] theorem State.landStore_focus (bs : List (Nat × Byte)) : (s.landStore bs).focus = s.focus := by
  simp [State.landStore]
@[simp] theorem State.landStore_issue (bs : List (Nat × Byte)) : (s.landStore bs).issue = s.issue := by
  simp [State.landStore]
@[simp] theorem State.landStore_resp (bs : List (Nat × Byte)) : (s.landStore bs).resp = s.resp := by
  simp [State.landStore]

end

/-! ### Reads after an update -/

@[simp] theorem modAt_length {α : Type} (f : α → α) (n : Nat) (l : List α) : (modAt f n l).length = l.length := by
  induction l generalizing n with
  | nil => cases n <;> rfl
  | cons a l ih => cases n <;> simp [modAt, ih]

theorem modAt_getD {α : Type} (f : α → α) (n : Nat) (l : List α) (d : α) (i : Nat) :
    (modAt f n l).getD i d = if i = n ∧ n < l.length then f (l.getD i d) else l.getD i d := by
  induction l generalizing n i with
  | nil => cases n <;> simp [modAt]
  | cons a l ih =>
    cases n with
    | zero => cases i <;> simp [modAt]
    | succ n =>
      cases i with
      | zero => simp [modAt]
      | succ i =>
        simp only [modAt, List.getD_cons_succ, ih, List.length_cons]
        by_cases h : i = n ∧ n < l.length
        · rw [if_pos h, if_pos ⟨by omega, by omega⟩]
        · rw [if_neg h, if_neg (by omega)]

theorem State.core_modCore (s : State) (k j : Nat) (f : Core → Core) :
    (s.modCore k f).core j = if j = k ∧ k < s.cores.length then f (s.core j) else s.core j :=
  modAt_getD f k s.cores Core.reset j

/-- The core that an update names. -/
theorem State.core_modCore_self (s : State) {k : Nat} (f : Core → Core) (h : k < s.cores.length) : (s.modCore k f).core k = f (s.core k) := by
  rw [State.core_modCore, if_pos ⟨rfl, h⟩]

/-- Every other core. -/
theorem State.core_modCore_ne (s : State) {j k : Nat} (f : Core → Core) (h : j ≠ k) : (s.modCore k f).core j = s.core j := by
  rw [State.core_modCore, if_neg (fun e => h e.1)]

theorem State.die_modDie (s : State) (d j : Nat) (f : Die → Die) :
    (s.modDie d f).die j = if j = d ∧ d < s.dies.length then f (s.die j) else s.die j :=
  modAt_getD f d s.dies Die.reset j

theorem State.cluster_modCluster (s : State) (c j : Nat) (f : Cluster → Cluster) :
    (s.modCluster c f).cluster j = if j = c ∧ c < s.clusters.length then f (s.cluster j) else s.cluster j :=
  modAt_getD f c s.clusters Cluster.reset j

@[simp] theorem Core.ctx_modCtx_self (c : Core) (r : Nat) (f : Ctx → Ctx) : (c.modCtx r f).ctx r = f (c.ctx r) := by
  unfold Core.modCtx Core.ctx
  split <;> rfl

theorem Core.ctx_modCtx_ne (c : Core) (r q : Nat) (f : Ctx → Ctx) (h : (q = 0) ≠ (r = 0)) : (c.modCtx r f).ctx q = c.ctx q := by
  unfold Core.modCtx Core.ctx
  by_cases h1 : r = 0 <;> by_cases h2 : q = 0 <;> simp_all

/-- The context that an update names. -/
theorem State.ctx_modCtx_self (s : State) {k : Nat} (r : Nat) (f : Ctx → Ctx) (h : k < s.cores.length) : (s.modCtx k r f).ctx k r = f (s.ctx k r) := by
  unfold State.modCtx State.ctx
  rw [State.core_modCore_self s _ h, Core.ctx_modCtx_self]

/-- Every other context. -/
theorem State.ctx_modCtx_ne (s : State) {j k q r : Nat} (f : Ctx → Ctx) (h : j ≠ k ∨ (q = 0) ≠ (r = 0)) : (s.modCtx k r f).ctx j q = s.ctx j q := by
  unfold State.modCtx State.ctx
  by_cases hj : j = k
  · subst hj
    have hq : (q = 0) ≠ (r = 0) := h.resolve_left (fun e => e rfl)
    rw [State.core_modCore]
    split
    · exact Core.ctx_modCtx_ne _ _ _ _ hq
    · rfl
  · rw [State.core_modCore_ne s _ hj]

/-- A context's update leaves everything else of its core. -/
theorem Core.modCtx_arrays (c : Core) (r : Nat) (f : Ctx → Ctx) :
    (c.modCtx r f).tiles = c.tiles ∧ (c.modCtx r f).acc = c.acc ∧ (c.modCtx r f).scales = c.scales ∧ (c.modCtx r f).steps = c.steps ∧
      (c.modCtx r f).mstore = c.mstore ∧ (c.modCtx r f).mtab = c.mtab ∧ (c.modCtx r f).ta = c.ta ∧ (c.modCtx r f).tb = c.tb ∧
      (c.modCtx r f).ascfg = c.ascfg ∧ (c.modCtx r f).best = c.best ∧ (c.modCtx r f).imem = c.imem ∧ (c.modCtx r f).eng = c.eng ∧
      (c.modCtx r f).far = c.far := by
  unfold Core.modCtx
  split <;> exact ⟨rfl, rfl, rfl, rfl, rfl, rfl, rfl, rfl, rfl, rfl, rfl, rfl, rfl⟩

/-! ### Registers -/

@[simp] theorem Regs.getS_zero (g : Regs) : g.getS 0#5 = 0#64 := rfl
@[simp] theorem Regs.getP_zero (g : Regs) : g.getP 0#3 = true := rfl

end Sys2Proof.Machine
end

