-- ==== Sys2Proof/Laws/Table.lean ====
section
/-!
SUPPORT. Sparse tables in their canonical form: what a write, a block write and a clear read as afterwards, and that each of them keeps
the form.
-/

namespace Sys2Proof.Machine

variable {w : Nat}

@[simp] theorem Tab.get_nil (k : Nat) : Tab.get ([] : List (Nat × BitVec w)) k = 0#w := rfl

/-- A form above a key is a form above every lower one. -/
theorem Tab.wfFrom_mono {t : List (Nat × BitVec w)} {m n : Nat} (h : m ≤ n) (ht : Tab.wfFrom n t = true) : Tab.wfFrom m t = true := by
  cases t with
  | nil => rfl
  | cons e r =>
    simp only [Tab.wfFrom, Bool.and_eq_true, decide_eq_true_eq] at ht ⊢
    exact ⟨⟨by omega, ht.1.2⟩, ht.2⟩

/-- A key below every listed one reads zero. -/
theorem Tab.get_below {t : List (Nat × BitVec w)} {n k : Nat} (ht : Tab.wfFrom n t = true) (h : k < n) : Tab.get t k = 0#w := by
  induction t generalizing n with
  | nil => rfl
  | cons e r ih =>
    simp only [Tab.wfFrom, Bool.and_eq_true, decide_eq_true_eq] at ht
    have : e.1 ≠ k := by omega
    simp only [Tab.get, this, if_false]
    exact ih ht.2 (by omega)

theorem Tab.wfFrom_set {t : List (Nat × BitVec w)} {n k : Nat} (v : BitVec w) (ht : Tab.wfFrom n t = true) (h : n ≤ k) :
    Tab.wfFrom n (Tab.set t k v) = true := by
  induction t generalizing n with
  | nil => by_cases hv : v = 0#w <;> simp [Tab.set, Tab.wfFrom, hv, h]
  | cons e r ih =>
    simp only [Tab.wfFrom, Bool.and_eq_true, decide_eq_true_eq] at ht
    obtain ⟨⟨h1, h2⟩, h3⟩ := ht
    unfold Tab.set
    split
    · simp only [Tab.wfFrom, Bool.and_eq_true, decide_eq_true_eq]
      exact ⟨⟨h1, h2⟩, ih h3 (by omega)⟩
    · split
      · rename_i hk
        split
        · exact Tab.wfFrom_mono (by omega) h3
        · rename_i hv
          simp only [Tab.wfFrom, Bool.and_eq_true, decide_eq_true_eq]
          exact ⟨⟨h, hv⟩, hk ▸ h3⟩
      · split
        · simp only [Tab.wfFrom, Bool.and_eq_true, decide_eq_true_eq]
          exact ⟨⟨h1, h2⟩, h3⟩
        · rename_i hv
          simp only [Tab.wfFrom, Bool.and_eq_true, decide_eq_true_eq]
          exact ⟨⟨h, hv⟩, ⟨by omega, h2⟩, h3⟩

/-- A write keeps the canonical form. -/
theorem Tab.wf_set {t : List (Nat × BitVec w)} (k : Nat) (v : BitVec w) (ht : Tab.wf t = true) : Tab.wf (Tab.set t k v) = true :=
  Tab.wfFrom_set v ht (Nat.zero_le k)

theorem Tab.get_set_from {t : List (Nat × BitVec w)} {n : Nat} (ht : Tab.wfFrom n t = true) (k : Nat) (v : BitVec w) (j : Nat) :
    Tab.get (Tab.set t k v) j = if j = k then v else Tab.get t j := by
  induction t generalizing n with
  | nil =>
    by_cases hv : v = 0#w
    · subst hv; simp [Tab.set]
    · by_cases hj : j = k
      · subst hj; simp [Tab.set, hv, Tab.get]
      · have : k ≠ j := fun h => hj h.symm
        simp [Tab.set, hv, Tab.get, hj, this]
  | cons e r ih =>
    simp only [Tab.wfFrom, Bool.and_eq_true, decide_eq_true_eq] at ht
    obtain ⟨⟨h1, h2⟩, h3⟩ := ht
    unfold Tab.set
    split
    · rename_i hlt
      by_cases hj : e.1 = j
      · have : j ≠ k := by omega
        simp [Tab.get, hj, this]
      · simp [Tab.get, hj, ih h3]
    · split
      · rename_i hk
        split
        · rename_i hv
          by_cases hj : j = k
          · subst hj; simp only [if_true, hv]; exact Tab.get_below h3 (by omega)
          · have : e.1 ≠ j := by omega
            simp [Tab.get, hj, this]
        · by_cases hj : j = k
          · subst hj; simp [Tab.get]
          · have h4 : e.1 ≠ j := by omega
            have h5 : k ≠ j := fun h => hj h.symm
            simp [Tab.get, hj, h4, h5]
      · split
        · rename_i hv
          by_cases hj : j = k
          · subst hj
            have h4 : e.1 ≠ j := by omega
            simp only [if_true, hv, Tab.get, h4, if_false]
            exact Tab.get_below h3 (by omega)
          · simp [hj]
        · by_cases hj : j = k
          · subst hj; simp [Tab.get]
          · have h5 : k ≠ j := fun h => hj h.symm
            simp [Tab.get, hj, h5]

/-- A read after a write: the value at its key, and every other as before. -/
theorem Tab.get_set {t : List (Nat × BitVec w)} (ht : Tab.wf t = true) (k : Nat) (v : BitVec w) (j : Nat) :
    Tab.get (Tab.set t k v) j = if j = k then v else Tab.get t j :=
  Tab.get_set_from ht k v j

/-- A block write keeps the canonical form. -/
theorem Tab.wf_blit {t : List (Nat × BitVec w)} (k : Nat) (l : List (BitVec w)) (ht : Tab.wf t = true) : Tab.wf (Tab.blit t k l) = true := by
  induction l generalizing t k with
  | nil => exact ht
  | cons v l ih => exact ih (k + 1) (Tab.wf_set k v ht)

/-- A read after a block write. -/
theorem Tab.get_blit {t : List (Nat × BitVec w)} (ht : Tab.wf t = true) (k : Nat) (l : List (BitVec w)) (j : Nat) :
    Tab.get (Tab.blit t k l) j = if k ≤ j ∧ j < k + l.length then l.getD (j - k) 0#w else Tab.get t j := by
  induction l generalizing t k with
  | nil => simp [Tab.blit]
  | cons v l ih =>
    rw [Tab.blit, ih (Tab.wf_set k v ht), Tab.get_set ht]
    by_cases h1 : k + 1 ≤ j ∧ j < k + 1 + l.length
    · have h2 : k ≤ j ∧ j < k + (v :: l).length := by simp; omega
      obtain ⟨d, rfl⟩ : ∃ d, j = k + 1 + d := ⟨j - (k + 1), by omega⟩
      have h3 : k + 1 + d - (k + 1) = d := by omega
      have h4 : k + 1 + d - k = d + 1 := by omega
      simp only [h1, h2, and_self, if_true, h3, h4, List.getD_cons_succ]
    · by_cases h2 : j = k
      · subst h2; simp
      · have h3 : ¬ (k ≤ j ∧ j < k + (v :: l).length) := by simp; omega
        simp only [h1, h2, h3, if_false]

theorem Tab.wfFrom_clear {t : List (Nat × BitVec w)} {n : Nat} (lo hi : Nat) (ht : Tab.wfFrom n t = true) :
    Tab.wfFrom n (Tab.clear t lo hi) = true := by
  induction t generalizing n with
  | nil => rfl
  | cons e r ih =>
    simp only [Tab.wfFrom, Bool.and_eq_true, decide_eq_true_eq] at ht
    obtain ⟨⟨h1, h2⟩, h3⟩ := ht
    have h4 := ih h3
    unfold Tab.clear at h4 ⊢
    rw [List.filter_cons]
    split
    · simp only [Tab.wfFrom, Bool.and_eq_true, decide_eq_true_eq]; exact ⟨⟨h1, h2⟩, h4⟩
    · exact Tab.wfFrom_mono (by omega) h4

/-- A clear keeps the canonical form. -/
theorem Tab.wf_clear {t : List (Nat × BitVec w)} (lo hi : Nat) (ht : Tab.wf t = true) : Tab.wf (Tab.clear t lo hi) = true :=
  Tab.wfFrom_clear lo hi ht

/-- A read after a clear: zero inside, as before outside. -/
theorem Tab.get_clear (t : List (Nat × BitVec w)) (lo hi j : Nat) :
    Tab.get (Tab.clear t lo hi) j = if lo ≤ j ∧ j < hi then 0#w else Tab.get t j := by
  induction t with
  | nil => simp [Tab.clear]
  | cons e r ih =>
    unfold Tab.clear at ih ⊢
    rw [List.filter_cons]
    by_cases hin : lo ≤ e.1 ∧ e.1 < hi
    · have h1 : (decide (e.1 < lo) || decide (hi ≤ e.1)) = false := by simp; omega
      rw [h1]
      simp only [Bool.false_eq_true, if_false, ih]
      by_cases hj : e.1 = j
      · subst hj; simp [hin]
      · simp [Tab.get, hj]
    · have h1 : (decide (e.1 < lo) || decide (hi ≤ e.1)) = true := by simp; omega
      rw [h1]
      simp only [if_true]
      by_cases hj : e.1 = j
      · subst hj; simp [Tab.get, hin]
      · simp [Tab.get, hj, ih]

/-- Equal reads at every key make equal canonical tables. -/
theorem Tab.ext_from {t u : List (Nat × BitVec w)} {m n : Nat} (ht : Tab.wfFrom m t = true) (hu : Tab.wfFrom n u = true)
    (h : ∀ k, Tab.get t k = Tab.get u k) : t = u := by
  induction t generalizing u m n with
  | nil =>
    cases u with
    | nil => rfl
    | cons e r =>
      simp only [Tab.wfFrom, Bool.and_eq_true, decide_eq_true_eq] at hu
      have := h e.1
      simp only [Tab.get, if_true] at this
      exact absurd this.symm hu.1.2
  | cons e r ih =>
    cases u with
    | nil =>
      simp only [Tab.wfFrom, Bool.and_eq_true, decide_eq_true_eq] at ht
      have := h e.1
      simp only [Tab.get, if_true] at this
      exact absurd this ht.1.2
    | cons f q =>
      simp only [Tab.wfFrom, Bool.and_eq_true, decide_eq_true_eq] at ht hu
      have hk : e.1 = f.1 := by
        rcases Nat.lt_trichotomy e.1 f.1 with hlt | heq | hgt
        · have := h e.1
          have h1 : f.1 ≠ e.1 := by omega
          simp only [Tab.get, if_true, h1, if_false, Tab.get_below hu.2 (by omega : e.1 < f.1 + 1)] at this
          exact absurd this ht.1.2
        · exact heq
        · have := h f.1
          have h1 : e.1 ≠ f.1 := by omega
          simp only [Tab.get, if_true, h1, if_false, Tab.get_below ht.2 (by omega : f.1 < e.1 + 1)] at this
          exact absurd this.symm hu.1.2
      have hv : e.2 = f.2 := by
        have := h e.1
        simpa [Tab.get, hk] using this
      have hr : r = q := by
        refine ih ht.2 hu.2 (fun k => ?_)
        by_cases hke : k < e.1 + 1
        · rw [Tab.get_below ht.2 hke, Tab.get_below hu.2 (by omega)]
        · have := h k
          have h1 : e.1 ≠ k := by omega
          have h2 : f.1 ≠ k := by omega
          simpa [Tab.get, h1, h2] using this
      rw [hr, Prod.ext hk hv]

end Sys2Proof.Machine
end

