-- ==== Sys2Proof/Laws/Memory.lean ====
section
/-!
SUPPORT. Memory: every operation that writes it keeps its canonical form, and says which bytes it writes; meeting upsets, and performing an
injection, leave everything but the dies and the upsets alone.
-/

namespace Sys2Proof.Machine

/-! ### Upsets and injections change the dies and the upsets only -/

theorem State.inject_only (s : State) (d : Nat) : ∃ ds us, s.inject d = { s with dies := ds, upsets := us } := ⟨_, _, rfl⟩

/-- Writing some words changes nothing but the dies, by their injection registers, and the upsets. -/
theorem State.rewritten_only (s : State) (hit : Nat → Nat → Nat → Bool) : ∃ ds us, s.rewritten hit = { s with dies := ds, upsets := us } :=
  s.rewritten_eq hit

@[simp] theorem State.rewritten_mem (s : State) (hit : Nat → Nat → Nat → Bool) : (s.rewritten hit).mem = s.mem := by
  obtain ⟨_, _, h⟩ := s.rewritten_only hit; rw [h]

@[simp] theorem State.rewritten_cores (s : State) (hit : Nat → Nat → Nat → Bool) : (s.rewritten hit).cores = s.cores := by
  obtain ⟨_, _, h⟩ := s.rewritten_only hit; rw [h]

@[simp] theorem State.rewritten_issue (s : State) (hit : Nat → Nat → Nat → Bool) : (s.rewritten hit).issue = s.issue := by
  obtain ⟨_, _, h⟩ := s.rewritten_only hit; rw [h]

theorem State.logErr_only (s : State) (d array kind loc pos : Nat) (synd : BitVec 8) (o : Option Origin) :
    ∃ ds, s.logErr d array kind loc pos synd o = { s with dies := ds } := ⟨_, rfl⟩

theorem State.logUpset_only (s : State) (u : Upset) (o : Option Origin) : ∃ ds, s.logUpset u o = { s with dies := ds } := by
  unfold State.logUpset
  split <;> exact State.logErr_only _ _ _ _ _ _ _ _

theorem State.logUpsets_only (us : List Upset) (o : Option Origin) (s : State) :
    ∃ ds, us.foldl (fun a u => a.logUpset u o) s = { s with dies := ds } := by
  induction us generalizing s with
  | nil => exact ⟨s.dies, rfl⟩
  | cons u us ih =>
    obtain ⟨d1, h1⟩ := s.logUpset_only u o
    obtain ⟨d2, h2⟩ := ih { s with dies := d1 }
    exact ⟨d2, by rw [List.foldl_cons, h1, h2]⟩

/-- A read that meets upsets changes nothing but the dies, by their error logs, and the upsets. -/
theorem State.meetUpsets_only (s : State) (ls : List (Nat × Nat × Nat)) (o : Option Origin) :
    ∃ ds us, s.meetUpsets ls o = { s with dies := ds, upsets := us } := by
  unfold State.meetUpsets
  dsimp only
  split
  · exact ⟨s.dies, s.upsets, rfl⟩
  · obtain ⟨ds, h⟩ := State.logUpsets_only (s.upsetsAt ls) o s
    rw [h]
    exact ⟨_, _, rfl⟩

/-- The same of the reads of a slot instruction. -/
theorem State.fixed_only (s : State) (ls : List (Nat × Nat × Nat)) : ∃ ds us, s.fixed ls = { s with dies := ds, upsets := us } :=
  s.meetUpsets_only ls _

@[simp] theorem State.meetUpsets_mem (s : State) (ls : List (Nat × Nat × Nat)) (o : Option Origin) : (s.meetUpsets ls o).mem = s.mem := by
  obtain ⟨_, _, h⟩ := s.meetUpsets_only ls o; rw [h]

@[simp] theorem State.meetUpsets_cores (s : State) (ls : List (Nat × Nat × Nat)) (o : Option Origin) : (s.meetUpsets ls o).cores = s.cores := by
  obtain ⟨_, _, h⟩ := s.meetUpsets_only ls o; rw [h]

@[simp] theorem State.meetUpsets_issue (s : State) (ls : List (Nat × Nat × Nat)) (o : Option Origin) : (s.meetUpsets ls o).issue = s.issue := by
  obtain ⟨_, _, h⟩ := s.meetUpsets_only ls o; rw [h]

@[simp] theorem State.meetUpsets_head (s : State) (ls : List (Nat × Nat × Nat)) (o : Option Origin) : (s.meetUpsets ls o).head = s.head := by
  obtain ⟨_, _, h⟩ := s.meetUpsets_only ls o; rw [h]

/-- With no upset anywhere a read meets none. -/
theorem State.meetUpsets_clean {s : State} (h : s.upsets = []) (ls : List (Nat × Nat × Nat)) (o : Option Origin) : s.meetUpsets ls o = s := by
  simp [State.meetUpsets, State.upsetsAt, h]

theorem State.ueAt_clean {s : State} (h : s.upsets = []) (ls : List (Nat × Nat × Nat)) : s.ueAt ls = false := by
  simp [State.ueAt, State.upsetsAt, h]

/-! ### Writes -/

@[simp] theorem State.write_mem (s : State) (a : Nat) (bs : List Byte) : (s.write a bs).mem = s.mem.write a bs := by
  simp [State.write, State.clearUpsets]

@[simp] theorem State.write_cores (s : State) (a : Nat) (bs : List Byte) : (s.write a bs).cores = s.cores := by
  simp [State.write, State.clearUpsets]

/-- A write keeps memory's canonical form. -/
theorem State.write_memOk {s : State} (h : s.MemOk) (a : Nat) (bs : List Byte) : (s.write a bs).MemOk := by
  unfold State.MemOk
  rw [State.write_mem]
  exact Tab.wf_blit a bs h

/-- A write reads back, and leaves every other byte alone. -/
theorem State.get_write {s : State} (h : s.MemOk) (a : Nat) (bs : List Byte) (b : Nat) :
    Tab.get (s.write a bs).mem b = if a ≤ b ∧ b < a + bs.length then bs.getD (b - a) 0#8 else Tab.get s.mem b := by
  rw [State.write_mem]
  exact Tab.get_blit h a bs b

/-- A write changes its bytes only. -/
theorem State.write_onlyBytes {s : State} (h : s.MemOk) (a : Nat) (bs : List Byte) : s.OnlyBytes (s.write a bs) a bs.length := by
  intro b hb
  rw [State.get_write h, if_neg (by omega)]

/-- Clearing a range keeps memory's canonical form. -/
theorem State.clear_memOk {s : State} (h : s.MemOk) (lo hi : Nat) (hit : Nat → Nat → Nat → Bool) :
    (({ s with mem := Tab.clear s.mem lo hi } : State).rewritten hit).MemOk := by
  unfold State.MemOk
  rw [State.rewritten_mem]
  exact Tab.wf_clear lo hi h

/-- Memory's canonical form depends on memory alone. -/
theorem State.memOk_congr {s t : State} (h : t.mem = s.mem) : t.MemOk ↔ s.MemOk := by
  unfold State.MemOk
  rw [h]

/-- Placing a slot keeps memory's canonical form. -/
theorem State.placeSlot_memOk {s t : State} {n : Nat} {agent : Option Nat} (h : s.MemOk) (ht : s.placeSlot n agent = some t) : t.MemOk := by
  have h1 := State.clear_memOk h (slotBase n) (slotBase (n + 1)) (fun _ a l => decide (a = 5) && decide (slotBase n ≤ l) && decide (l < slotBase (n + 1)))
  unfold State.placeSlot at ht
  dsimp only at ht
  split at ht
  · cases ht; exact h1
  · split at ht
    · cases ht; exact h1
    · cases ht

theorem State.touchAll_memOk {agent : Option Nat} (l : List Nat) {s t : State} (h : s.MemOk)
    (ht : l.foldl (fun o x => match o with
      | none => none
      | some t => match State.frame? t x with
        | some _ => some t
        | none => State.placeSlot t x agent) (some s) = some t) : t.MemOk := by
  induction l generalizing s with
  | nil => cases ht; exact h
  | cons x l ih =>
    rw [List.foldl_cons] at ht
    have hnone : ∀ m : List Nat, m.foldl (fun o x => match o with
        | none => none
        | some t => match State.frame? t x with
          | some _ => some t
          | none => State.placeSlot t x agent) none = (none : Option State) := by
      intro m
      induction m with
      | nil => rfl
      | cons y m ihm => simpa [List.foldl_cons] using ihm
    cases hf : s.frame? x with
    | some f => simp only [hf] at ht; exact ih h ht
    | none =>
      simp only [hf] at ht
      cases hp : s.placeSlot x agent with
      | none => rw [hp, hnone] at ht; cases ht
      | some u => rw [hp] at ht; exact ih (State.placeSlot_memOk h hp) ht

/-- A touch keeps memory's canonical form. -/
theorem State.touch_memOk {s t : State} {a n : Nat} {agent : Option Nat} (h : s.MemOk) (ht : s.touch a n agent = some t) : t.MemOk :=
  State.touchAll_memOk (slotsUnder a n) h ht

/-- A touch of HBM4E places nothing. -/
theorem State.touch_hbm (s : State) {a n : Nat} (agent : Option Nat) (h : inHbm a n = true) : s.touch a n agent = some s := by
  have h1 : inSlots a n = false ∨ n = 0 := by
    simp only [inHbm, decide_eq_true_eq] at h
    simp only [inSlots, Bool.or_eq_false_iff, Bool.and_eq_false_iff, decide_eq_false_iff_not]
    omega
  have h2 : slotsUnder a n = [] := by
    unfold slotsUnder
    rcases h1 with h1 | h1 <;> simp [h1]
  simp [State.touch, h2]

/-- The state after reset has its memory in canonical form. -/
theorem State.reset_memOk : State.reset.MemOk := rfl

/-- With no near store performed early, a near form samples what the scratchpad holds (R51). -/
theorem State.nearRead_eq (s : State) (o n : Nat) (h : ∀ e ∈ s.ic.landing, e.old = []) :
    s.nearRead o n = (List.range n).map (fun i => Tab.get s.mem (spadBase s.issue.k + o + i)) := by
  have e : s.ic.landing.flatMap (·.old) = [] := by simpa [List.flatMap_eq_nil_iff] using h
  simp [State.nearRead, e]

end Sys2Proof.Machine
end

