-- ==== Sys2Proof/Laws/Slot.lean ====
section
/-!
SUPPORT. What slotOp, the course of every slot instruction, can do: one lemma for each way in which it ends.
-/

namespace Sys2Proof.Machine

@[simp] theorem State.upsetsAt_nil (s : State) : s.upsetsAt [] = [] := by
  simp [State.upsetsAt]

@[simp] theorem State.ueAt_nil (s : State) : s.ueAt [] = false := by
  simp [State.ueAt]

@[simp] theorem State.clean_nil (s : State) : s.Clean [] := s.ueAt_nil

@[simp] theorem State.meetUpsets_nil (s : State) (o : Option Origin) : s.meetUpsets [] o = s := by
  simp [State.meetUpsets]

@[simp] theorem State.fixed_nil (s : State) : s.fixed [] = s := s.meetUpsets_nil _

/-- Where no word read is upset, meeting the upsets of those words changes nothing. -/
theorem State.meetUpsets_of_none (s : State) (ls : List (Nat × Nat × Nat)) (o : Option Origin) (h : s.upsetsAt ls = []) :
    s.meetUpsets ls o = s := by
  simp [State.meetUpsets, h]

theorem State.lbufTraps_of_room {s : State} {n : Nat} (h : s.ic.landing.length + s.issue.more + n ≤ 64) : s.lbufTraps n = [] := by
  have : ¬ 64 < s.ic.landing.length + s.issue.more + n := by omega
  simp [State.lbufTraps, this]

@[simp] theorem trapIf_false (c : Cause) : trapIf false c = [] := rfl
@[simp] theorem trapIf_true (c : Cause) : trapIf true c = [⟨c, 0, 0⟩] := rfl
@[simp] theorem trapAt_false (c : Cause) (a : Word) : trapAt false c a = [] := rfl
@[simp] theorem trapAt_true (c : Cause) (a : Word) : trapAt true c a = [⟨c, a, 0⟩] := rfl
@[simp] theorem trapInfo_false (c : Cause) (i : Nat) : trapInfo false c i = [] := rfl
@[simp] theorem trapInfo_true (c : Cause) (i : Nat) : trapInfo true c i = [⟨c, 0, BitVec.ofNat 64 i⟩] := rfl

/-- A disabled slot performs nothing (R204). -/
theorem slotOp_disabled {u : SlotId} {p : Pr} {n : Nat} {rd : State → List (Nat × Nat × Nat)} {tr : State → List SlotTrap}
    {wt : State → Option Wait} {ef : State → State} {s : State} (h : s.enabled p = false) :
    slotOp u p n rd tr wt ef s = .next s := by
  simp [slotOp, h]

/-- An enabled slot that meets no cause and no wait has its effect (R151, R204). -/
theorem slotOp_goes {u : SlotId} {p : Pr} {n : Nat} {rd : State → List (Nat × Nat × Nat)} {tr : State → List SlotTrap}
    {wt : State → Option Wait} {ef : State → State} {s : State} (h : s.Goes p n) (hu : s.Clean (rd s)) (ht : tr s = [])
    (hw : wt s = none) : slotOp u p n rd tr wt ef s = .next (ef (s.fixed (rd s))) := by
  obtain ⟨he, hl⟩ := h
  unfold State.Clean at hu
  simp [slotOp, he, hu, ht, hw, State.lbufTraps_of_room hl, firstTrap, State.fixed]

/-- An enabled slot whose own causes are one cause, and which meets no other, takes its trap (R168). -/
theorem slotOp_traps {u : SlotId} {p : Pr} {n : Nat} {rd : State → List (Nat × Nat × Nat)} {tr : State → List SlotTrap}
    {wt : State → Option Wait} {ef : State → State} {s : State} {t : SlotTrap} (h : s.Goes p n) (hu : s.Clean (rd s))
    (ht : tr s = [t]) (hc : t.cause ≠ .eccUe) : slotOp u p n rd tr wt ef s = .next (s.takeTrap (slotBit u) t) := by
  obtain ⟨he, hl⟩ := h
  unfold State.Clean at hu
  simp [slotOp, he, hu, ht, State.lbufTraps_of_room hl, firstTrap, hc]

/-- An enabled slot that meets no cause, and a wait, is counted and performs nothing (R118, R153). -/
theorem slotOp_waits {u : SlotId} {p : Pr} {n : Nat} {rd : State → List (Nat × Nat × Nat)} {tr : State → List SlotTrap}
    {wt : State → Option Wait} {ef : State → State} {s : State} {w : Wait} (h : s.Goes p n) (hu : s.Clean (rd s)) (ht : tr s = [])
    (hw : wt s = some w) : ∃ t, slotOp u p n rd tr wt ef s = .next t ∧ t.issue.res = .waits w := by
  obtain ⟨he, hl⟩ := h
  unfold State.Clean at hu
  exact ⟨{ s.countWait s.issue.k s.issue.r w with issue := { (s.countWait s.issue.k s.issue.r w).issue with res := .waits w } }, by
    simp [slotOp, he, hu, ht, hw, State.lbufTraps_of_room hl, firstTrap], rfl⟩

/-- Every slot instruction answers a next state. -/
theorem slotOp_next (u : SlotId) (p : Pr) (n : Nat) (rd : State → List (Nat × Nat × Nat)) (tr : State → List SlotTrap)
    (wt : State → Option Wait) (ef : State → State) (s : State) : ∃ t, slotOp u p n rd tr wt ef s = .next t := by
  unfold slotOp
  split
  · exact ⟨_, rfl⟩
  · dsimp only
    split
    · exact ⟨_, rfl⟩
    · split <;> exact ⟨_, rfl⟩

end Sys2Proof.Machine
end

