-- ==== Sys2Proof/Tests/Slice0.lean ====
section
/-!
SUPPORT. Tests: ill-formed terms that the checks refuse, words written out from the encoding tables of the manual with the instructions
that they stand for, single steps on small states, and for every statement with hypotheses concrete values that meet them.
-/

open Sys2Proof Sys2Proof.Machine

namespace Sys2Proof.Tests

set_option maxRecDepth 100000
set_option Elab.async false

/-! ### Well-formedness -/

/-- A predicate prefix, a vector head, a row source and a row destination that the tests share. -/
def p0 : Pr := ⟨false, 0⟩
def vh (w : Width) (ty : Ty) : VH := ⟨false, p0, w, ty⟩
def row (t k : Nat) : VSrc := .tile false .h (BitVec.ofNat 4 t) (BitVec.ofNat 5 k)
def out (t k : Nat) : VDst := .tile false .h (BitVec.ofNat 4 t) (BitVec.ofNat 5 k)

/-- R209, R210, R218: a ring past the tile file, two rings that share a tile, a reserved descriptor bit, an extension that no surrendered
slots give, and an immediate whose bits above 63 differ from bit 63. -/
theorem test_wf_refuses_extensions :
    [Instr.loopImm p0 0 1 ⟨32, 0xE20⟩, .loopReg p0 0 (.reg 1) ⟨32, 0x220320⟩, .loopImm p0 0 1 ⟨32, 0x001⟩, .addi p0 (.reg 1) (.reg 1) 0 ⟨16, 0⟩,
     .li p0 (.reg 1) 0 ⟨64, 2 ^ 63⟩, .ld p0 .w (.reg 1) (.reg 1) 0 ⟨8, 0⟩, .vbcst (vh .w512 .f32) (out 0 0) (.imm 0 ⟨16, 0⟩),
     .msetp p0 0 (.imm 0 ⟨48, 0⟩)].all (fun i => !i.wf) = true := by decide +kernel

/-- R212, R213, R218: p0 as a predicate destination or selector, a tile field that is no row, an atomic of the wrong size or with a compare
value that it does not use. -/
theorem test_wf_refuses_scalar_fields :
    [Instr.cmp p0 0 .eq (.reg 1) (.imm 0), .pand p0 0 p0 p0, .por p0 0 p0 p0, .pxor p0 0 p0 p0, .sel p0 (.reg 1) 0 (.reg 1) (.imm 0),
     .vld p0 (.tile false .v 0 0) (.reg 1) 0 Ext.none, .vst p0 (.tile false .d 0 0) (.reg 1) 0 Ext.none,
     .vstf p0 (.tile false .w 0 0) (.reg 1) 0 Ext.none, .vldg p0 .w (.tile false .v 0 0) (.reg 1) (row 0 0),
     .vsts p0 .w (.tile false .v 0 0) (.reg 1) (row 0 0), .pop p0 .qld (.inr (.tile false .v 0 0)),
     .atom p0 .fadd true .off (.reg 1) (.reg 2) (.reg 0), .atom p0 .add true .off (.reg 1) (.reg 2) (.reg 3),
     .ratom p0 .fmax true false (.reg 1) (.reg 2) (.reg 0)].all (fun i => !i.wf) = true := by decide +kernel

/-- R218, R287: types, modes, SAT and widths that an instruction does not take. -/
theorem test_wf_refuses_vector_fields :
    [Instr.vadd (vh .w512 .b64) false .ne (out 0 0) (row 0 0) (row 0 1), .vsub (vh .w512 .i8) false .rz (out 0 0) (row 0 0) (row 0 1),
     .vmul (vh .w512 .i8) false .rd (out 0 0) (row 0 0) (row 0 1), .vabs (vh .w512 .f32) true (out 0 0) (row 0 0),
     .vmin (vh .w512 .b64) (out 0 0) (row 0 0) (row 0 1), .vclamp (vh .w512 .lns6) (out 0 0) (row 0 0) (.reg 1),
     .vrnd (vh .w512 .i32) .ne (out 0 0) (row 0 0), .vand (vh .w512 .f32) (out 0 0) (row 0 0) (row 0 1),
     .vclmul (vh .w512 .i32) (out 0 0) (row 0 0) (row 0 1), .vxch (vh .w512 .b64) 0 (out 0 0) (row 0 0),
     .vredsum (vh .w512 .f32) true .ne (out 0 0) (row 0 0), .vscan (vh .w512 .f16) false .ne .incl (out 0 0) (row 0 0),
     .vexp2 (vh .w512 .e4m3) (out 0 0) (row 0 0), .vrcp (vh .w512 .i32) .ne (out 0 0) (row 0 0),
     .accrd (vh .w512 .f32) false .ne (out 0 0) ⟨0, 0, 0⟩, .accwr (vh .w1024 .bf16) ⟨0, 0, 0⟩ (row 0 0),
     .xcvt p0 .b64 .f32 .ne (out 0 0) (row 0 0)].all (fun i => !i.wf) = true := by decide +kernel

/-- R317, R326, R342, R343, R356, R357: a pair of types that MCFG refuses, a routine number without a routine, a fixed routine with a B field,
a depth of 128, one tile as sum and centroid, an empty fence and a ratio outside 4 to 32. -/
theorem test_wf_refuses_matrix_and_engine_fields :
    [Instr.mcfg p0 .f32 .f32, .mcfg p0 .bf16 .f16, .mcall p0 6 0 (.reg 1) false 0, .mcall p0 4 0 (.reg 1) false 1, .mcall p0 5 1 (.reg 1) false 0,
     .acupd p0 0 (.reg 1) (.reg 2) 127, .acfin p0 1 1 0, .qfen p0 0, .sld p0 (.reg 1) (.reg 2) 3, .sld p0 (.reg 1) (.reg 2) 33].all
      (fun i => !i.wf) = true := by decide +kernel

/-! ### Words written out from the encoding tables -/

/-- The layouts of R211 to R217, field by field from the highest. -/
def cw (op p rest : Nat) : Nat := op * 2 ^ 24 + p * 2 ^ 20 + rest
def iw (op p d a low : Nat) : Nat := op * 2 ^ 24 + p * 2 ^ 20 + d * 2 ^ 14 + a * 2 ^ 8 + low
def lmw (op p d b k : Nat) : Nat := op * 2 ^ 40 + p * 2 ^ 36 + d * 2 ^ 30 + b * 2 ^ 24 + k
def lvw (op p t b k : Nat) : Nat := op * 2 ^ 40 + p * 2 ^ 36 + t * 2 ^ 23 + b * 2 ^ 17 + k
def vw (op p w ty sat rnd fn d a b : Nat) : Nat :=
  op * 2 ^ 56 + p * 2 ^ 52 + w * 2 ^ 50 + ty * 2 ^ 46 + sat * 2 ^ 45 + rnd * 2 ^ 43 + fn * 2 ^ 39 + d * 2 ^ 26 + a * 2 ^ 13 + b
def xw (op p d a f : Nat) : Nat := op * 2 ^ 40 + p * 2 ^ 36 + d * 2 ^ 23 + a * 2 ^ 10 + f
def mw (op p acc a b f : Nat) : Nat := op * 2 ^ 40 + p * 2 ^ 36 + acc * 2 ^ 34 + a * 2 ^ 21 + b * 2 ^ 8 + f
def ew (op p q a b f : Nat) : Nat := op * 2 ^ 56 + p * 2 ^ 52 + q * 2 ^ 49 + a * 2 ^ 43 + b * 2 ^ 37 + f

/-- A slot's word decodes to the instruction. -/
def reads (u : SlotId) (l : List (Nat × Instr)) : Bool := l.all (fun e => decide (decodeSlot u e.1 Ext.none = .ok e.2))

/-- R211, R220. -/
theorem test_words_c : reads .c
    [(cw 0x01 0b0011 0x00010, .br ⟨false, 3⟩ 0x10), (cw 0x02 0b1000 0xFFFF0, .call ⟨true, 0⟩ 0xFFFF0),
     (cw 0x03 0 (0b011011 * 2 ^ 14), .ret p0 (.reg 27)), (cw 0x04 0 (0b100001 * 2 ^ 14), .jmpi p0 (.latch .c 1)),
     (cw 0x05 0 (0b00000010 * 2 ^ 12 + 2 ^ 11 + 0b00000000111), .loopImm p0 2 7 Ext.none),
     (cw 0x05 0 (0b00000010 * 2 ^ 12 + 0b000100 * 2 ^ 5), .loopReg p0 2 (.reg 4) Ext.none),
     (cw 0x06 0 0, .lbrk p0), (cw 0x07 0 0, .yield p0), (cw 0x08 0 0, .susp p0), (cw 0x08 0 1, .suspAny p0), (cw 0x09 0 0, .halt p0),
     (cw 0x0A 0 0xABCDE, .trap p0 0xABCDE), (cw 0x0B 0 (0b01 * 2 ^ 18), .fusePair p0), (cw 0x0B 0 (0b10 * 2 ^ 18), .fuseQuad p0),
     (cw 0x0C 0 0, .decpl p0), (cw 0x0D 0 0, .rejoin p0)] = true := by decide +kernel

/-- R212, R221: destination s5, source s6, second source s7 (bits 7:2), or the immediate 13 with BI. -/
theorem test_words_i : reads .i
    [(iw 0x01 0 5 6 (7 * 4), .add p0 (.reg 5) (.reg 6) (.src (.reg 7))), (iw 0x02 0 5 6 (13 * 4 + 2), .sub p0 (.reg 5) (.reg 6) (.imm 13)),
     (iw 0x03 0 5 6 0xFF, .addi p0 (.reg 5) (.reg 6) 0xFF Ext.none), (iw 0x04 0 5 0 0x2A, .li p0 (.reg 5) 0x2A Ext.none),
     (iw 0x05 0 5 6 (7 * 4), .mul p0 (.reg 5) (.reg 6) (.src (.reg 7))), (iw 0x06 0 5 6 (7 * 4), .mulh p0 (.reg 5) (.reg 6) (.src (.reg 7))),
     (iw 0x07 0 5 6 (7 * 4), .mulhu p0 (.reg 5) (.reg 6) (.src (.reg 7))), (iw 0x08 0 5 6 (7 * 4), .div p0 (.reg 5) (.reg 6) (.src (.reg 7))),
     (iw 0x09 0 5 6 (7 * 4), .divu p0 (.reg 5) (.reg 6) (.src (.reg 7))), (iw 0x0A 0 5 6 (7 * 4), .rem p0 (.reg 5) (.reg 6) (.src (.reg 7))),
     (iw 0x0B 0 5 6 (7 * 4), .remu p0 (.reg 5) (.reg 6) (.src (.reg 7))), (iw 0x0C 0 5 6 (7 * 4), .min p0 (.reg 5) (.reg 6) (.src (.reg 7))),
     (iw 0x0D 0 5 6 (7 * 4), .max p0 (.reg 5) (.reg 6) (.src (.reg 7))), (iw 0x0E 0 5 6 (7 * 4), .minu p0 (.reg 5) (.reg 6) (.src (.reg 7))),
     (iw 0x0F 0 5 6 (7 * 4), .maxu p0 (.reg 5) (.reg 6) (.src (.reg 7))), (iw 0x10 0 5 6 (7 * 4), .and p0 (.reg 5) (.reg 6) (.src (.reg 7))),
     (iw 0x11 0 5 6 (7 * 4), .or p0 (.reg 5) (.reg 6) (.src (.reg 7))), (iw 0x12 0 5 6 (7 * 4), .xor p0 (.reg 5) (.reg 6) (.src (.reg 7))),
     (iw 0x13 0 5 6 (7 * 4), .andn p0 (.reg 5) (.reg 6) (.src (.reg 7))), (iw 0x14 0 5 6 (13 * 4 + 2), .shl p0 (.reg 5) (.reg 6) (.imm 13)),
     (iw 0x15 0 5 6 (13 * 4 + 2), .shr p0 (.reg 5) (.reg 6) (.imm 13)), (iw 0x16 0 5 6 (13 * 4 + 2), .sra p0 (.reg 5) (.reg 6) (.imm 13)),
     (iw 0x17 0 5 6 (13 * 4 + 2), .rotl p0 (.reg 5) (.reg 6) (.imm 13)), (iw 0x18 0 5 6 0, .clz p0 (.reg 5) (.reg 6)),
     (iw 0x19 0 5 6 0, .ctz p0 (.reg 5) (.reg 6)), (iw 0x1A 0 0b100000 6 0, .popc p0 .off (.reg 6)),
     (iw 0x1B 0 5 6 (7 * 4), .clmul p0 (.reg 5) (.reg 6) (.src (.reg 7))), (iw 0x1C 0 5 6 (7 * 4), .clmulh p0 (.reg 5) (.reg 6) (.src (.reg 7))),
     (iw 0x1D 0 5 6 (7 * 4), .extr p0 (.reg 5) (.reg 6) (.reg 7)), (iw 0x1E 0 5 6 (7 * 4), .ins p0 (.reg 5) (.reg 6) (.reg 7)),
     (iw 0x20 0 (3 * 8 + 4) 6 (7 * 4), .cmp p0 3 .ltu (.reg 6) (.src (.reg 7))),
     (cw 0x21 0 (3 * 2 ^ 17 + 2 ^ 16 + 1 * 2 ^ 13 + 2 * 2 ^ 9), .pand p0 3 ⟨true, 1⟩ ⟨false, 2⟩),
     (cw 0x22 0 (3 * 2 ^ 17 + 1 * 2 ^ 13 + 2 ^ 12 + 2 * 2 ^ 9), .por p0 3 ⟨false, 1⟩ ⟨true, 2⟩),
     (cw 0x23 0 (3 * 2 ^ 17 + 1 * 2 ^ 13 + 2 * 2 ^ 9), .pxor p0 3 ⟨false, 1⟩ ⟨false, 2⟩),
     (iw 0x2C 0 5 6 (7 * 4), .sel p0 (.reg 5) 4 (.reg 6) (.src (.reg 7))), (cw 0x30 0 (5 * 2 ^ 14 + 0x105 * 4), .csrr p0 (.reg 5) (.core 5)),
     (cw 0x31 0 (5 * 2 ^ 14 + 0x002 * 4), .csrw p0 .prio (.reg 5)), (cw 0x32 0 (5 * 2 ^ 14 + 9), .sqr p0 (.reg 5) 9),
     (cw 0x33 0 (5 * 2 ^ 14), .gettime p0 (.reg 5))] = true := by decide +kernel

/-- R213, R222: tile t4, row 3 is 0b0_0000_100_00011 in a row field, and $v1.2 is 0b1_0110_000_00000 by R206. -/
theorem test_words_l : reads .l
    [(lmw 0x01 0 5 6 0, .ld p0 .b (.reg 5) (.reg 6) 0 Ext.none), (lmw 0x06 0 5 6 0xFFFFFE, .ld p0 .hs (.reg 5) (.reg 6) 0xFFFFFE Ext.none),
     (lmw 0x0B 0 5 6 8, .st p0 .d (.reg 5) (.reg 6) 8 Ext.none), (lvw 0x0C 0 0b0000010000011 6 128, .vld p0 (out 4 3) (.reg 6) 128 Ext.none),
     (lvw 0x0D 0 0b1011000000000 6 128, .vst p0 (.latch .v1 2) (.reg 6) 128 Ext.none),
     (lvw 0x1D 0 0b0000010000011 6 (0b0000011000001 * 2 ^ 4 + 3 * 2 ^ 2), .vldg p0 .d (out 4 3) (.reg 6) (row 6 1)),
     (lvw 0x1E 0 0b0000010000011 6 (0b0000011000001 * 2 ^ 4 + 1 * 2 ^ 2), .vsts p0 .h (row 4 3) (.reg 6) (row 6 1)),
     (lmw 0x13 0 0 6 16, .ldq p0 .d (.reg 6) 16 Ext.none), (lvw 0x17 0 0 6 16, .vldq p0 (.reg 6) 16 Ext.none),
     (lmw 0x1A 0 5 6 4, .stf p0 .w (.reg 5) (.reg 6) 4 Ext.none), (lvw 0x1C 0 0b0000010000011 6 0, .vstf p0 (row 4 3) (.reg 6) 0 Ext.none),
     (0x2D * 2 ^ 40 + 5 * 2 ^ 30 + 1 * 2 ^ 28, .pop p0 .qas (.inl (.reg 5))),
     (0x2D * 2 ^ 40 + 0b100000 * 2 ^ 30 + 2 * 2 ^ 28 + 2 ^ 27 + 0b0000010000011 * 2 ^ 14, .pop p0 .qrm (.inr (out 4 3))),
     (lmw 0x2E 0 0 6 64, .pfh p0 (.reg 6) 64 Ext.none),
     (lmw 0x20 0 5 6 (7 * 2 ^ 18 + 8 * 2 ^ 12 + 9 * 2 ^ 8 + 3 * 2 ^ 6), .atom p0 .cas true (.reg 5) (.reg 6) (.reg 7) (.reg 8)),
     (lmw 0x20 0 0b100000 6 (7 * 2 ^ 18 + 10 * 2 ^ 8 + 2 * 2 ^ 6), .atom p0 .fadd false .off (.reg 6) (.reg 7) (.reg 0)),
     (0x28 * 2 ^ 40 + 3 * 2 ^ 33, .pub p0 .cluster), (0x29 * 2 ^ 40 + 4 * 2 ^ 33, .ref p0 .die), (0x2A * 2 ^ 40 + 5 * 2 ^ 33, .phase p0 .pkg),
     (0x2B * 2 ^ 40 + 6 * 2 ^ 33, .pbar p0 .fabric),
     (0x2C * 2 ^ 40 + 5 * 2 ^ 33 + 3 * 2 ^ 30 + 2 * 2 ^ 24 + 3 * 2 ^ 18, .waita p0 .pkg .lt (.reg 2) (.reg 3))] = true := by decide +kernel

/-- R214, R223: WIDTH 2, sources t6.h1 and t4.h1, destination t3.h0. -/
theorem test_words_v : reads .v0
    [(vw 0x01 0 2 0 0 1 0 0x60 0xC1 0x81, .vadd (vh .w1024 .f32) false .rz (out 3 0) (row 6 1) (row 4 1)),
     (vw 0x02 0 2 8 1 0 0 0x60 0xC1 0x81, .vsub (vh .w1024 .i8) true .ne (out 3 0) (row 6 1) (row 4 1)),
     (vw 0x03 0 2 5 0 2 0 0x60 0xC1 0x81, .vmul (vh .w1024 .lns6) false .rd (out 3 0) (row 6 1) (row 4 1)),
     (vw 0x04 0 2 1 0 0 0 0x60 0xC1 0x81, .vfma (vh .w1024 .bf16) false .ne (out 3 0) (row 6 1) (row 4 1)),
     (vw 0x05 0 2 2 0 0 0 0x60 0xC1 0x81, .vfms (vh .w1024 .f16) false .ne (out 3 0) (row 6 1) (row 4 1)),
     (vw 0x06 0 2 7 1 0 0 0x60 0xC1 0, .vabs (vh .w1024 .i16) true (out 3 0) (row 6 1)),
     (vw 0x07 0 2 9 0 0 0 0x60 0xC1 0x81, .vmin (vh .w1024 .n32) (out 3 0) (row 6 1) (row 4 1)),
     (vw 0x08 0 2 10 0 0 0 0x60 0xC1 0x81, .vmax (vh .w1024 .n16) (out 3 0) (row 6 1) (row 4 1)),
     (vw 0x09 0 2 11 0 0 0 0x60 0xC1 5, .vclamp (vh .w1024 .n8) (out 3 0) (row 6 1) (.reg 5)),
     (vw 0x0A 0 2 3 0 2 0 0x60 0xC1 0, .vrnd (vh .w1024 .e4m3) .rd (out 3 0) (row 6 1)),
     (vw 0x0B 0 2 4 0 0 6 0x60 0xC1 0x81, .vcmp (vh .w1024 .e5m2) .uno (out 3 0) (row 6 1) (row 4 1)),
     (vw 0x0C 0 2 12 0 0 0 0x60 0xC1 0x81, .vsel (vh .w1024 .b64) (out 3 0) (row 6 1) (row 4 1)),
     (vw 0x10 0 2 12 0 0 0 0x60 0xC1 0x81, .vand (vh .w1024 .b64) (out 3 0) (row 6 1) (row 4 1)),
     (vw 0x11 0 2 6 0 0 0 0x60 0xC1 0x81, .vor (vh .w1024 .i32) (out 3 0) (row 6 1) (row 4 1)),
     (vw 0x12 0 2 6 0 0 0 0x60 0xC1 0x81, .vxor (vh .w1024 .i32) (out 3 0) (row 6 1) (row 4 1)),
     (vw 0x13 0 2 6 0 0 0 0x60 0xC1 0x81, .vshl (vh .w1024 .i32) (out 3 0) (row 6 1) (row 4 1)),
     (vw 0x14 0 2 6 0 0 0 0x60 0xC1 0x81, .vshr (vh .w1024 .i32) (out 3 0) (row 6 1) (row 4 1)),
     (vw 0x15 0 2 6 0 0 0 0x60 0xC1 0x81, .vsra (vh .w1024 .i32) (out 3 0) (row 6 1) (row 4 1)),
     (vw 0x18 0 2 12 0 0 0 0x60 0xC1 0x81, .vclmul (vh .w1024 .b64) (out 3 0) (row 6 1) (row 4 1)),
     (vw 0x19 0 2 12 0 0 0 0x60 0xC1 0x81, .vclmulh (vh .w1024 .b64) (out 3 0) (row 6 1) (row 4 1)),
     (vw 0x20 0 2 6 0 0 6 0x60 0xC1 5, .vperm (vh .w1024 .i32) (.down (.reg 5)) (out 3 0) (row 6 1)),
     (vw 0x21 0 2 0 0 0 0 0x60 0 5, .vbcst (vh .w1024 .f32) (out 3 0) (.scalar (.reg 5))),
     (vw 0x21 0 2 6 0 0 1 0x60 0 0x1FFF, .vbcst (vh .w1024 .i32) (out 3 0) (.imm 0x1FFF Ext.none)),
     (vw 0x22 0 2 6 0 0 0 0x60 0b0001001100010 0, .vmov (vh .w1024 .i32) (out 3 0) (.tile false .v 3 2)),
     (vw 0x23 0 2 7 0 0 0 5 0xC1 6, .vexts (vh .w1024 .i16) (.reg 5) (row 6 1) (.reg 6)),
     (vw 0x24 0 2 7 0 0 0 0x60 5 6, .vinss (vh .w1024 .i16) (out 3 0) (.reg 5) (.reg 6)),
     (vw 0x25 0 2 12 0 0 1 0x60 0xC1 0, .vxch (vh .w1024 .b64) 1 (out 3 0) (row 6 1)),
     (vw 0x28 0 2 6 1 0 0 0x60 0xC1 0, .vredsum (vh .w1024 .i32) true .ne (out 3 0) (row 6 1)),
     (vw 0x29 0 2 6 0 0 0 0x60 0xC1 0, .vredmax (vh .w1024 .i32) (out 3 0) (row 6 1)),
     (vw 0x2A 0 2 6 0 0 0 0x60 0xC1 0, .vredmin (vh .w1024 .i32) (out 3 0) (row 6 1)),
     (vw 0x2B 0 2 6 0 0 3 0x60 0xC1 0, .vscan (vh .w1024 .i32) false .ne .min (out 3 0) (row 6 1)),
     (vw 0x30 0 2 0 0 0 0 0x60 0xC1 0, .vexp2 (vh .w1024 .f32) (out 3 0) (row 6 1)),
     (vw 0x31 0 2 0 0 0 0 0x60 0xC1 0, .vlog2 (vh .w1024 .f32) (out 3 0) (row 6 1)),
     (vw 0x32 0 2 0 0 1 0 0x60 0xC1 0, .vrcp (vh .w1024 .f32) .rz (out 3 0) (row 6 1)),
     (vw 0x33 0 2 0 0 0 0 0x60 0xC1 0, .vrsq (vh .w1024 .f32) (out 3 0) (row 6 1)),
     (vw 0x34 0 2 0 0 2 0 0x60 0xC1 0, .vsqrt (vh .w1024 .f32) .rd (out 3 0) (row 6 1)),
     (vw 0x35 0 2 0 0 0 0 0x60 0xC1 0, .vsin (vh .w1024 .f32) (out 3 0) (row 6 1)),
     (vw 0x36 0 2 0 0 0 0 0x60 0xC1 0, .vcos (vh .w1024 .f32) (out 3 0) (row 6 1)),
     (vw 0x37 0 2 0 0 0 0 0x60 0xC1 0, .vtanh (vh .w1024 .f32) (out 3 0) (row 6 1)),
     (vw 0x38 0 2 0 0 0 0 0x60 0xC1 0, .vsigm (vh .w1024 .f32) (out 3 0) (row 6 1)),
     (vw 0x3C 0 1 1 1 0 0 0x60 (1 * 2 ^ 9 + 17 * 2 ^ 2 + 2) 0, .accrd (vh .w512 .bf16) true .ne (out 3 0) ⟨1, 17, 2⟩),
     (vw 0x3D 0 2 0 0 0 0 (5 * 2 ^ 2 + 1) 0xC1 0, .accwr (vh .w1024 .f32) ⟨0, 5, 1⟩ (row 6 1))] = true := by decide +kernel

/-- R215, R224. -/
theorem test_words_x : reads .x
    [(xw 0x01 0 0x60 0 0, .xexp p0 (out 3 0)), (xw 0x02 0 0x60 0xC1 1, .xtrn8 p0 true (out 3 0) (row 6 1)),
     (xw 0x03 0 0x60 0xC1 0, .xtrn16 p0 false (out 3 0) (row 6 1)), (xw 0x04 0 0x60 0xC1 (0 * 2 ^ 6 + 1 * 2 ^ 2 + 3), .xcvt p0 .f32 .bf16 .sr (out 3 0) (row 6 1)),
     (xw 0x05 0 0x60 0xC1 (2 * 2 ^ 6 + 8 * 2 ^ 2 + 1), .xcvtSat p0 .f16 .i8 .rz (out 3 0) (row 6 1)),
     (xw 0x06 0 0x60 0xC1 (1 * 2 ^ 7 + 5 * 2 ^ 2 + 2), .xpks p0 .lns6 1 5 (out 3 0) (row 6 1)),
     (xw 0x07 0 0b1000000000000 0xC1 (7 * 2 ^ 7 + 31 * 2 ^ 2 + 3), .xupk p0 .i8 7 31 .off (row 6 1)), (xw 0x08 0 0x60 0 0, .xrng p0 (out 3 0))] = true := by
  decide +kernel

/-- R216, R225. -/
theorem test_words_m : reads .m
    [(mw 0x01 0 2 10 0b0100100000000 3, .mcall p0 3 2 (.reg 10) true 8), (mw 0x02 0 0 5 0 6, .msetp p0 6 (.scalar (.reg 5))),
     (0x02 * 2 ^ 40 + 0x3FFFFFF * 2 ^ 8 + 0b1110, .msetp p0 6 (.imm 0x3FFFFFF Ext.none)), (mw 0x03 0 0 0 0 0x8B, .mcfg p0 .i8 .n8),
     (mw 0x04 0 0 5 6 1, .mstw p0 true (.reg 5) (.reg 6)), (mw 0x05 0 3 0 0 0, .acctk p0 3), (mw 0x06 0 2 0 0 0, .accgv p0 2),
     (mw 0x07 0 1 0 0 0, .accz p0 1), (mw 0x08 0 0 5 0 0, .ascfg p0 (.reg 5)), (mw 0x09 0 1 5 6 127, .asdrn p0 1 (.reg 5) (.reg 6) 127),
     (mw 0x0A 0 1 5 6 126, .acupd p0 1 (.reg 5) (.reg 6) 126), (mw 0x0B 0 1 (2 * 2 ^ 9) 0 99, .acfin p0 1 2 99)] = true := by decide +kernel

/-- R217, R226. -/
theorem test_words_e : reads .e
    [(ew 0x01 0 2 5 0 0, .cpy p0 2 (.reg 5)), (ew 0x02 0 3 5 0 0, .cpym p0 3 (.reg 5)), (ew 0x03 0 1 5 6 0b1100, .sig p0 1 (.reg 5) (.reg 6) .die true),
     (ew 0x04 0 0 0 0 0b1010, .qfen p0 10), (ew 0x08 0 4 5 6 32, .sld p0 (.reg 5) (.reg 6) 32), (ew 0x09 0 0 5 0 7, .scld p0 7 (.reg 5)),
     (ew 0x0C 0 0 0 0 0, .nxt p0), (ew 0x0D 0 0 0 0 0, .wswap p0), (ew 0x10 0 6 5 0 4, .rld p0 .row (.reg 5)), (ew 0x11 0 6 5 6 3, .rst p0 .d (.reg 5) (.reg 6)),
     (ew 0x12 0 6 5 6 (8 * 2 ^ 7 + 2 ^ 6 + 3 * 2 ^ 4 + 9), .ratom p0 .cas true true (.reg 5) (.reg 6) (.reg 8)),
     (ew 0x18 0 1 5 6 7, .xmeta p0 1 (.reg 5) (.reg 6) (.reg 7)), (ew 0x19 0 0 5 6 1, .rngs p0 (.reg 5) (.reg 6) true),
     (ew 0x1A 0 7 5 0 0, .tdone p0 (.reg 5)), (ew 0x1B 0 7 5 6 0, .prbr p0 (.reg 5) (.reg 6))] = true := by decide +kernel

/-- R218: an unassigned opcode, a reserved source, a nonzero reserved bit, a reserved width, type, condition and scope are no instruction. -/
theorem test_words_refused :
    [(SlotId.c, cw 0x0E 0 0), (.c, cw 0x03 0 (48 * 2 ^ 14)), (.c, cw 0x06 0 1), (.c, cw 0x0B 0 0), (.i, iw 0x1F 0 5 6 0), (.i, iw 0x01 0 33 6 0),
     (.i, iw 0x20 0 (3 * 8 + 6) 6 0), (.l, 0x28 * 2 ^ 40 + 7 * 2 ^ 33), (.l, lmw 0x20 0 5 6 (12 * 2 ^ 8 + 2 ^ 7)), (.v0, vw 0x01 0 3 0 0 0 0 0x60 0xC1 0x81),
     (.v0, vw 0x22 0 2 13 0 0 0 0x60 0xC1 0), (.v0, vw 0x22 0 2 6 0 0 0 0x60 0x1001 0), (.x, xw 0x09 0 0 0 0), (.m, mw 0x0C 0 0 0 0 0),
     (.e, ew 0x10 0 6 5 0 5), (.e, ew 0x0C 0 1 0 0 0)].all (fun e => match decodeSlot e.1 e.2 Ext.none with
       | .ok _ => false
       | .error _ => true) = true := by decide +kernel

/-! ### Bundles that the manual prints -/

/-- R201 to R203, R210, R298: the bytes of LI s5, 0x0123456789ABCDEF with L surrendered, and of VBCST.f32 t3.h0, 0x3F800000 with V1
surrendered. -/
theorem test_bundles_printed :
    decodeBundle [0x06, 0x04, 0xEF, 0x4D, 0x01, 0x04, 0xAF, 0x26, 0x9E, 0x15, 0x8D, 0x04] =
        .ok ⟨12, [(.i, .li p0 (.reg 5) 0x0DEF ⟨48, 0x048D159E26AF⟩)], [.i, .l]⟩ ∧
      decodeBundle [0x18, 0x10, 0x00, 0x00, 0x00, 0x80, 0x81, 0x00, 0x08, 0x21, 0x00, 0xFC, 0x01, 0x00, 0x00, 0x00, 0x00, 0x00] =
        .ok ⟨18, [(.v0, .vbcst (vh .w1024 .f32) (out 3 0) (.imm 0 ⟨64, 0x1FC00⟩))], [.v0, .v1]⟩ ∧
      immVal 0x0DEF 14 ⟨48, 0x048D159E26AF⟩ = 0x0123456789ABCDEF ∧ immVal 0 13 ⟨64, 0x1FC00⟩ = 0x3F800000 := by
  decide +kernel

/-- R202, R218: a bundle that leaves its line, a surrender bit without a slot below it, the surrender bit of C, and a form that takes no
extension are refused. -/
theorem test_bundles_refused :
    [[0x02, 0x00, 0x36, 0x87], [0x04, 0x04, 0, 0, 0, 0, 0, 0], [0x01, 0x01, 0, 0, 0, 9], [0x06, 0x04, 0x36, 0x87, 0x01, 0x14, 0, 0, 0, 0, 0, 0]].all
      (fun b => match decodeBundle b with
        | .ok _ => false
        | .error _ => true) = true := by decide +kernel

/-! ### Small states and single steps -/

/-- A running context on core 0 of die A, in a crew of one, with an image of one line. -/
def base : State := State.reset.withFetchWord 32 0x14018736

/-- Its registers set; the core and the engines of core 0 changed. -/
def withS (l : List (Nat × Word)) : State := base.modRegs 0 0 (fun g => { g with s := l })
def withCore (f : Core → Core) : State := base.modCore 0 f
def withCtx (f : Ctx → Ctx) : State := base.modCtx 0 0 f
def withEng (f : Engines → Engines) : State := base.modEng 0 f

/-- Whether an outcome is a next state that meets a test. -/
def nextHas (o : Host.Outcome State Fault Refusal) (f : State → Bool) : Bool :=
  match o with
  | .next t => f t
  | _ => false

/-- The value that an instruction lands, and its tick. -/
def landed (o : Host.Outcome State Fault Refusal) : Option (Word × Row) :=
  match o with
  | .next t => (t.ic.landing.getLast?).map (fun e => (e.due, e.val))
  | _ => none

/-- R155, R202: one cycle issues the bundle at the PC, whose six bytes the PC then passes; the tick goes on by one. -/
theorem test_step_issues : nextHas (step base) (fun t =>
    decide ((t.ctx 0 0).regs.pc = 6 ∧ (t.ctx 0 0).regs.tick = 1 ∧ (t.ctx 0 0).landing.length = 1)) = true := by decide +kernel

/-- R262, R263: a sum wraps, MULH is signed, SRA keeps the sign, and the division of the least number by −1 wraps. -/
theorem test_integer :
    let s := withS [(6, 0xFFFFFFFFFFFFFFFF), (7, 2), (8, 0x8000000000000000)]
    landed (exec (.add p0 (.reg 5) (.reg 6) (.src (.reg 7))) s) = some (1, 1) ∧
    landed (exec (.mulh p0 (.reg 5) (.reg 6) (.src (.reg 7))) s) = some (3, 0xFFFFFFFFFFFFFFFF) ∧
    landed (exec (.sra p0 (.reg 5) (.reg 8) (.imm 63)) s) = some (1, 0xFFFFFFFFFFFFFFFF) ∧
    landed (exec (.div p0 (.reg 5) (.reg 8) (.src (.reg 6))) s) = some (12, 0x8000000000000000) ∧
    landed (exec (.rem p0 (.reg 5) (.reg 6) (.src (.reg 0))) s) = some (12, 0xFFFFFFFFFFFFFFFF) ∧
    landed (exec (.clz p0 (.reg 5) (.reg 0)) s) = some (1, 64) := by decide +kernel

/-- R233, R242, R288: 1.5 + 2.5 is 4.0 and 1.0 + 2^-24 rounds to 1.0 with NX, in cell 0 of an FP32 row; both land three ticks on. -/
theorem test_vector_sum :
    let s := withCore (fun c => { c with tiles := [(6 * 32, 0x3F8000003FC00000), (4 * 32, 0x3380000040200000)] })
    (match exec (.vadd (vh .w1024 .f32) false .ne (out 3 0) (row 6 0) (row 4 0)) s with
      | .next t => (t.ic.landing.getLast?).map (fun e => (e.due, e.val, e.fl))
      | _ => none) = some (3, 0x3F80000040800000, flagNX) := by decide +kernel

/-- R168, R169, R261: TRAP parks its context and posts a record of cause 0x0D with its immediate. -/
theorem test_trap : nextHas (exec (.trap p0 0x12345) base) (fun t => decide ((t.ctx 0 0).mode = .trapped ∧
    t.crews.any (fun w => w.trapq.any (fun r => decide (r.cause = .trap ∧ r.info = 0x12345))) = true)) = true := by decide +kernel

/-- R256: BR asks for its target, and traps at the end of the image. -/
theorem test_control :
    nextHas (exec (.br p0 0x0003F) base) (fun t => decide (t.issue.ctl = .goto 0x3F)) = true ∧
    nextHas (exec (.br p0 0x00040) base) (fun t => decide (t.ic.mode = .trapped)) = true := by decide +kernel

/-- R14, R273: a half word is loaded with its sign from the scratchpad of core 0, four ticks on. -/
theorem test_load :
    landed (exec (.ld p0 .hs (.reg 5) (.reg 6) 0 Ext.none)
      { withS [(6, 0x00FF000000000010)] with mem := [(0x20000000010, 0xFE), (0x20000000011, 0xFF)] }) =
      some (4, 0xFFFFFFFFFFFFFFFE) := by decide +kernel

/-- R22, R379: an application core's store is performed at its home copy, and zero bytes are not listed. -/
theorem test_outside_store : nextHas (exec (.appCoreAccess { agent := 0, kind := .store 0x00FF, addr := 0x1000, size := 2 })
    { base with mem := [(0x1001, 7)], head := { base.head with phase := 5 } })
    (fun t => decide (t.mem = [(0x1000, 0xFF)])) = true := by decide +kernel

/-! ### Values that meet the hypotheses of the statements

Each theorem is named after its statement, and shows for each of its clauses a state and operands that meet the clause's hypotheses. -/

/-- base with the four cores of quad 0 in its crew, and the crew itself. -/
def quadBase : State := { base with crews := base.crews.map (fun w => { w with lr := (w.lr.set 12 0xF).set 1 0x0300000000000000 }) }
def crew0 : Crew := fetchCrew 0 (base.ctx 0 0).crew

/-- An active loop; three of them. -/
def aLoop : LoopSt := ⟨0, 6, 6, 0, 1, []⟩
def inLoops (n : Nat) : State := base.modRegs 0 0 (fun g => { g with loops := List.replicate n aLoop })

/-- base with the image ADD, ADD, HALT, and its first bundle in issue. -/
def running : State :=
  let add := encode (.add p0 (.reg 5) (.reg 5) (.src (.reg 5)))
  let s := withCore (fun c => { c with imem := add ++ add ++ encode (.halt p0) ++ List.replicate 46 0 })
  { s with issue := { s.issue with len := 6, present := [.i] } }

theorem test_meets_SlotWordsRoundTrip :
    (Instr.li p0 (.reg 5) 0x0DEF ⟨48, 0x048D159E26AF⟩).wf = true ∧ (Instr.li p0 (.reg 5) 0x0DEF ⟨48, 0x048D159E26AF⟩).slot = some .i ∧
      encodeSlot (.li p0 (.reg 5) 0x0DEF ⟨48, 0x048D159E26AF⟩) = some (0x04014DEF, ⟨48, 0x048D159E26AF⟩) := by decide +kernel

theorem test_meets_BundlesRoundTrip :
    (Instr.vbcst (vh .w1024 .f32) (out 3 0) (.imm 0 ⟨64, 0x1FC00⟩)).wf = true ∧
      (Instr.vbcst (vh .w1024 .f32) (out 3 0) (.imm 0 ⟨64, 0x1FC00⟩)).slot = some .v0 := by decide +kernel

theorem test_meets_AcceptedWordsAreCanonical :
    (0x14018736 : Nat) < 2 ^ SlotId.i.width ∧ decodeSlot .i 0x14018736 Ext.none = .ok (.shl p0 (.reg 6) (.reg 7) (.imm 13)) := by decide +kernel

theorem test_meets_StepRunsTheDecodedInstruction :
    let s := running
    let i : Instr := .add p0 (.reg 5) (.reg 5) (.src (.reg 5))
    let k := s.focus
    let g := s.tickTime.gateCheck k
    let o := (((((g.idleCycle k 0).idleCycle k 1).watchdogs k 0).watchdogs k 1).yieldAlone k 0)
    let c := o.ctx k 0
    let im := (o.core k).imem
    let pc := fetchPc im (o.imglen c.crew) c.regs.pc.toNat
    let ls := imemLocs k pc (bundleLen (presAt im pc))
    let b0 := o.begin k 0 pc 0 []
    let s2 := ((b0.meetUpsets ls (some b0.origin)).begin k 0 pc 6 [.i]).flushOwn k 0 [(.i, i)]
    let e := s2.landNow k 0
    s.agenda = [] ∧ (g.core k).gate.runs = true ∧ (g.core k).split = none ∧ (g.core k).fuse = none ∧
    ((((g.idleCycle k 0).idleCycle k 1).watchdogs k 0).watchdogs k 1).canIssue k 0 = true ∧
    ((((g.idleCycle k 0).idleCycle k 1).watchdogs k 0).watchdogs k 1).canIssue k 1 = false ∧
    c.conds = [] ∧ (breakHit c.dbrk pc && !c.skipBrk) = false ∧ pc < o.imglen c.crew ∧ o.ueAt ls = false ∧
    decodeBundle (lineRest im pc) = .ok ⟨6, [(.i, i)], [.i]⟩ ∧
    (∀ x ∈ (s2.ctx k 0).landing, x.due = c.regs.tick → x.wait = none) ∧
    (∀ x ∈ (e.ctx k 0).landing, x.due = c.regs.tick → x.failed = false) ∧
    e.meeting [(.i, i)] = [] ∧ (laneGroups i = 0 ∨ liveGroups (s2.core k) ≠ 0) ∧
    splitCycles (o.core k) [.i] (laneGroups i) ≤ 1 ∧ (o.core k).fits SlotId.i.weight = true ∧
    nextHas (exec i { e with issue := { e.issue with res := .ok } }) (fun v => decide (v.issue.res = .ok)) = true := by decide +kernel

theorem test_meets_DisabledSlotsDoNothing :
    slotPred (.add ⟨true, 0⟩ (.reg 5) (.reg 6) (.imm 1)) = some ⟨true, 0⟩ ∧ base.enabled ⟨true, 0⟩ = false ∧ base.issue.res = .ok := by decide +kernel

theorem test_meets_TransfersAndLoopsComplete :
    running.Goes p0 0 ∧ running.Goes p0 1 ∧ badTarget (running.issue.pc.setWidth 64 + (0x0003F#20 : BitVec 20).signExtend 64) running = false ∧
    (let s := running.modRegs 0 0 (fun g => { g with s := [(7, 63)] })
     s.Goes p0 0 ∧ badTarget (s.ss (.reg 7)) s = false) ∧
    running.ic.regs.loops.length < 3 ∧ loopBody 1 running = some (6, 6) ∧
    (let s := running.modRegs 0 0 (fun g => { g with s := [(7, 0xFFFFFFFF)], loops := List.replicate 2 aLoop })
     s.Goes p0 0 ∧ s.ic.regs.loops.length < 3 ∧ loopBody 1 s = some (6, 6) ∧ (s.ss (.reg 7)).toNat ≤ 2 ^ 32 - 1) := by
  unfold State.Goes; decide +kernel

theorem test_meets_ControlTraps :
    base.Goes p0 1 ∧ base.imglen base.ic.crew ≤ (base.issue.pc.setWidth 64 + (0x00040#20 : BitVec 20).signExtend 64).toNat ∧
    base.imglen base.ic.crew ≤ ((withS [(7, 64)]).ss (.reg 7)).toNat ∧
    ((inLoops 3).Goes p0 0 ∧ 3 ≤ (inLoops 3).ic.regs.loops.length) ∧ loopBody 2 base = none ∧
    (let s := running.modRegs 0 0 (fun g => { g with s := [(7, 0x100000000)] })
     s.Goes p0 0 ∧ 2 ^ 32 - 1 < (s.ss (.reg 7)).toNat ∧ s.ic.regs.loops.length < 3 ∧ loopBody 1 s = some (6, 6)) ∧
    (base.Goes p0 0 ∧ base.ic.regs.loops = []) := by
  unfold State.Goes; decide +kernel

theorem test_meets_ContextFlowCompletes :
    base.Goes p0 0 ∧ ((inLoops 1).Goes p0 0 ∧ (inLoops 1).ic.regs.loops ≠ []) ∧ (suspBad base = false ∧ base.suspSlot = some 0) ∧
    (quadBase.Goes p0 0 ∧ fuseBad false quadBase = false ∧ fuseBad true quadBase = false) ∧
    (let s := withCore (fun c => { c with fuse := some ⟨false, false⟩ })
     s.Goes p0 0 ∧ s.lockStep = true) ∧
    (let s := withCore (fun c => { c with fuse := some ⟨true, true⟩ })
     s.Goes p0 0 ∧ s.icore.fuse = some ⟨true, true⟩) := by
  unfold State.Goes; decide +kernel

theorem test_meets_TrapTakesTheTrap :
    base.enabled p0 = true ∧ base.crew? base.ic.crew = some crew0 ∧ base.issue.k < base.cores.length := by decide +kernel

theorem test_meets_IntegerTable :
    base.Goes p0 1 ∧ (fld 0x18018702 24 8 = 0x18 ∧ fld 0x18018702 1 7 ≠ 0) ∧ 0 < base.cores.length := by unfold State.Goes; decide +kernel

theorem test_meets_DivisionsComplete :
    base.Goes p0 1 ∧ base.so (.imm 1) ≠ 0 ∧ base.so (.imm 0) = 0 ∧
    (let s := withS [(6, 0x8000000000000000), (7, 0xFFFFFFFFFFFFFFFF)]
     s.Goes p0 1 ∧ s.ss (.reg 6) = 0x8000000000000000 ∧ s.so (.src (.reg 7)) = 0xFFFFFFFFFFFFFFFF) := by unfold State.Goes; decide +kernel

theorem test_meets_FieldsComplete :
    base.Goes p0 1 ∧ fld 0x1D014302 24 8 = 0x1D ∧ fld 0x1D014302 1 1 = 1 := by unfold State.Goes; decide +kernel

theorem test_meets_ImmediatesAndPredicatesComplete : base.Goes p0 1 ∧ (1 : BitVec 3) ≠ 0 := by unfold State.Goes; decide +kernel

theorem test_meets_RegistersAndTimeComplete :
    base.Goes p0 1 ∧ base.seqDie base.ic.crew = none ∧
    (let s := base.modSeq 0 (fun q => { q with ctl := 0x0000000100000001 ||| (base.ic.crew.setWidth 64 <<< 48), st := .run })
     s.Goes p0 1 ∧ s.seqDie s.ic.crew = some 0) ∧
    0 < base.cores.length ∧ (63 : Word).toNat % 64 ≤ 63 ∧ base.prioMax (base.ctx 0 0).crew < (63 : Word).toNat % 64 ∧
    (0 : Word).toNat % 64 ≤ base.prioMax (base.ctx 0 0).crew ∧ Csr.tick ≠ .fflags ∧ Csr.tick ≠ .prio := by unfold State.Goes; decide +kernel

/-- The scratchpad window's first address, a far place and its binding. -/
def win : Word := 0x00FF000000000000
def farAt (n : Nat) : Bound := ⟨[⟨0, 0x1000, n, .paged, none, false⟩], none⟩

theorem test_meets_NearLoadsComplete :
    (let s := withS [(6, win + 0xBFFFF), (7, win + 0xBFF80), (8, win + 0xBFFFC)]
     s.Goes p0 1 ∧ s.ic.refs = [] ∧ Near (s.ss (.reg 6) + immVal 0 24 Ext.none) 1 ∧ s.Clean (memLocs (spadBase 0 + 0xBFFFF) 1) ∧
     Near (s.ss (.reg 7) + immVal 0 17 Ext.none) 128 ∧ vdTraps (out 5 0) s = [] ∧ s.Clean (memLocs (spadBase 0 + 0xBFF80) 128) ∧
     (∀ i, i < 32 → Near (s.elemVa (.reg 8) (row 4 0) i) 4) ∧ vsTraps (row 4 0) s = [] ∧ s.Clean (vsWords (row 4 0) 1024 s) ∧
     (s.fixed (vsWords (row 4 0) 1024 s)).Clean ((List.range 32).flatMap (fun i => memLocs (spadBase 0 + nearAt (s.elemVa (.reg 8) (row 4 0) i)) 4))) ∧
    (let s := (withS [(8, win + 0xBFFFC)]).modCore 0 (fun c => { c with bankPaid := 32 })
     gatherWait .w (.reg 8) (row 4 0) s = none) := by
  unfold State.Goes State.Clean Near; decide +kernel

theorem test_meets_NearStoresComplete :
    let s := (withS [(6, win + 0xBFFF8), (7, win + 0xBFF80), (8, win)]).modCore 0 (fun c => { c with bankPaid := 32 })
    s.Goes p0 1 ∧ Near (s.ss (.reg 6) + immVal 0 24 Ext.none) 8 ∧ Near (s.ss (.reg 7) + immVal 0 17 Ext.none) 128 ∧
    vsTraps (row 5 0) s = [] ∧ s.Clean (vsWords (row 5 0) 1024 s) ∧ (∀ i, i < 16 → Near (s.elemVa (.reg 8) (row 4 0) i) 8) ∧
    vsTraps (row 4 0) s = [] ∧ gatherWait .d (.reg 8) (row 4 0) s = none ∧ s.storeAfter [(0xBFFF8, 8)] = none ∧
    s.storeAfter [(0xBFF80, 128)] = none ∧ s.storeAfter ((List.range 16).map (fun i => (nearAt (s.elemVa (.reg 8) (row 4 0) i), 8))) = none ∧
    s.Clean (vsWords (row 4 0) 1024 s ++ vsWords (row 5 0) 1024 s) := by
  unfold State.Goes State.Clean Near; decide +kernel

theorem test_meets_NearStoresLand : base.MemOk := by unfold State.MemOk; decide +kernel

theorem test_meets_NearFormsTrap :
    let s := withS [(6, win + 0xC0000), (7, win + 0xBFF88), (8, win + 2)]
    s.Goes p0 1 ∧ vdTraps (out 5 0) s = [] ∧ vsTraps (row 5 0) s = [] ∧ vsTraps (row 4 0) s = [] ∧ s.Clean (vsWords (row 5 0) 1024 s) ∧
    s.Clean (vsWords (row 4 0) 1024 s) ∧ s.Clean (vsWords (row 4 0) 1024 s ++ vsWords (row 5 0) 1024 s) ∧
    ¬ Near (s.ss (.reg 6) + immVal 0 24 Ext.none) (ldBytes .b) ∧ ¬ Near (s.ss (.reg 6) + immVal 0 24 Ext.none) (szBytes .b) ∧
    ¬ Near (s.ss (.reg 7) + immVal 0 17 Ext.none) 128 ∧ ¬ Near (s.elemVa (.reg 8) (row 4 0) 0) (szBytes .w) := by
  unfold State.Goes State.Clean Near; decide +kernel

theorem test_meets_FarAccessesComplete :
    let s := withS [(6, 0x1000), (7, win)]
    s.Goes p0 1 ∧ s.WalksRoom ∧ s.ic.qld.length < 32 ∧ (s.ss (.reg 6)).toNat % ldBytes .d = 0 ∧ s.bind .load 0x1000 8 = some (farAt 8) ∧
    s.halfWait s.issue.k (farAt 8).half false = none ∧ (s.ss (.reg 6)).toNat % szBytes .d = 0 ∧ s.bind .store 0x1000 8 = some (farAt 8) ∧
    s.ic.pubs = [] ∧ s.halfWait s.issue.k (farAt 8).half true = none ∧ s.icore.eng.logL.length < 64 ∧
    (s.ss (.reg 6)).toNat < 0x00FF000000000000 ∧ s.bind .prefetch 0x1000 1 = some (farAt 1) ∧ inHeap s.ic.xl 0x1000 = false ∧
    0x00FF000000000000 ≤ (s.ss (.reg 7)).toNat ∧ (s.bind .scale (s.ss (.reg 7)) 1).isSome = true ∧
    s.bind .load 0x1000 128 = some (farAt 128) ∧ s.bind .store 0x1000 128 = some (farAt 128) ∧ vsTraps (row 5 0) s = [] ∧ s.upsets = [] ∧
    s.bind .atomic 0x1000 8 = some (farAt 8) ∧ ordsumFull .add true (s.ss (.reg 6)) s = false := by
  unfold State.Goes State.WalksRoom; decide +kernel

/-- base with one entry of qld. -/
def queued (k : QKind) (v : Option Row) (e : Option QErr) : State := withCtx (fun c => { c with qld := [⟨0, k, v, e⟩] })

theorem test_meets_PopsComplete :
    ((queued (.scal .hs) (some 0xFFFF) none).Goes p0 1 ∧ (queued (.scal .hs) (some 0xFFFF) none).queue .qld = [⟨0, .scal .hs, some 0xFFFF, none⟩]) ∧
    ((queued .row (some 1) none).queue .qld = [⟨0, .row, some 1, none⟩] ∧ vdTraps (out 5 0) (queued .row (some 1) none) = []) ∧
    ((queued (.scal .d) (some 0) (some ⟨.faultAbort, 0, 0, true, 0⟩)).queue .qld = [⟨0, .scal .d, some 0, some ⟨.faultAbort, 0, 0, true, 0⟩⟩]) ∧
    base.queue .qld = [] ∧
    ((queued .row (some 0) (some ⟨.remote, 0, 4, false, 0⟩)).queue .qld = [⟨0, .row, some 0, some ⟨.remote, 0, 4, false, 0⟩⟩] ∧
      Cause.remote ≠ .eccUe) := by unfold State.Goes; decide +kernel

theorem test_meets_SynchronisationsComplete : base.Goes p0 0 ∧ base.issue.k < base.cores.length := by unfold State.Goes; decide +kernel

/-- base with a wait read of an address that has come back with 5. -/
def waited : State := (withS [(2, 0x1000), (3, 5), (4, 6), (9, 6)]).modCtx 0 0 (fun c => { c with waitRd := some ⟨7, some 5, none⟩ })

theorem test_meets_WaitsComplete :
    (let s := withS [(2, 0x1000)]
     s.Goes p0 0 ∧ s.WalksRoom ∧ (s.ss (.reg 2)).toNat % 8 = 0 ∧ s.bind .waitRead (s.ss (.reg 2)) 8 = some (farAt 8) ∧ s.issue.k < s.cores.length ∧
       s.ic.waitRd = none) ∧
    (waited.Goes p0 0 ∧ waited.ic.waitRd = some ⟨7, some 5, none⟩ ∧ (5 : Word) = waited.ss (.reg 3) ∧ ¬ (5 : Word) = waited.ss (.reg 4) ∧
      (4 : BitVec 5).toNat ≤ 4 ∧ suspBad waited = false ∧ waited.suspSlot = some 0 ∧ ¬ (5 : Word) = waited.ss (.reg 9) ∧
      waited.suspSlot.isSome = true ∧ 4 < (9 : BitVec 5).toNat) := by unfold State.Goes State.WalksRoom; decide +kernel

theorem test_meets_VectorArithmeticCompletes :
    base.VReady (vh .w1024 .f32) (out 5 0) [row 4 0, row 6 0] ∧ base.VReady (vh .w1024 .i8) (out 5 0) ([row 4 0, row 6 0] ++ dstSrc (out 5 0)) := by
  unfold State.VReady State.Goes State.Clean; decide +kernel

theorem test_meets_VectorLanesComplete :
    base.VReady (vh .w256 .lns6) (out 5 0) [row 4 0] ∧ base.VReady (vh .w512 .e5m2) (out 5 0) [row 4 0, row 6 0] ∧
      base.VReady (vh .w1024 .b64) (out 5 0) ([row 4 0, row 6 0] ++ dstSrc (out 5 0)) := by
  unfold State.VReady State.Goes State.Clean; decide +kernel

theorem test_meets_IntegerLanesAreExact : Ty.i8.isN = true := by decide

theorem test_meets_VectorLogicAndMovesComplete :
    base.VReady (vh .w1024 .b64) (out 5 0) [row 4 0, row 6 0] ∧ base.VReady (vh .w512 .i16) (out 5 0) [] ∧
    base.VReady (vh .w512 .i16) (out 5 0) [row 4 0] ∧ (base.Goes p0 1 ∧ vsTraps (row 4 0) base = [] ∧ base.Clean (vsWords (row 4 0) 512 base)) ∧
    base.VReady (vh .w512 .i16) (out 5 0) (dstSrc (out 5 0)) ∧
    (let s := quadBase.modCore 0 (fun c => { c with fuse := some ⟨true, false⟩ })
     s.VReady (vh .w1024 .b64) (out 5 0) [row 4 0] ∧ s.icore.fuse = some ⟨true, false⟩ ∧ (3 : BitVec 2).toNat < 4 ∧
       partner true 0 3 ∉ s.groupOf 0 ∧
     (let x := encode (.vxch (vh .w1024 .b64) 3 (out 5 0) (row 4 0))
      let join (c : Core) : Core := { c with fuse := some ⟨true, false⟩, imem := x ++ encode (.halt p0) ++ List.replicate 46 0 }
      let t := (s.modCore 0 join).modCore 3 (fun c => { join c with c0 := { c.c0 with mode := .running, crew := s.ic.crew } })
      let p := partner true 0 3
      p ∈ t.groupOf 0 ∧ (t.ctx p (t.residentOf p)).mode = .running ∧
        (t.facing p (t.residentOf p)).nextIn p (t.residentOf p) .v0 = some (.vxch (vh .w1024 .b64) 3 (out 5 0) (row 4 0)) ∧
        (t.facing p (t.residentOf p)).enabled p0 = true)) := by
  unfold State.VReady State.Goes State.Clean; decide +kernel

theorem test_meets_PermutationsComplete :
    base.VReady (vh .w256 .i8) (out 5 0) [row 4 0, row 6 0] ∧ base.VReady (vh .w256 .i8) (out 5 0) [row 4 0] := by
  unfold State.VReady State.Goes State.Clean; decide +kernel

theorem test_meets_ReductionsComplete :
    base.VReady (vh .w1024 .f32) (out 5 0) [row 4 0] ∧ Ty.n8.isN = true ∧ Ty.e4m3.isF = true := by
  unfold State.VReady State.Goes State.Clean; decide +kernel

theorem test_meets_SpecialFunctionsComplete :
    base.VReady (vh .w512 .bf16) (out 5 0) [row 4 0] ∧ Ty.bf16.isSpecial = true ∧ fmtOf .bf16 = some Fmt.bf16 := by
  unfold State.VReady State.Goes State.Clean; decide +kernel

theorem test_meets_SpecialInputsGiveTheTable :
    (0x7FC1 : Nat) < 2 * Fmt.bf16.signBit ∧ Fmt.bf16.infCode < 0x7FC1 % Fmt.bf16.signBit ∧
    (floatValue Fmt.bf16 0x4300 = .fin false 128 1 ∧ (Fmt.bf16.bias + 1) * 1 ≤ 128) ∧
    (Fmt.bf16.signBit < 0x8001 ∧ 0x8001 % Fmt.bf16.signBit ≤ Fmt.bf16.infCode) ∧
    (∃ n d, floatValue Fmt.bf16 0x4781 = .fin false n d ∧ 65536 * d < n) := by
  refine ⟨by decide +kernel, by decide +kernel, by decide +kernel, by decide +kernel, 66048, 1, by decide +kernel⟩

theorem test_meets_AccumulatorRowsComplete :
    let s := base.modRegs 0 0 (fun g => { g with tok := 0xF })
    Ty.bf16.isF = true ∧ Width.w512.bits = 32 * 8 * Ty.bf16.size ∧ s.Goes p0 1 ∧ s.accBad 3 = false ∧ s.ic.regs.tok.getLsbD 3 = true ∧
      s.issue.k < s.cores.length ∧ vdTraps (out 5 0) s = [] ∧ s.Clean (accWords s.issue.k (s.physAcc 3 * 512 + 127 * 4 + 3)) ∧ vsTraps (row 4 0) s = [] ∧
      s.Clean (vsWords (row 4 0) 512 s) := by unfold State.Goes State.Clean; decide +kernel

theorem test_meets_TransformsComplete :
    let s := withEng (fun e => { e with fifo := [.row 1] })
    s.Goes p0 2 ∧ vdTraps (out 5 0) s = [] ∧ vsTraps (row 4 0) s = [] ∧ s.Clean (vsWords (row 4 0) 1024 s) ∧ s.issue.k < s.cores.length ∧
      s.icore.eng.fifo = [.row 1] ∧ Ty.lns6 ≠ .b64 := by unfold State.Goes State.Clean; decide +kernel

theorem test_meets_PackScaleIsTheLeast : (0 : Nat) < 1 ∧ (0 : Nat) < 448 := by decide

/-- A running core whose accumulator 1 is with the V slots. -/
def withV : State := (withS [(5, 0), (6, 128), (7, 0x10)]).modRegs 0 0 (fun g => { g with tok := 0x2 })

theorem test_meets_MatrixInstructionsComplete :
    base.Goes p0 1 ∧ base.issue.k < base.cores.length ∧ (base.icore.eng.mx = [] ∧ base.icore.tokensOut = false) ∧
    (withV.accBad 1 = false ∧ withV.tokV 1 = true ∧ withV.ic.vPending (withV.physAcc 1) = false) ∧
    (withV.accBad 0 = false ∧ withV.tokV 0 = false) ∧ (∀ e ∈ withV.icore.eng.mx, withV.physAcc 0 ∉ mxNames e) ∧
    (bf (withV.ss (.reg 5)) 63 32 = 0 ∧ bf (withV.ss (.reg 5)) 15 5 = 0 ∧ wb (withV.ss (.reg 5)) 4 = false ∧ wb (withV.ss (.reg 7)) 4 = true ∧
      bf (withV.ss (.reg 7)) 63 32 = 0 ∧ bf (withV.ss (.reg 7)) 15 5 = 0) ∧ withV.icore.eng.mx.length < 8 ∧
    (0 < (withV.ss (.reg 6)).toNat ∧ (withV.ss (.reg 5)).toNat + (withV.ss (.reg 6)).toNat ≤ 128 ∧ withV.ic.qas.length + 128 ≤ 128) ∧
    (withV.icore.ta.size = 2 → (0 : BitVec 7).toNat + 1 ≤ 64) ∧
    ((withS [(5, win), (6, 128)]).rowTraps (strideRows win 128 128) 128 = []) ∧
    (let s := (withS [(10, win)]).modRegs 0 0 (fun g => { g with mp := [(0, 128)] })
     (s.icore.eng.mx.filter (·.isCall)).length < 2 ∧ mcallTraps 0 2 (.reg 10) false 12 s = []) := by
  unfold State.Goes; decide +kernel

/-- A copy record in doublewords: 128 bytes from local offset 0x1000 to 0x2000; the same to the members of the crew. -/
def copyRec : List Word := [win + 0x1000, win + 0x2000, 0, 0x0080000100800001, 0xBB, 0, 0, 0]
def multiRec : List Word := [win + 0x1000, win + 0x2000, 0, 0x0080000100800001, 0x1000000BB, 0x10000, 0, 0]
def wordsAt (a : Nat) (l : List Word) (m : Memory) : Memory := Tab.blit m a (l.flatMap (toBytes 8))

theorem test_meets_EngineInstructionsComplete :
    base.Goes p0 1 ∧ base.issue.k < base.cores.length ∧ (base.icore.eng.ce 3).length < 16 ∧
    copyTraps false (.reg 5) { withS [(5, win)] with mem := wordsAt (spadBase 0) copyRec [] } = [] ∧
    copyTraps true (.reg 5) { withS [(5, win)] with mem := wordsAt (spadBase 0) multiRec [] } = [] ∧ base.upsets = [] ∧ base.ic.refs = [] ∧
    copyViewWait (.reg 5) { withS [(5, win)] with mem := wordsAt (spadBase 0) copyRec [] } = none ∧
    copyViewWait (.reg 5) { withS [(5, win)] with mem := wordsAt (spadBase 0) multiRec [] } = none ∧
    (let s := withS [(5, 0x1000), (6, 0x7FFFFFFF), (7, 0x2000), (8, 0x100000000)]
     (s.ss (.reg 5)).toNat % 8 = 0 ∧ (s.bind .sigAdd (s.ss (.reg 5)) 8).isSome = true ∧ (s.bind .sigWrite (s.ss (.reg 5)) 8).isSome = true ∧
     2 ≤ (s.ss (.reg 6)).toNat ∧ (s.ss (.reg 6)).toNat ≤ 2 ^ 31 - 1 ∧ (s.ss (.reg 7)).toNat % 4 = 0 ∧
     (s.bind .copySrc (s.ss (.reg 5)) 0x7FFFFFFF).isSome = true ∧ (s.bind .copyDst (s.ss (.reg 8)) (4 * (0x7FFFFFFF / 34 + 1))).isSome = true ∧
     s.viewWait (s.rowViews .copySrc (s.ss (.reg 5)).toNat 0 1 [0] ++ s.rowViews .copyDst (s.ss (.reg 8)).toNat 0 1 [0]) false = none) ∧
    (∀ i, i < 4 → (0xF : BitVec 4).getLsbD i = true → (base.icore.eng.ce i).length < 16) ∧ base.seqDie base.ic.crew = none ∧
    (let s := base.modSeq 0 (fun q => { q with ctl := 0x0000000100000001, st := .run })
     s.seqDie s.ic.crew = some 0 ∧ (s.die 0).seq.st ≠ .done ∧ (s.die 0).seq.st ≠ .stopped) ∧
    (let s := base.modCluster 0 (fun c => { c with owner := 0, exp := 16, arr := 15 })
     (s.cluster 0).owner = s.ic.crew ∧ s.icore.swapArr = false ∧ (s.cluster 0).exp ≠ 0 ∧ (s.cluster 0).exp.toNat ≤ 16 ∧ 0 < s.clusters.length) := by
  unfold State.Goes; decide +kernel

/-- base with its cluster owned by its crew, and port 0 up as the way to package 1. -/
def wired : State :=
  let s := (withS [(5, 0x00FF000200000000), (6, 2), (7, 0x0010000000000000), (8, win), (9, win + 0xBFF80), (10, 0x1000)]).modCluster 0
    (fun c => { c with owner := 0 })
  { s with head := { s.head with routes := [(1, 1)], ports := { Port.reset with en := true, up := true, lanes := 4 } :: List.replicate 7 Port.reset } }

theorem test_meets_StreamAndRemoteInstructionsComplete :
    let s := wired
    s.Goes p0 1 ∧ s.issue.k < s.cores.length ∧ s.WalksRoom ∧
    (2 ≤ (s.ss (.reg 6)).toNat ∧ (s.ss (.reg 5)).toNat % 2 = 0 ∧ 0x00FF000200000000 ≤ (s.ss (.reg 5)).toNat ∧
      (s.ss (.reg 5)).toNat - 0x00FF000200000000 + 2 ≤ 0xC000000 ∧ (s.cluster 0).owner = s.ic.crew ∧ (s.cluster 0).clr = false ∧ s.icore.swapArr = false ∧
      s.icore.eng.sl.length < 4 ∧ 0 < s.clusters.length) ∧
    ((s.ss (.reg 10)).toNat % 64 = 0 ∧ s.bind .scale (s.ss (.reg 10)) 64 = some (farAt 64) ∧ s.halfWait 0 (farAt 64).half false = none ∧
      winOf (s.ss (.reg 10)).toNat ≠ 1) ∧
    ((s.ss (.reg 8)).toNat % 64 = 0 ∧ s.bind .scale (s.ss (.reg 8)) 64 = some ⟨[⟨0, win, 64, .loc, none, false⟩], none⟩ ∧ Near (s.ss (.reg 8)) 64 ∧
      s.Clean (memLocs (spadBase 0) 64)) ∧
    ((∀ r ∈ s.icore.eng.rm, r.sent.isSome = true) ∧ (rmTo s.icore.eng 1).length < 8 ∧ bf (s.ss (.reg 7)) 63 52 = 1 ∧ 1 ≠ s.head.trsId.toNat ∧
      s.portFor 0 1 = some 0 ∧ (s.head.ports.getD 0 Port.reset).buf.length < 8192) ∧
    s.ic.qrm.length < 32 ∧ s.ic.refs = [] ∧ s.ic.pubs = [] ∧ (s.ss (.reg 7)).toNat % 128 = 0 ∧ Near (s.ss (.reg 9)) 128 ∧
    s.Clean (memLocs (spadBase 0 + 0xBFF80) 128) ∧ s.icore.eng.sq.length < 16 := by
  unfold State.Goes State.Clean State.WalksRoom Near; decide +kernel

/-! ### Events -/

/-- base with one far access of n bytes at 0x1000 of HBM4E, fixed at issue; reset's held ranges lie higher. -/
def farOf (f : FarKind) (n : Nat) : FarAcc :=
  { id := 0, who := base.origin, kind := f, va := 0x1000, size := n, data := 1, parts := [⟨0, 0x1000, n, .phys 0x1000, none, false⟩],
    root := Xlat.zero.root, after := [], tick := 0 }
def withFar (f : FarKind) (n : Nat) : State := withCore (fun c => { c with far := [farOf f n] })

theorem test_meets_FarEventsComplete :
    (∀ x ∈ [(FarKind.load, 128), (.scale 7, 64), (.atom .cas true true, 8), (.waitRead, 8), (.prefetch, 1), (.store, 1), (.atom .fmax false false, 4)],
      let s := withFar x.1 x.2
      let a := farOf x.1 x.2
      0 < s.cores.length ∧ s.far? 0 0 = some a ∧ a.who.k = 0 ∧ (s.ctx 0 a.who.r).uid = a.who.uid ∧ s.farFree a = true ∧ s.upsets = [] ∧
        s.moves = [] ∧ a.got = 0 ∧
        Memory.wf s.mem = true ∧ inHbm 0x1000 x.2 = true ∧ 0 < x.2 ∧ x.2 ≤ 128 ∧ s.farPieces a = some [(0, 0x1000, x.2)] ∧
        a.parts = [⟨0, 0x1000, x.2, .phys 0x1000, none, false⟩] ∧
        s.pieces 0 0 a.root (farAk a.kind) ⟨0, 0x1000, x.2, .phys 0x1000, none, false⟩ = some [(0x1000, x.2)] ∧ (s.core 0).snap = [] ∧
        logHits (s.core 0).eng.logL a.root a.va.toNat a.size = false) ∧
    (let s := (withFar .waitRead 8).modCtx 0 0 (fun c => { c with waitRd := some ⟨0, none, none⟩ })
     (s.ctx 0 0).waitRd = some ⟨0, none, none⟩ ∧ s.farPieces (farOf .waitRead 8) = some [(0, 0x1000, 8)]) ∧
    base.exact? base.origin.crew = false ∧
    (let s := { withFar (.atom .fadd false false) 4 with crews := [{ crew0 with exact := true }] }
     s.exact? (farOf (.atom .fadd false false) 4).who.crew = true ∧ (s.die (homeDie 0x1000)).ordsum.length < 2048 ∧ homeDie 0x1000 < s.dies.length ∧
       s.farFree (farOf (.atom .fadd false false) 4) = true) := by
  decide +kernel

/-- The crew of base with a heap window at 0x10000, a trap area at 0x20000 and an MSI of identity 5. -/
def crewH : Crew :=
  { crew0 with lr := (((((crew0.lr.set 6 0x10000).set 7 0x10000).set 9 7).set 16 0x20000).set 17 0x0050050000000000) }
def crewed (f : Crew → Crew) : State := { base with crews := [f crewH] }

/-- A continuation record in slot 0 of its queue: STATE, condition eq against s1, which is 0, at 0x10000. -/
def recAt (st : Nat) : Memory := wordsAt 0 [0, BitVec.ofNat 64 (st * 2 ^ 38 + 1 * 2 ^ 29), 0, 0, 0, 0, 0, 0x10000] []

theorem test_meets_SynchronisationEventsComplete :
    (0 < base.cores.length ∧ (base.core 0).eng.rm = [] ∧ base.upsets = []) ∧
    (let s := withCtx (fun c => { c with pubs := [⟨0, .pub, .pkg, [3]⟩] })
     (s.ctx 0 0).pubs = [⟨0, .pub, .pkg, [3]⟩] ∧ (s.core 0).pubDone [3] = true) ∧
    (let s := quadBase.modCtx 0 0 (fun c => { c with pubs := [⟨0, .pbar, .quad, []⟩], mode := .barrier .quad false })
     (s.ctx 0 0).pubs = [⟨0, .pbar, .quad, []⟩] ∧ (s.core 0).pubDone [] = true ∧ (s.ctx 0 0).mode = .barrier .quad false ∧
     ∃ w ∈ s.crews, s.crew? (s.ctx 0 0).crew = some w ∧ 0 ∈ w.members ∧ w.arrived = [] ∧ 1 ∈ w.members ∧ sameInst .quad 0 1 = true) ∧
    (let s := (crewed (fun w => w)).modCtx 0 0 (fun c => { c with pubs := [⟨0, .pbar, .core, []⟩], mode := .barrier .core false })
     s.crew? (s.ctx 0 0).crew = some crewH ∧ crewH.members = [0] ∧ crewH.arrived = []) ∧
    (let s := withCtx (fun c => { c with refs := [⟨5, .pkg, [3, 4]⟩] })
     (s.ctx 0 0).refs = [⟨5, .pkg, [3, 4]⟩] ∧ s.refReady 0 0 ⟨5, .pkg, [3, 4]⟩ = true) ∧
    (let s := (crewed (fun w => { w with reserved := [15] })).modCtx 0 0 (fun c => { c with mode := .suspending ⟨15, true, true, .ltu, .pkg, 4, 0x10000⟩ })
     s.crew? (s.ctx 0 0).crew = some { crewH with reserved := [15] } ∧ (s.ctx 0 0).pubs = [] ∧ inHbm (crewH.queueAt.1 + 64 * 15) 64 = true ∧
     Memory.wf s.mem = true ∧ crewH.lcore 0 < 256) ∧
    (let s := { crewed (fun w => w) with mem := recAt 2 }
     s.crew? crewH.id = some crewH ∧ 0 < crewH.queueAt.2 ∧ 0 ∉ crewH.reserved ∧ recSt (s.queueRec crewH 0) = 2 ∧
     s.waitPlace crewH (crewH.phys (recLcore (s.queueRec crewH 0))) (lrw (s.queueRec crewH 0) 7) = some 0x10000 ∧
     Wc.dec (bf (lrw (s.queueRec crewH 0) 1) 37 35) = some .eq ∧ recVal (s.queueRec crewH 0) = some 0 ∧ inHbm 0x10000 8 = true ∧
     inHbm crewH.queueAt.1 64 = true ∧ wcHolds .eq (s.read64 0x10000) 0 = true ∧ Memory.wf s.mem = true) ∧
    (let s := { (crewed (fun w => w)).modCtx 0 0 (fun c => { c with mode := .empty }) with mem := recAt 1 }
     s.crews.find? (fun x => decide (x.st = .running) && x.members.contains 0) = some crewH ∧ s.crew? crewH.id = some crewH ∧
     s.pickupSlot crewH 0 = some 0 ∧ s.takerOf crewH 0 = some 0 ∧ s.badRec crewH 0 (s.queueRec crewH 0) = false ∧ recSt (s.queueRec crewH 0) = 1 ∧
     recLoops (s.core 0).imem crewH.imglen (s.queueRec crewH 0) = some []) := by decide +kernel

/-- A package in full service whose only crew stands in st. -/
def serving (ph : BitVec 3) (f : Crew → Crew) : State :=
  let s := crewed f
  { s with head := { s.head with phase := ph } }

theorem test_meets_CrewPlacementCompletes :
    (let s := serving 5 (fun w => { w with st := .waiting })
     let w := { crewH with st := .waiting }
     Memory.wf s.mem = true ∧ s.upsets = [] ∧ w.members.Nodup ∧ (∀ m ∈ w.members, m < s.cores.length ∧ (s.core m).gate = .active) ∧ s.nextLaunch = some w ∧ s.coresFree w = true ∧
     inHbm (bf (lrw w.lr 2) 51 0) w.imglen = true ∧ inHbm (bf (lrw w.lr 4) 51 0) (bf (lrw w.lr 3) 51 32) = true ∧ bf (lrw w.lr 3) 51 32 ≤ 0xC0000 ∧
     inHbm w.queueAt.1 (64 * w.queueAt.2) = true ∧ (∀ a ∈ w.flagPas, inHbm a 8 = true)) ∧
    (let s := serving 5 (fun w => { w with st := .placed })
     let w := { crewH with st := .placed }
     s.crew? w.id = some w ∧ w.rt.toNat ≤ s.time.toNat ∧ s.seqDie w.id = none ∧
     (∀ m ∈ w.members, (s.ctx m 0).refs = [] ∧ (s.ctx m 1).refs = [] ∧ (s.core m).eng.rm = []) ∧
     (let t := s.modSeq 0 (fun q => { q with ctl := 1, st := .armed })
      t.crew? w.id = some w ∧ t.seqDie w.id = some 0 ∧ 0 < t.dies.length ∧ (t.die 0).seq.st = .armed ∧ (t.die 0).seq.still = false)) ∧
    (let s := (serving 4 (fun w => w)).modDie 0 (fun d => { d with frames := (List.range 20).map (fun n => (n, n)) })
     s.crew? crewH.id = some crewH ∧ s.mustYield crewH = true ∧ crewH.members.length = crewH.size + 1 ∧ (∀ m ∈ crewH.members, (s.core m).stands = true) ∧
     ∀ i, i ≤ crewH.size → ∀ x ∈ slotsUnder (crewH.saveBlock i) 0x140000, (s.frame? x).isSome = true) ∧
    (let w := { crewH with st := .preempted, saved := [⟨0, base.core 0⟩] }
     let s := serving 5 (fun _ => w)
     s.nextLaunch = some w ∧ s.crew? w.id = some w ∧ s.coresFree w = true ∧ (w.saved.map (·.lcore)).Nodup ∧ ∀ v ∈ w.saved, v.lcore < w.members.length) := by
  decide +kernel

theorem test_meets_CrewEventsComplete :
    (let s := (crewed (fun w => { w with killed := true })).modCtx 0 0 (fun c => { c with mode := .empty })
     let w := { crewH with killed := true }
     s.crew? w.id = some w ∧ s.finished w = true ∧ w.kills = [] ∧ w.queue < s.head.queues.length) ∧
    (let x : TrapRec := { cause := .trap, slots := 1, lcore := 0, rslot := 0, async := false, halted := false, image := 0, pc := 0, tick := 0, time := 0,
                          addr := 0, info := 3, seq := 15, resume := none }
     let w := { crewH with trapq := [x] }
     let s := crewed (fun _ => w)
     s.crews.find? (fun y => decide (y.id = w.id) && decide (y.trapq ≠ [])) = some w ∧ s.upsets = [] ∧
     inHbm (bf (lrw w.lr 16) 51 6 * 64 + 64 * 15) 64 = true ∧ Tab.get s.mem (0x20000 + 64 * 15 + 7) = 0 ∧
     imsicFile (msiAddr (lrw w.lr 17)) = some 0 ∧ bf (lrw w.lr 17) 62 52 ≠ 0) ∧
    (let s := (withCtx (fun c => { c with yieldCnt := 2 ^ 24 })).modCtx 0 1 (fun c => { c with mode := .running })
     (s.ctx 0 0).mode = .running ∧ (s.ctx 0 1).mode ≠ .empty ∧ 2 ^ min 40 (max 10 (bf (s.ctx 0 0).wdog 5 0)) ≤ (s.ctx 0 0).yieldCnt) ∧
    (let s := (crewed (fun w => w)).modCtx 0 0 (fun c => { c with stallCnt := 2 ^ 26 })
     2 ^ min 40 (max 16 (bf (s.ctx 0 0).wdog 37 32)) ≤ (s.ctx 0 0).stallCnt ∧ (s.ctx 0 0).mode = .running ∧
     (let t := s.modCtx 0 0 (fun c => { c with mode := .barrier .pkg true })
      2 ^ min 40 (max 16 (bf (t.ctx 0 0).wdog 37 32)) ≤ (t.ctx 0 0).stallCnt ∧ t.crew? (t.ctx 0 0).crew = some crewH ∧ (t.ctx 0 0).conds = [] ∧
        (t.ctx 0 0).mode = .barrier .pkg true) ∧
     (let t := s.modCtx 0 0 (fun c => { c with mode := .suspending ⟨0, false, false, .eq, .core, 0, 0⟩ })
      2 ^ min 40 (max 16 (bf (t.ctx 0 0).wdog 37 32)) ≤ (t.ctx 0 0).stallCnt ∧ t.crew? (t.ctx 0 0).crew = some crewH)) := by decide +kernel

/-- Five levels of tables that map the page of 0x1000 to itself, readable and writable by contexts; and a far load there. -/
def tables : Memory :=
  wordsAt 0x4008 [0x417] (wordsAt 0x3000 [0x1001] (wordsAt 0x2000 [0xC01] (wordsAt 0x1000 [0x801] (wordsAt 0 [0x401] []))))
def pagedFar : FarAcc := { farOf .load 8 with parts := [⟨0, 0x1000, 8, .paged, none, false⟩] }
def pagedState (m : Memory) : State := { withCore (fun c => { c with far := [pagedFar] }) with mem := m }

/-- A page record, and base with a list of them on die A. -/
def aRec (closed : Bool) (seq : Option (BitVec 32)) : PageRec := ⟨0, 1, 1, 1, 1, 0, 0, 0, closed, seq, 0x40, 0⟩
def faulted (l : List PageRec) : State := base.modFlt 0 (fun f => { f with ctl := 0x0000006400010001, seq := 1, recs := l })

/-- A side-log entry for the heap place 0x10000. -/
def aLog (k : LogKind) : LogEnt := ⟨1, 1, base.origin, k, 0x10000, .phys 0x10000, 8, 7, Xlat.zero.root, none, false, 0, []⟩

theorem test_meets_FaultEventsComplete :
    (0 < base.cores.length ∧ 0 < base.dies.length ∧ 1 < base.dies.length ∧ Memory.wf base.mem = true ∧ Memory.wf tables = true) ∧
    (let s := pagedState tables
     s.far? 0 0 = some pagedFar ∧ dieOf 0 = 0 ∧ s.farMiss pagedFar = some (⟨0, 0x1000, 8, .paged, none, false⟩, 0x1000) ∧ s.upsets = [] ∧
     s.walkRuns 0 (walkKey pagedFar.root 0x1000) = true ∧ s.cores.all (fun c => c.far.all (fun b => b == pagedFar)) = true ∧ (s.die 0).walks = [] ∧
     (s.walk 0 pagedFar.root 0x1000 .load).1 = .leaf 0x417 0x4008 12 ∧ s.read64 0x4008 = 0x417) ∧
    (let s := pagedState []
     s.farMiss pagedFar = some (⟨0, 0x1000, 8, .paged, none, false⟩, 0x1000) ∧ (s.walk 0 pagedFar.root 0x1000 .load).1 = .fault 1 12 ∧
     (s.die 0).flt.recs.length < 512) ∧
    (let f := ((faulted [aRec false none]).die 0).flt
     wb f.ctl 0 = true ∧ f.recs.filter (fun r => !r.closed) = [aRec false none] ∧ bf f.ctl 25 16 ≤ 1 ∧
     f.recs.filter (fun r => r.closed && r.seq.isNone) = []) ∧
    (let f := ((faulted [aRec true none]).die 0).flt
     f.recs.filter (fun r => r.closed && r.seq.isNone) = [aRec true none] ∧ inHbm (bf f.ring 51 11 * 2048) (64 * 32) = true ∧
     (rangesOf [aRec true none]).length = 1 ∧ (f.prod - f.cons + BitVec.ofNat 32 1).toNat ≤ 2 ^ (min 10 (bf f.ring 3 0) + 6)) ∧
    (let s := faulted [aRec true (some 1)]
     (1 : BitVec 32).toNat ≤ (s.die 0).flt.seq.toNat ∧ s.upsets = [] ∧ (s.die 0).flt.recs.filter (fun r => r.acked 1) = [aRec true (some 1)] ∧
     wb (s.read64 ((aRec true (some 1)).slot + 24)) 0 = false) ∧
    (∀ k ∈ [LogKind.store, .copy], ∀ u, u < 5 →
      let s := withEng (fun e => e.setLog u [aLog k])
      (match s.engPlace 0 u (aLog k).root (logAk u k) (aLog k).who none anyKey ⟨0, 0x10000, 8, .phys 0x10000, none, false⟩ with
        | .at v ps => decide (ps = [(0x10000, 8)] ∧ (v.core 0).eng.log u = [aLog k] ∧ Memory.wf v.mem = true ∧ v.moves = [])
        | _ => false) = true ∧ (s.core 0).eng.log u = [aLog k] ∧ (aLog k).put = 0 ∧ (aLog k).unrec = false ∧ (aLog k).va.toNat % 8 + (aLog k).len ≤ 128) ∧
    (base.head.invs.length < 16 ∧ (1 : BitVec 28) ≠ 0) ∧
    (({ base with head := { base.head with invs := [⟨false, 4, 0, 1, 2⟩] } } : State).head.invs = [⟨false, 4, 0, 1, 2⟩]) := by decide +kernel

/-- A package in full service, slot 5 of die A in frame 3 of bank 0. -/
def seamed (r m : SlotOp) : State :=
  let s := base.modDie 0 (fun d => { d with frames := [(5, 3)], rel := r, mig := m })
  { s with head := { s.head with phase := 5, held := false } }

theorem test_meets_SlotEventsComplete :
    (let s := seamed SlotOp.none SlotOp.none
     0 < s.dies.length ∧ Memory.wf s.mem = true ∧ s.head.held = false ∧ s.frame? 6 = none ∧ s.freeFrame 0 127 = some 16256 ∧
     (s.die 0).rel.busy = false ∧ (5 : BitVec 15).getLsbD 14 = false ∧ (s.die 0).mig.busy = false ∧ s.frame? 5 = some 3 ∧
     (s.freeFrame 0 127).isSome = true ∧ 3 / 128 ≠ 127 ∧ 3 / 128 = 0) ∧
    ((seamed ⟨true, 6, 0, false, true⟩ SlotOp.none).die 0).rel.unpl = true ∧
    (let s := seamed ⟨true, 5, 0, false, false⟩ ⟨true, 5, 127, false, false⟩
     (s.die 0).rel.busy = true ∧ (s.die 0).rel.unpl = false ∧ (s.die 0).rel.slot.toNat / 16384 = 0 ∧ s.inFlight 5 = 0 ∧ (s.die 0).mig.busy = true ∧ s.frame? 5 = some 3 ∧
     s.freeFrame 0 127 = some 16256) := by decide +kernel

theorem test_meets_StorageEventsComplete :
    (0 < base.clusters.length ∧ 15 < base.clusters.length ∧ 1 < base.dies.length ∧ Memory.wf base.mem = true) ∧
    ((base.modCluster 0 (fun c => { c with clr := true })).cluster 0).clr = true ∧ (base.cluster 0).band.toNat < 1 ∧ 0 = (base.cluster 0).band.toNat ∧
    (let y := (base.modDie 0 (fun d => { d with inj := 0x8300000000000000, injPos := 0x4700 })).die 0
     wb y.inj 63 = true ∧ bf y.inj 61 56 ≤ 11 ∧ bf y.injPos 6 0 ≤ 71 ∧ bf y.injPos 14 8 ≤ 71) ∧
    (wb (base.die 0).inj 63 = false ∧ base.head.held = true ∧ (seamed SlotOp.none SlotOp.none).head.held = false) ∧
    (let w : Word := 0x8B00000000000000 &&& 0xFF0FFFFFFFFFFFFF
     bf w 61 56 ≤ 11 ∧ bf w 39 39 = 0 ∧ wb w 63 = true ∧ wb w 62 = false) ∧
    (let y := (base.modDie 0 (fun d => { d with injPos := 72 })).die 0
     wb (0x8B00000000000000 : Word) 63 = true ∧ 71 < bf y.injPos 6 0) ∧
    (let y := (base.modDie 0 (fun d => { d with injPos := 72 * 256 })).die 0
     wb (0xCB00000000000000 : Word) 62 = true ∧ 71 < bf y.injPos 14 8) ∧
    (11 : BitVec 4).toNat < (base.die 0).logs.length := by decide +kernel

/-- A command at the head of ce0, and base with it. -/
def aCmd (k : CmdKind) : Cmd :=
  { id := 1, who := base.origin, kind := k, xl := crewH.xlat, pubs := [], after := [], acts := 0, piece := 0, pos := 0, flt := none, slots := [],
    locks := [], uses := [], lockAfter := [], begun := false, done := false, failed := false }
def queuedCmd (k : CmdKind) : State := withEng (fun e => { e with ce0 := [aCmd k] })
def hintRec : List Word := copyRec.set 4 0x80BB

/-- A stream of n bytes at the start of half 0 of cluster 0, with what has been fetched and decoded of it, over memory m. -/
def aStream (n f d : Nat) : Stream := ⟨1, base.origin, halfBase 0 0, (0, 0), n, 32, f, d, []⟩
def streaming (n f d : Nat) (m : Memory) : State := { withEng (fun e => { e with sl := [aStream n f d] }) with mem := m }

theorem test_meets_EngineEventsComplete :
    (let s := queuedCmd (.copy false copyRec)
     let c := aCmd (.copy false copyRec)
     let g := geoOf copyRec
     s.headCmd 0 0 = some c ∧ (s.core 0).eng.ce 0 = [c] ∧ c.done = false ∧ s.copyHeld 0 c g = false ∧ (s.core 0).eng.mayRun 0 c = true ∧
     g.pfh = false ∧ g.mc = 0 ∧ s.upsets = [] ∧ (s.core 0).far = [] ∧ s.moves = [] ∧ c.got = 0 ∧ c.put = 0 ∧ (s.core 0).eng.log 1 = [] ∧
     (s.core 0).eng.logL = [] ∧ min (128 - (g.dst + c.piece * g.dp + c.pos) % 128) (g.dLen - c.pos) = 128 ∧
     (∀ r ∈ g.runs 0 0 128, ∃ p ∈ s.cmdParts 0 c.who.crew c.xl c.acts r.1 r.2, s.cmdParts 0 c.who.crew c.xl c.acts r.1 r.2 = [p] ∧ p.cls = .loc ∧
       p.off = 0 ∧ p.len = r.2) ∧
     (∃ p ∈ s.cmdParts 0 c.who.crew c.xl c.acts g.dst 128, s.cmdParts 0 c.who.crew c.xl c.acts g.dst 128 = [p] ∧ p.cls = .loc ∧ p.off = 0 ∧ p.len = 128) ∧
     128 % g.dt.size = 0) := by decide +kernel

theorem test_meets_EngineEventsComplete_hints :
    (let s := queuedCmd (.copy false hintRec)
     let c := aCmd (.copy false hintRec)
     let g := geoOf hintRec
     s.headCmd 0 0 = some c ∧ (s.core 0).eng.ce 0 = [c] ∧ g.pfh = true ∧ (s.core 0).eng.mayRun 0 c = true ∧ g.vc ≠ 0 ∧ 0 < g.st.size ∧ c.piece < g.vr ∧
     (∀ p ∈ s.cmdParts 0 c.who.crew c.xl c.acts g.src 128, p.cls ≠ .paged) ∧
     (let d := { c with piece := 1 }
      (withEng (fun e => { e with ce0 := [d] })).headCmd 0 0 = some d ∧ g.vr ≤ d.piece ∧ g.siga = 0)) := by decide +kernel

theorem test_meets_EngineEventsComplete_signals :
    (∀ add ∈ [true, false],
      let s := queuedCmd (.sig 0x10000 7 .pkg add)
      let c := aCmd (.sig 0x10000 7 .pkg add)
      s.headCmd 0 0 = some c ∧ (s.core 0).eng.mayRun 0 c = true ∧ (s.core 0).eng.log 1 = [] ∧ (s.core 0).eng.logL = [] ∧
        s.cmdParts 0 c.who.crew c.xl c.acts 0x10000 8 = [⟨0, 0x10000, 8, .phys 0x10000, none, false⟩] ∧
        (match s.engPlace 0 1 c.xl.root (if add then .sigAdd else .sigWrite) c.who none anyKey ⟨0, 0x10000, 8, .phys 0x10000, none, false⟩ with
          | .at u ps => decide (ps = [(0x10000, 8)] ∧ u.farBefore 0 c.after ps = false ∧ u.upsets = [] ∧ Memory.wf u.mem = true ∧ (u.core 0).eng.ce 0 = [c])
          | _ => false) = true) := by decide +kernel

theorem test_meets_EngineEventsComplete_streams :
    (let s := streaming 34 0 0 []
     (s.core 0).eng.sl = [aStream 34 0 0] ∧ (s.core 0).eng.halted.getLsbD 4 = false ∧ 0 < min (512 - halfBase 0 0 % 512) 34 ∧
     (s.cluster 0).clr = false ∧ 34 * 32 ≤ 4 * 16384 ∧ s.farBefore 0 (aStream 34 0 0).after [(halfBase 0 0, 34)] = false) ∧
    (let s := streaming 34 34 0 []
     leNat (s.mem.read (halfBase 0 0) 2) = 0 ∧ popBytes (s.mem.read (halfBase 0 0 + 2) 32) = 0 ∧ 1024 ≤ 34 * (aStream 34 34 0).ratio ∧ s.upsets = []) ∧
    (leNat ((streaming 258 258 0 [(halfBase 0 0 + 1, 0x80)]).mem.read (halfBase 0 0) 2) = 0x8000) ∧
    (leNat ((streaming 258 2 0 [(halfBase 0 0, 1)]).mem.read (halfBase 0 0) 2) = 1 ∧ (streaming 258 2 0 [(halfBase 0 0, 1)]).upsets = []) := by decide +kernel

/-- An export of a stream of one chunk, on a package whose firmware fields are 0. -/
def xmetaCmd : Cmd := aCmd (.xmeta (win + 0x1000) 34 (win + 0x2000))
def plainFw (s : State) : State := { s with head := { s.head with fw := ⟨false, 0, 0, 0, false, false, 0, .none, .none, none⟩ } }
def xmetaState : State := plainFw (queuedCmd (.xmeta (win + 0x1000) 34 (win + 0x2000)))

theorem test_meets_EngineEventsComplete_export :
    (xmetaState.headCmd 0 0 = some xmetaCmd ∧ (xmetaState.core 0).eng.mayRun 0 xmetaCmd = true ∧ xmetaCmd.pos < (34 : Word).toNat ∧
      ((xmetaState.core 0).eng.log 1).length < 256 ∧
      (∀ h ∈ (xmetaState.cmdParts 0 0 xmetaCmd.xl 0 (win.toNat + 0x2000) 4).flatMap viewHalf, xmetaState.readsLeft h = false) ∧
      xmetaState.cmdParts 0 0 xmetaCmd.xl 0 (win.toNat + 0x2000) 4 = [⟨0, win + 0x2000, 4, .loc, none, false⟩] ∧
      ((xmetaState.engWritePart 0 0 xmetaCmd .copyDst .copy ⟨0, win + 0x2000, 4, .loc, none, false⟩ (leBytes 4 0)).toOption.map (fun u => (u.core 0).eng.ce 0)) =
        some [xmetaCmd] ∧ chunkSize 0 34 (List.replicate 34 0) = some 34) ∧
    xmetaState.engRead 0 0 xmetaCmd (xmetaState.cmdParts 0 0 xmetaCmd.xl 0 (win.toNat + 0x1000) 34) = .bytes xmetaState (List.replicate 34 0) ∧
    (let d := { xmetaCmd with pos := 34 }
     (withEng (fun e => { e with ce0 := [d] })).headCmd 0 0 = some d ∧ (34 : Word).toNat ≤ d.pos) :=
  ⟨by decide +kernel, by decide +kernel, by decide +kernel⟩

/-- An entry at the head of mx. -/
def anEntry (k : MxKind) : MxEnt :=
  { id := 1, who := base.origin, xl := crewH.xlat, kind := k, acc := 0, split := false, half := 0, ta := .i8, tb := .i8, scales := [], ascfg := 0, qas := [],
    after := [], upc := 0, row := 0, num := 0, den := 0, red := false, flt := none, failed := false }
def entered (k : MxKind) : State := withEng (fun e => { e with mx := [anEntry k] })

def passState : State := plainFw (entered (.routine 0 [1] win [] [] [] false 0 0))

theorem test_meets_MatrixEntriesRun :
    (∀ k ∈ [MxKind.accz, .ascfgClr, .mstw false 4095 7, .mstw true 255 0x01001000, .acfin 1 127, .routine 0 [1] win [] [] [] false 0 0],
      let s := entered k
      0 < s.cores.length ∧ (s.core 0).eng.mx = [anEntry k] ∧ (s.core 0).eng.halted.getLsbD 5 = false ∧ (anEntry k).flt = none ∧
        (anEntry k).after.any (s.core 0).pending = false ∧ s.upsets = [] ∧ Tab.wf (s.core 0).acc = true ∧ Tab.wf (s.core 0).mstore = true ∧ Tab.wf (s.core 0).mtab = true) ∧
    16 ≤ (255 : Word).toNat % 256 ∧ passState.upsets = [] ∧
    passState.mxRows 0 (anEntry (.routine 0 [1] win [] [] [] false 0 0)) (passRows 0 [1] win) = .rows passState [0] :=
  ⟨by decide +kernel, by decide, by decide +kernel, by decide +kernel⟩

/-- A request that core 0 sent on port 0 at time 0, and base with it and its entry of qrm, at time n. -/
def aReq : RmReq := ⟨1, base.origin, 0x0010000000000000, .load, 8, true, [], some (0, 0)⟩
def asked (n : Nat) : State :=
  let s := (withEng (fun e => { e with rm := [aReq] })).modCtx 0 0 (fun c => { c with qrm := [⟨1, .scal .d, none, none⟩] })
  { s with time := BitVec.ofNat 64 n }

/-- base with an export window over the first page of HBM4E for package 1, and its request buffers at 0x100000. -/
def exporting : State :=
  { base with head := { base.head with trsNpkg := 2, trsRqbase := 0x100000, exps := [⟨0xF800010000000000, 0x00F0000000000000⟩] } }
def remote (k : AccKind) (n : Nat) : RemReq := ⟨1, 0, k, 0, n⟩

theorem test_meets_RemoteEventsComplete :
    0 < base.cores.length ∧ base.rm? 0 1 = none ∧
    ((asked 0).rm? 0 1 = some aReq ∧ (∀ x ∈ ((asked 0).core 0).eng.rm, x.sent.isSome = true) ∧ (asked 0).findCtx aReq.who.crew aReq.who.uid = some (0, 0)) ∧
    (asked 100000).head.trsTmo.toNat * 1000 ≤ ((asked 100000).time - 0).toNat ∧ ((asked 99999).time - 0).toNat < (asked 99999).head.trsTmo.toNat * 1000 ∧
    (base.canRespond (remote .load 8) = true ∧ base.head.trsNpkg.toNat ≤ (remote .load 8).pkg.toNat) ∧
    (let s := exporting
     ∀ q ∈ [remote .load 8, remote .loadRow 128, remote (.store 1) 1, remote (.storeRow 1) 128, remote (.atom .add 1 0) 4],
       s.canRespond q = true ∧ q.pkg.toNat < s.head.trsNpkg.toNat ∧ Memory.wf s.mem = true ∧ s.upsets = [] ∧ s.moves = [] ∧ s.head.rowOf q = none ∧ (∀ x ∈ s.dies, wb x.inj 63 = false) ∧
         s.head.exps.any (·.exports q) = true ∧ inHbm q.pa.toNat q.size = true ∧ s.heldAt q.pa.toNat q.size = false ∧ 0 < q.size ∧ q.size ≤ 128 ∧
         q.pa.toNat + q.size ≤ s.head.trsRqbase.toNat + (q.pkg.toNat * 260 + q.agent) * 2048) ∧
    (let s := { exporting with head := { exporting.head with exps := [] } }
     s.canRespond (remote .load 8) = true ∧ (1 : BitVec 12).toNat < s.head.trsNpkg.toNat ∧ s.head.exps = []) := by decide +kernel

/-- A flit of no bytes, with the CRC that its body has or another; base with port 7 as p. -/
def aFlit (seq : BitVec 16) (good : Bool) : Flit :=
  let f : Flit := { seq := seq, ackseq := 0xFFFF, vc := 0, flags := 0, used := 0, payload := [], crc := 0 }
  { f with crc := if good then crc32 (flitBody f) else ~~~(crc32 (flitBody f)) }
def aPort : Port := { Port.reset with en := true, up := true, lanes := 4 }
def ported (p : Port) (n : Nat) : State :=
  { base with time := BitVec.ofNat 64 n, head := { base.head with ports := List.replicate 7 Port.reset ++ [p] } }

theorem test_meets_LinkEventsComplete :
    ((7 : BitVec 3).toNat < (ported aPort 0).head.ports.length ∧ ((ported aPort 0).port 7).up = true ∧ ((ported aPort 0).port 7).nak = false ∧
      ((ported aPort 0).port 7).nakDue = false ∧ (ported aPort 0).cores.all (fun c => c.eng.rm.all (fun x => x.sent.isSome)) = true ∧
      (aFlit 0 true).etype = (ported aPort 0).head.trsEtype ∧ ((ported aPort 0).port 7).buf.length < 8192 ∧
      ({ aFlit 0 true with etype := 0x0800 } : Flit).etype ≠ (ported aPort 0).head.trsEtype) ∧
    ((aFlit 0 true).crc = crc32 (flitBody (aFlit 0 true)) ∧ (aFlit 0 true).seq = aPort.rxSeq) ∧ ¬ (aFlit 0 false).crc = crc32 (flitBody (aFlit 0 false)) ∧
    (0 < ((aFlit 1 true).seq - aPort.rxSeq).toNat ∧ ((aFlit 0x7FFF true).seq - aPort.rxSeq).toNat < 0x8000) ∧
    0x8000 ≤ ((aFlit 0x8000 true).seq - aPort.rxSeq).toNat ∧ ([aFlit 1 true] ≠ [] ∧ [aFlit 1 true].length ≤ 34) ∧
    (let p := { aPort with buf := [aFlit 0 true] }
     p.buf ≠ [] ∧ (ported p 100000).head.trsTmo.toNat * 1000 ≤ ((ported p 100000).time - p.lastAck).toNat ∧
     ((ported p 99999).time - p.lastAck).toNat < (ported p 99999).head.trsTmo.toNat * 1000) ∧
    ((2 : BitVec 3).toNat < aPort.lanes.toNat ∧ 0 < aPort.lanes.toNat) ∧
    (let p := { aPort with retraining := true, regain := true }
     ((ported p 0).port 7).retraining = true ∧ ((ported p 0).port 7).regain = true) ∧
    (((ported { aPort with retraining := true } 0).port 7).regain = false) ∧
    (((ported { aPort with up := false } 0).port 7).en = true ∧ ((ported { aPort with up := false } 0).port 7).up = false) := by decide +kernel

/-- The configuration of a sequencer for the crew of base: one step, a graph of two nodes at 0x50000 (a probe node and a node that it lets skip), one
block at 0x60000, the step table at 0x40000. -/
def seqV : Word := 0x0000000101001001
def blkWords : List Word := [0x10000, 0x100000080, 0x11000, 0x80, 0x12000, 0x13000, 0, 0]
def graphMem : Memory :=
  wordsAt 0x60000 blkWords (wordsAt 0x50020 [0x80000010000, 0, 1, 0] (wordsAt 0x50000 [0x40000010000, 0, 0, 0] []))
def probeNode : Node := nodeOf [0x40000010000, 0, 0, 0]
def plainNode : Node := nodeOf [0x00000020000, 0, 0, 0]
def seqState (f : Seq → Seq) : State :=
  { (crewed (fun w => w)).modSeq 0 (fun q => f { q with ctl := seqV, stab := 0x40000, graph := 0x50000, blkt := 0x60000 }) with mem := graphMem }

theorem test_meets_SequencerEventsComplete_arming :
    (let s := seqState (fun q => { q with ctl := 0 })
     let q := (s.die 0).seq
     let armed : Seq := { q with ctl := (seqV ||| 1) &&& 0xFFFF0FFFFFFFF005 }
     let ws := (List.range armed.nnode).map (fun n => s.nodeWords (bf q.graph 51 6 * 64 + 32 * n))
     0 < s.dies.length ∧ s.upsets = [] ∧ 0 < s.cores.length ∧ q.st = .idle ∧ armed.cfgOk = true ∧
       (∀ n, n < armed.nnode → nodeOk armed.nblk n (ws.getD n []) = true) ∧ (ws.map nodeOf).all (reuseOk (ws.map nodeOf)) = true ∧
       ({ q with ctl := (0 ||| 1) &&& 0xFFFF0FFFFFFFF005 } : Seq).cfgOk = false) ∧
    ((seqState (fun q => { q with st := .run })).die 0).seq.st ≠ .idle ∧
    (let s := seqState (fun q => { q with st := .load, nodes := [probeNode] })
     let e := (List.range 8).map (fun n => s.read64 (bf (s.die 0).seq.stab 51 6 * 64 + 64 * (s.die 0).seq.step + 8 * n))
     s.seqCrew 0 = some crewH ∧ 0 ∈ crewH.members ∧ (s.die 0).seq.st = .load ∧ entryOk e = true ∧
       (∀ b ∈ (s.die 0).seq.blockIds, blkOk (s.words8 (bf (s.die 0).seq.blkt 51 6 * 64 + 64 * b)) = true) ∧ Tab.wf (s.core 0).steps = true) ∧
    (let s := { seqState (fun q => { q with st := .load }) with mem := wordsAt 0x40028 [0x0001000000000000] [] }
     s.seqCrew 0 = some crewH ∧ (s.die 0).seq.st = .load ∧ entryOk ((List.range 8).map (fun n => s.read64 (0x40000 + 8 * n))) = false) := by decide +kernel

/-- A copy of the sequencer, at its start or its end. -/
def aCopy (skip : Bool) (pos : Nat) : SeqCopy := { id := 1, blk := 0, skip := skip, pos := pos, slots := [], flt := none }

theorem test_meets_SequencerEventsComplete_running :
    (let s := seqState (fun q => { q with st := .run, nodes := [plainNode] })
     s.seqCrew 0 = some crewH ∧ (s.die 0).seq.st = .run ∧ s.nextReturned crewH (s.die 0).seq = none ∧
     s.nextTile 0 crewH (s.die 0).seq (List.range 1) = some (0, 0, 0) ∧ crewH.phys 0 < s.cores.length) ∧
    (let s := seqState (fun q => { q with st := .run, nodes := [plainNode], returned := [(0, 0x10000)] })
     s.nextReturned crewH (s.die 0).seq = some (0, 1, 0)) := by decide +kernel

theorem test_meets_SequencerEventsComplete_copies :
    (∀ skip ∈ [true, false],
      let s := (seqState (fun q => { q with st := .run, blocks := [(0, blkWords)], copies := [aCopy skip 0] })).modCtx 0 0 (fun c =>
        { c with xl := crewH.xlat })
      let q := (s.die 0).seq
      let src := if skip then 0x13000 else 0x10000
      let dst := if skip then 0x11000 else 0x12000
      let x := s.seqXlat crewH
      s.seqCrew 0 = some crewH ∧ q.copies.head? = some (aCopy skip 0) ∧ q.slog = [] ∧ copyPlan (q.blk 0) (aCopy skip 0) = some (src, dst, 128) ∧
        Memory.wf s.mem = true ∧ s.moves = [] ∧ (aCopy skip 0).got = 0 ∧ (aCopy skip 0).put = 0 ∧ inHeap x src = true ∧ inHeap x dst = true ∧
        heapOk x .copySrc = true ∧ heapOk x .copyDst = true ∧ s.heldAt src 128 = false ∧ s.heldAt dst 128 = false ∧ inHbm src 128 = true ∧
        inHbm dst 128 = true ∧ x.ho = 0) ∧
    (∀ x ∈ [(true, 128), (false, 256)],
      let s := seqState (fun q => { q with st := .run, blocks := [(0, blkWords)], copies := [aCopy x.1 x.2] })
      copyPlan ((s.die 0).seq.blk 0) (aCopy x.1 x.2) = none ∧ (s.die 0).seq.slog.any (fun e => decide (e.src = 1)) = false) := by decide +kernel

theorem test_meets_SequencerEventsComplete_reports :
    (let r : Report := ⟨1, base.origin, 0, none, []⟩
     let o : OutTile := ⟨0, 0, 0, some 0⟩
     let s := (seqState (fun q => { q with st := .run, nodes := [plainNode], out := [o] })).modEng 0 (fun e => { e with sq := [r] })
     let q := (s.die 0).seq
     (s.core 0).eng.sq = [r] ∧ (s.core 0).reportReady r = true ∧ s.seqDie r.who.crew = some 0 ∧ r.word = tileWordOf q.step 0 (q.node 0) 0 ∧
     (q.node 0).probe = r.val.isSome ∧ q.out.find? (fun o => decide (o.node = 0) && decide (o.tile = 0)) = some o ∧
     (let t := s.modSeq 0 (fun q => { q with out := [] })
      t.seqDie r.who.crew = some 0 ∧ (t.die 0).seq.out.all (fun o => decide (o.node ≠ 0) || decide (o.tile ≠ 0)) = true)) := by decide +kernel

/-- The probe node of a second step with its one tile done and reported as v. -/
def probing (v : Word) : State :=
  seqState (fun q => { q with st := .run, step := 1, nodes := [{ probeNode with doneT := [0], reps := [(0, v)] }], blocks := [(0, blkWords)],
                              tags := [(0, ⟨true, 0⟩)] })

theorem test_meets_SequencerEventsComplete_probes :
    (let s := probing 0
     let q := (s.die 0).seq
     q.st = .run ∧ (q.node 0).probe = true ∧ (q.node 0).decided = false ∧ q.predsDone (q.node 0) = true ∧ s.eligible 0 0 = true ∧
       (q.node 0).tiles ≤ (q.node 0).doneT.length ∧ skips (q.blk 0) (q.node 0) = true) ∧
    skips (((probing 0x3F800000).die 0).seq.blk 0) (((probing 0x3F800000).die 0).seq.node 0) = false ∧
    (probing 0x3F800000).eligible 0 0 = true ∧
    (let s := seqState (fun q => { q with st := .run, nodes := [probeNode] })
     s.eligible 0 0 = false ∧ (s.die 0).seq.predsDone ((s.die 0).seq.node 0) = true) ∧
    ((seqState (fun q => { q with st := .close })).die 0).seq.st = .close := by decide +kernel

/-- base with the core 0 of another crew-less package in a gate state, at time n. -/
def gated (g : Gate) (n : Nat) : State :=
  { base.modCore 0 (fun c => { c with gate := g, c0 := { c.c0 with mode := .empty } }) with crews := [], time := BitVec.ofNat 64 n }

/-- base with the clock and the supply of quadrant 0 of die A on their way. -/
def ramping (mhz mv mhzT mvT : Nat) (on : Bool) : Quad := ⟨mv, mhz, mvT, mhzT, on, 0⟩

theorem test_meets_PowerEventsComplete :
    (base.cores.length = 256 ∧ base.clusters.length = 16 ∧ base.dies.length = 2 ∧ (∀ i, i < 2 → (base.die i).quads.length = 4) ∧
      Memory.wf base.mem = true) ∧
    (base.head.held = true ∧
      (let s := seamed SlotOp.none SlotOp.none
       s.head.held = false ∧ wb s.head.govCtl 0 = true ∧ 1800 ≤ min 1800 (bf s.head.govCtl 15 4)) ∧
      (let s := seamed SlotOp.none SlotOp.none
       let t : State := { s with head := { s.head with govCtl := 0x0000FFF000000000 } }
       t.head.held = false ∧ wb t.head.govCtl 0 = false)) ∧
    (let x := ramping 1000 300 1250 350 true
     x.ramp = true ∧ x.mhz < x.mhzT ∧ x.mv ≠ x.mvT) ∧
    (let x := ramping 1000 350 1250 350 true
     x.ramp = true ∧ x.mhz < x.mhzT ∧ x.mv = x.mvT) ∧
    (let x := ramping 1250 350 1000 300 true
     x.ramp = true ∧ x.mhzT < x.mhz) ∧
    (let x := ramping 1000 350 1000 300 true
     x.ramp = true ∧ x.mhz = x.mhzT) ∧
    (Quad.reset.ramp = false) ∧
    (let s := gated (.hold 0) 20000
     (s.core 0).gate = .hold 0 ∧ s.coreIdle 0 = true ∧ max 1 (s.die (0 / 128)).gateBeh.toNat * 1000 ≤ (s.time - 0).toNat) ∧
    ((gated (.gating true) 0).core 0).gate = .gating true ∧ ((gated .waking 0).core 0).gate = .waking ∧
    (127 / 128 = 0 ∧ 128 / 128 ≠ 0 ∧ 31 / 32 = 0 ∧ 32 / 32 ≠ 0) := by decide +kernel

/-- base with its context parked and CX_DSEL naming a piece. -/
def parkedAt (sel : Word) : State := withCtx (fun c => { c with mode := .trapped, dsel := sel })

theorem test_meets_DebugEventsComplete :
    (let s := parkedAt 0
     let c := s.ctx 0 0
     0 < s.cores.length ∧ c.mode = .trapped ∧ s.crew? c.crew = some crew0 ∧ Tab.wf c.regs.s = true ∧ Tab.wf (s.core 0).tiles = true ∧
       Tab.wf (s.core 0).acc = true ∧ Tab.wf (s.core 0).scales = true ∧ Tab.wf (s.core 0).steps = true) ∧
    (∀ m ∈ [CtxMode.debug, .group], ((withCtx (fun c => { c with mode := m })).ctx 0 0).mode = m) ∧
    (let s := ((parkedAt 0).modCore 0 (fun c => { c with fuse := some ⟨false, false⟩ })).modCore 1 (fun c =>
       { c with fuse := some ⟨false, false⟩, c0 := { c.c0 with mode := .group } })
     (s.ctx 0 0).mode ≠ .group ∧ 1 ∈ s.groupOf 0 ∧ 1 < s.cores.length ∧ (s.ctx 1 0).mode = .group ∧
     ∀ p ∈ 0 :: s.groupOf 0, ∀ q, q < 2 → (s.ctx p q).mode ∈ [CtxMode.empty, .trapped, .group] ∧ (s.ctx p q).was = .running) ∧
    (let e := ((parkedAt 0x001F00).ctx 0 0).sel
     e.cls = 0 ∧ e.index < 32 ∧ e.piece = 0) ∧
    (let e := ((parkedAt 0x100000).ctx 0 0).sel
     e.cls = 1 ∧ e.piece = 0) ∧
    (let s := parkedAt 0x31FF0F
     let e := (s.ctx 0 0).sel
     e.cls = 3 ∧ e.piece < 16 ∧ s.selTile 0 0 e.index = some 511) ∧
    (let e := ((parkedAt 0x200C0F).ctx 0 0).sel
     e.cls = 2 ∧ e.index < 32 ∧ 64 * e.piece < latchBits (e.index / 4)) ∧
    (let s := parkedAt 0x41FF3F
     let e := (s.ctx 0 0).sel
     e.cls = 4 ∧ (s.selAcc 0 0 e.index e.piece).isSome = true) ∧
    (let e := ((parkedAt 0x500707).ctx 0 0).sel
     e.cls = 5 ∧ e.index < 8 ∧ e.piece < 8) ∧
    (let e := ((parkedAt 0x600F00).ctx 0 0).sel
     e.cls = 6 ∧ e.index < 16 ∧ e.piece = 0) ∧
    ((base.ctx 0 0).mode ≠ .trapped ∧ (base.ctx 0 0).mode ≠ .debug ∧ (base.ctx 0 0).mode ≠ .group ∧ (base.ctx 0 0).mode ≠ .empty) ∧
    (base.ctx 0 1).mode = .empty := by decide +kernel

theorem test_meets_DebugEventsComplete_waits :
    (let s := quadBase.modCtx 0 0 (fun c => { c with mode := .trapped, was := .barrier .quad false })
     let c := s.ctx 0 0
     s.groupOf 0 = [0] ∧ (s.ctx 0 1).mode = .empty ∧ c.was = .barrier .quad false ∧ c.pubs = [] ∧
     ∃ w ∈ s.crews, s.crew? c.crew = some w ∧ 0 ∈ w.members ∧ w.arrived = [] ∧ 1 ∈ w.members ∧ sameInst .quad 0 1 = true) ∧
    (let s := (quadBase.modCtx 0 0 (fun c => { c with mode := .trapped, was := .fuseWait false })).modCtx 1 0 (fun c => { c with mode := .fuseWait false })
     s.groupOf 0 = [0] ∧ (s.ctx 0 1).mode = .empty ∧ (s.ctx 0 0).was = .fuseWait false ∧
     ∀ p ∈ fuseCores false 0, p < s.cores.length ∧ (p ≠ 0 → (s.ctx p (s.onlyCtx p)).mode = .fuseWait false)) ∧
    (∀ q, q < 2 → ((parkedAt 0).ctx 0 q).landing = []) := by decide +kernel

/-- A sealed capability. -/
def capOf (perms base len : Nat) : Cap := ⟨BitVec.ofNat 64 (2 ^ 63 + len), BitVec.ofNat 64 (perms * 2 ^ 52 + base)⟩

/-- A package in full service whose queue 0 has its rings at 0x1000 and 0x2000, all of the first 16 MiB of HBM4E and of die A's slots as data, and
in its ring the packet p; the word 0x3000 holds 9, and x stands at 0x4000. -/
def caps0 : List Cap := [capOf 1 0x1000 1024, capOf 2 0x2000 256, capOf 15 0 0x1000000, capOf 15 0x10000000000 0x1000000] ++ List.replicate 4 ⟨0, 0⟩
def aQueue : Cpq := { Cpq.reset with ctl := 5, tail := 1, caps := caps0 }
def queueState (p x : List Word) (w : List Crew) (f : Cpq → Cpq) : State :=
  let s := plainFw base
  { s with mem := wordsAt 0x4000 x (wordsAt 0x3000 [9] (wordsAt 0x1000 p [])), crews := w,
           head := { s.head with phase := 5, held := false, queues := f aQueue :: s.head.queues.drop 1 } }
def packet0 (p : List Word) : State := queueState p [] [] id
/-- The next packet of queue 0 is well formed and has the type ty. -/
def takes (s : State) (ty : Nat) (used : List Nat) : Bool :=
  let p := s.pkt (s.cpq 0)
  s.turn 0 && inHbm (s.cpq 0).pktAt 64 && decide (pktType p = ty) && decide (pktBreach p used = none)
/-- The pointer to the byte a of capability 2. -/
def ptr2 (a : Nat) : Word := BitVec.ofNat 64 (2 * 2 ^ 61 + a)

def waitingOn (v : Word) : State := queueState [] [] [] (fun c => { c with waitPkt := some [4, ptr2 0x3000, v, 0] })

theorem test_meets_CommandProcessorEventsComplete_data :
    ((0 : BitVec 6).toNat < (packet0 []).head.queues.length ∧ Memory.wf (packet0 [0, 1]).mem = true ∧ (packet0 []).upsets = [] ∧
      ((packet0 []).cpq 0).caps.length = 8) ∧
    takes (packet0 [0x100000000]) 0 [] = true ∧
    (let s := packet0 [3, ptr2 0x3000, 7]
     takes s 3 [1, 2] = true ∧ s.ptr (s.cpq 0) (ptr2 0x3000) 2 8 = some 0x3000 ∧ inHbm 0x3000 8 = true ∧ lrw (s.pkt (s.cpq 0)) 1 = ptr2 0x3000) ∧
    (let s := packet0 [3, ptr2 0xFFFFF9, 7]
     takes s 3 [1, 2] = true ∧ s.ptr (s.cpq 0) (lrw (s.pkt (s.cpq 0)) 1) 2 8 = none) ∧
    (let s := packet0 [4, ptr2 0x3000, 9, 5]
     takes s 4 [1, 2, 3] = true ∧ s.ptr (s.cpq 0) (lrw (s.pkt (s.cpq 0)) 1) 1 8 = some 0x3000) ∧
    (Wc.dec 5).isSome = true ∧
    (let s := waitingOn 9
     let c := s.cpq 0
     c.waitPkt = some [4, ptr2 0x3000, 9, 0] ∧ s.head.fw.hover = false ∧ s.ptr c (ptr2 0x3000) 1 8 = some 0x3000 ∧ Wc.dec 0 = some .eq ∧
       wcHolds .eq (s.read64 0x3000) 9 = true) ∧
    ((waitingOn 8).cpq 0).waitPkt = some [4, ptr2 0x3000, 8, 0] ∧ wcHolds .eq ((waitingOn 8).read64 0x3000) 8 = false ∧
    (let s := queueState [] [] [] (fun c => { c with pend := [⟨0, 0⟩] })
     let c := s.cpq 0
     c.pend = [⟨0, 0⟩] ∧ c.cfull = false ∧ s.ringOk (c.cap 1) 2 (c.csize * 16) = true ∧ inHbm ((c.cap 1).base + c.ctail.toNat % c.csize * 16) 16 = true) := by
  decide +kernel

/-- The record of crewH with one preset flag at 0x10000. -/
def flagRec : List Word := (crewH.lr.set 21 0x10000).set 22 0x0000001A18000001

theorem test_meets_CommandProcessorEventsComplete_launch :
    (let s := queueState [1, ptr2 0x4000] (fetchRecord 0) [] id
     let c := s.cpq 0
     let l := (List.range 32).map (fun j => s.read64 (0x4000 + 8 * j))
     let w := waitingCrew 0x4000 l 0 (s.pkt c) c.head
     takes s 1 [1] = true ∧ s.ptr c (lrw (s.pkt c) 1) 1 256 = some 0x4000 ∧ inHbm 0x4000 256 = true ∧ s.chkRecord l = none ∧
       bf (lrw l 22) 3 0 = 0 ∧ s.chkCaps c w = none ∧ w.prio ≤ c.prio) ∧
    (let s := queueState [1, ptr2 0x4000] flagRec [] id
     let c := s.cpq 0
     let l := (List.range 32).map (fun j => s.read64 (0x4000 + 8 * j))
     let w := waitingCrew 0x4000 l 0 (s.pkt c) c.head
     takes s 1 [1] = true ∧ s.chkRecord l = none ∧ bf (lrw l 22) 3 0 = 1 ∧ (s.flagPlace w (lrw l 21)).map (·.1) = some 0x10000 ∧
       s.named c 2 0x10000 8 = true ∧ s.chkCaps c w = none ∧ w.prio ≤ c.prio) ∧
    (let s := queueState [1, ptr2 0x4000] [] [] id
     takes s 1 [1] = true ∧ (s.chkRecord ((List.range 32).map (fun j => s.read64 (0x4000 + 8 * j)))).isSome = true) := by decide +kernel

theorem test_meets_CommandProcessorEventsComplete_kill :
    (let s := queueState [2, 0] [] [] id
     takes s 2 [1] = true ∧ s.crews = []) ∧
    (∀ t ∈ [CrewSt.waiting, .running, .preempted],
      let s := queueState [2, 0] [] [{ crew0 with st := t }] id
      let named (x : Crew) : Bool := decide (x.queue = 0) && decide (x.id.toNat = bf (lrw (s.pkt (s.cpq 0)) 1) 15 0) && decide (x.st ≠ .done)
      takes s 2 [1] = true ∧ (s.crews.find? named).map (·.st) = some t ∧ 0 ∈ crew0.members ∧ (s.ctx 0 0).crew = crew0.id) := by decide +kernel

theorem test_meets_CommandProcessorEventsComplete_attest :
    (let s := packet0 [5, ptr2 0x5000, ptr2 0x6000]
     let c := s.cpq 0
     let n := (s.report (s.read 0x5000 64)).length
     takes s 5 [1, 2, 3] = true ∧ s.ptr c (lrw (s.pkt c) 1) 1 64 = some 0x5000 ∧ inHbm 0x5000 64 = true ∧ wb (lrw (s.pkt c) 3) 0 = false ∧
       s.ptr c (lrw (s.pkt c) 2) 2 n = some 0x6000 ∧ inHbm 0x6000 n = true) ∧
    (let s := packet0 [5, ptr2 0x5000, ptr2 0xFFFFFF]
     let c := s.cpq 0
     takes s 5 [1, 2, 3] = true ∧ s.ptr c (lrw (s.pkt c) 2) 2 (s.report (s.read 0x5000 64)).length = none) := by decide +kernel

/-- A firmware image with no body and SVN n: the magic, version 1, formats 0 to 0xFFFF. -/
def imageAt (n : Word) : List Word := [0x000000014657395A, 0xFFFF000000000000 + n, 0]

theorem test_meets_CommandProcessorEventsComplete_firmware :
    (let s := queueState [6, ptr2 0x4000, 4659] [] [] (fun c => { c with ctl := 1 })
     takes s 6 [1, 2] = true ∧ s.head.fw.loading = none ∧ (s.cpq 0).fwOk = false) ∧
    (let s := queueState [6, ptr2 0x4000, 4659] (imageAt 1) [] id
     let c := s.cpq 0
     takes s 6 [1, 2] = true ∧ s.head.fw.loading = none ∧ c.fwOk = true ∧ s.ptr c (lrw (s.pkt c) 1) 1 (lrw (s.pkt c) 2).toNat = some 0x4000 ∧ inHbm 0x4000 4659 = true ∧
       (let l := s.read 0x4000 4659
        imgField l 0 4 = 0x4657395A ∧ imgSvn l = 1 ∧ imgField l 0x10 4 = 0 ∧ imgField l 0x14 12 = 0 ∧ l.length = 4659)) ∧
    (let s := queueState [6, ptr2 0xFFFFFF, 4659] [] [] id
     let c := s.cpq 0
     takes s 6 [1, 2] = true ∧ c.fwOk = true ∧ s.ptr c (lrw (s.pkt c) 1) 1 (lrw (s.pkt c) 2).toNat = none) ∧
    (let p := [6, ptr2 0x4000, 64]
     let s := queueState p [] [] id
     let t : State := { s with head := { s.head with fw := { s.head.fw with loading := some (0, p, 0) } } }
     t.head.fw.loading = some ((0 : BitVec 6).toNat, p, 0) ∧ t.head.fwRuns = true ∧ t.ptr (t.cpq 0) (lrw p 1) 1 (lrw p 2).toNat = some 0x4000 ∧
       inHbm 0x4000 64 = true ∧ imgField (t.read 0x4000 64) 0 4 ≠ 0x4657395A) := by decide +kernel

/-- The bytes of imageAt 1, and firmware whose banks hold a and b, in a package in phase ph. -/
def imageBytes : List Byte := (imageAt 1).flatMap (toBytes 8) ++ List.replicate 4635 0
def firmware (a b : Bank) (stage : BitVec 2) (hover : Bool) (ph : BitVec 3) : State :=
  let s := seamed SlotOp.none SlotOp.none
  { s with head := { s.head with fw := ⟨false, 0, 0, stage, false, hover, 0, a, b, none⟩, phase := ph } }

/-- A well-formed image is accepted just when its signature verifies, which the model leaves open; bytes without its magic number are refused. -/
theorem test_meets_BringUpEventsComplete_image :
    imageOk imageBytes 0 = Config.mldsaVerifies imageBytes ∧ imageOk [] 0 = false ∧
      (firmware (.bytes imageBytes) .none 0 false 1).head.fw.active = imageBytes ∧ (firmware .none .none 0 false 1).head.fw.active = [] ∧
      (firmware .none (.bytes imageBytes) 0 false 1).head.fw.inactive = imageBytes ∧ (firmware .none .none 0 false 1).head.phase = 1 ∧
      base.head.phase = 0 := by
  have h : imgField imageBytes 0 4 = 0x4657395A ∧ imgSvn imageBytes ≤ 4095 ∧ imgField imageBytes 0x10 4 ≤ 0x400000 ∧
      imgField imageBytes 0x14 12 = 0 ∧ imageBytes.length = 32 + imgField imageBytes 0x10 4 + 4627 := by decide +kernel
  obtain ⟨h1, h2, h3, h4, h5⟩ := h
  refine ⟨?_, by decide +kernel, rfl, rfl, rfl, rfl, by decide +kernel⟩
  have h6 : (0 : BitVec 12).toNat ≤ imgSvn imageBytes := Nat.zero_le _
  simp only [imageOk, h1, h2, h3, h4, h5, h6, decide_true, Bool.true_and, Bool.and_true]

/-- Formats 0 to 0xFFFF accept every version of the state block, and the range from 1 to 0 none. -/
theorem test_meets_BringUpEventsComplete_handover :
    (let w := (firmware .none (.bytes imageBytes) 2 true 5).head.fw
     let v := (Config.stateBlockVersion w.aver).toNat
     w.hover = true ∧ imgField w.inactive 0xC 2 ≤ v ∧ v ≤ imgField w.inactive 0xE 2) ∧
    (let w := (firmware .none (.bytes (imageBytes.set 12 1 |>.set 14 0 |>.set 15 0)) 2 true 5).head.fw
     let v := (Config.stateBlockVersion w.aver).toNat
     w.hover = true ∧ ¬ (imgField w.inactive 0xC 2 ≤ v ∧ v ≤ imgField w.inactive 0xE 2)) ∧
    ((firmware .none .none 2 false 5).head.fw.stage = 2 ∧ (firmware .none .none 2 false 5).head.fw.hover = false) ∧
    (imgSvn (firmware (.bytes imageBytes) .none 0 false 5).head.fw.active ≤ 4095) := by
  have h : imgField imageBytes 0xC 2 = 0 ∧ imgField imageBytes 0xE 2 = 0xFFFF := by decide +kernel
  have g : imgField (imageBytes.set 12 1 |>.set 14 0 |>.set 15 0) 0xC 2 = 1 ∧ imgField (imageBytes.set 12 1 |>.set 14 0 |>.set 15 0) 0xE 2 = 0 := by
    decide +kernel
  refine ⟨⟨rfl, ?_, ?_⟩, ⟨rfl, ?_⟩, ⟨rfl, rfl⟩, by decide +kernel⟩
  · show imgField imageBytes 0xC 2 ≤ _
    omega
  · show _ ≤ imgField imageBytes 0xE 2
    have := (Config.stateBlockVersion (firmware .none (.bytes imageBytes) 2 true 5).head.fw.aver).isLt
    omega
  · show ¬ (imgField (imageBytes.set 12 1 |>.set 14 0 |>.set 15 0) 0xC 2 ≤ _ ∧ _ ≤ imgField (imageBytes.set 12 1 |>.set 14 0 |>.set 15 0) 0xE 2)
    omega

theorem test_meets_BringUpEventsComplete_phases :
    (base.cores.length = 256 ∧ base.clusters.length = 16) ∧
    (firmware .none .none 0 false 2).head.phase = 2 ∧ (firmware .none .none 0 false 3).head.phase = 3 ∧
    (∀ n ∈ [0, 31, 32, 159, 160, 319], n < 320 ∧ Tab.wf ((firmware .none .none 0 false 3).cluster (n / 160 * 8 + n % 160 / 4)).shafts = true) ∧
    (let s := firmware .none .none 0 false 4
     s.head.phase = 4 ∧ (∀ x ∈ ({ s with crews := [] } : State).crews, x.holding = false) ∧
       ((s.rebind 0).bind (fun t => t.rebind 1)).isSome = true) := by decide +kernel

/-- The IOMMU in a mode with its directory at 0; base with its first hart started as g; dies whose every shaft is retired, so that no
bank has a free frame. -/
def withDdtp (s : State) (m : Word) : State := s.modIommu (fun x => { x with ddtp := m })
def startedAt (g : Hart) : State := { base with head := { base.head with phase := 5, harts := g :: base.head.harts.drop 1 } }
def fullDie : State :=
  { base with cores := base.cores.map (fun c => { c with shaft := 0x8000000000000000 }), head := { base.head with held := false } }

theorem test_meets_OutsideAccessesComplete :
    (Memory.wf base.mem = true ∧ base.upsets = [] ∧ base.head.pci.length = 2) ∧
    (∀ x ∈ [(0x1000, 1), (0x1000, 4), (0x1000, 8), (0x1F80, 128)], 0 < x.2 ∧ x.2 ≤ 128 ∧ inHbm x.1 x.2 = true ∧ base.heldAt x.1 x.2 = false) ∧
    (base.heldAt 0x5FFFFFFF80 128 = true ∧ inHbm 0x5FFFFFFF80 128 = true ∧ inSpad 0x20000000000 8 = true ∧ inHalf (halfBase 0 0) 4 = true) ∧
    (imsicFile 0x50000000000 = some 0 ∧ 1 ≤ bf (5 : Word) 31 0 ∧ bf (2047 : Word) 31 0 ≤ 2047) ∧
    ((4 : BitVec 33).toNat % 8 ≠ 0 ∧ (0x50000 : BitVec 33).toNat % 8 = 0 ∧ regAt 0x50000 = none ∧ regAt 0 = some (.pkg 0)) ∧
    (base.touchReg (.pkg 0)).trapsUser (.pkg 0) 0 = true ∧
    (let s : State := { base with head := { base.head with pci := [{ Pci.reset with up := true }, Pci.reset] } }
     let x : OutAcc := { agent := 0, kind := .load, addr := 0x1000, size := 8, rd := 5 }
     let y := s.head.pci.getD (x.agent / 65536 / 4) Pci.reset
     y.up = true ∧ (y.raw 0 0 0x146).getLsbD 0 = false ∧ bf (withDdtp s 1).head.iommu.ddtp 3 0 = 1 ∧ bf (withDdtp s 0).head.iommu.ddtp 3 0 = 0 ∧
       s.head.iommu.fqcsr.getLsbD 16 = false ∧
       (let t : State := { withDdtp s 2 with mem := [(0, 1)] }
        bf t.head.iommu.ddtp 3 0 = 2 ∧ x.agent % 2 ^ 24 < 64 ∧ inHbm 0 64 = true ∧ t.heldAt 0 64 = false ∧ bf t.head.iommu.ddtp 53 10 = 0 ∧
        (List.range 8).map (fun i => t.read64 (8 * i)) = [1, 0, 0, 0, 0, 0, 0, 0]) ∧
       (let t := s.modPci 0 (fun p => { p with cfg := [(0x146, 1)] })
        ((t.head.pci.getD 0 Pci.reset).raw 0 0 0x146).getLsbD 0 = true ∧ x.agent / 256 % 256 = 0) ∧
       base.head.started = false ∧ (startedAt Hart.reset).head.started = true ∧ x.own = [] ∧ (startedAt Hart.reset).head.hartIrq 0 = none ∧
       Hart.reset.mode = .m ∧ Hart.reset.mprv = false ∧ s.head.harts.length = 32 ∧ ∀ h ∈ s.head.harts, Tab.wf h.x = true) ∧
    (let g : Hart := { Hart.reset with mode := .s, satp := 0xA000000000000000 }
     (startedAt g).head.hartIrq 0 = none ∧ g.mode ≠ .m ∧ bf g.satp 63 60 = 10 ∧ 4096 < 0xFFC % 4096 + 8 ∧ 0x0100000000000000 / 2 ^ 56 ≠ 0 ∧
       0x0100000000000000 / 2 ^ 56 ≠ 255) ∧
    (let g : Hart := { Hart.reset with mie := true, enables := 0x800, mfile := { delivery := true, enabled := [5] } }
     let s := startedAt g
     ({ s.head with imsic := [(0, 5)] } : Head).hartIrq 0 = some 11 ∧ g.mideleg.getLsbD 11 = false) ∧
    (let s := fullDie
     inSlots 0x10000000000 8 = true ∧ s.heldAt 0x10000000000 8 = false ∧ s.touch 0x10000000000 8 none = none) ∧
    (base.head.pci.getD 0 Pci.reset).up = false ∧
    (let s : State := { base with head := { base.head with pci := [{ Pci.reset with bifNow := 2, msia := 0x50000000000, msid := 2044 }, Pci.reset] } }
     let p := s.head.pci.getD 0 Pci.reset
     (3 : BitVec 2).toNat < (if p.bifNow = 1 then 2 else if p.bifNow = 2 then 4 else 1) ∧ 1 ≤ bf p.msid 10 0 ∧
       bf p.msid 10 0 + (3 : BitVec 2).toNat ≤ 2047 ∧ imsicFile (bf p.msia 51 2 * 4) = some 0) := by decide +kernel

theorem test_meets_SlotFrame :
    (let i : Instr := .add p0 (.reg 5) (.reg 6) (.src (.reg 7))
     base.issue.res = .ok ∧ onlyLands i = true ∧ nextHas (exec i base) (fun t => decide (t.issue.res = .ok)) = true) ∧
    (let i : Instr := .br p0 0
     running.issue.res = .ok ∧ asksOnly i = true ∧ nextHas (exec i running) (fun t => decide (t.issue.res = .ok ∧ t.issue.ctl ≠ .next)) = true) ∧
    nextHas (exec (.call p0 0) running) (fun t => decide (t.issue.res = .ok ∧ t.issue.ctl ≠ .next)) = true := by decide +kernel

/-- base with one result in flight, due at its tick. -/
def due (d : LandDst) : Landing := { due := 0, slot := .i, dst := d, val := 7, fl := flagNX, wait := none, tileWord := false, err := none }
def landing (l : List Landing) : State := withCtx (fun c => { c with landing := l })

theorem test_meets_ResultsLand :
    (let s := landing []
     let c := s.ctx 0 0
     0 < s.cores.length ∧ Memory.wf s.mem = true ∧ Tab.wf c.regs.s = true ∧ Tab.wf c.regs.mp = true ∧ Tab.wf (s.core 0).tiles = true ∧ Tab.wf (s.core 0).acc = true ∧
       Tab.wf (s.core 0).scales = true ∧ c.due = []) ∧
    (∀ d ∈ [LandDst.none, .scal 31, .scal 0, .pred 7, .tile .v 15 31 1024, .acc 2047, .mp 7, .scale 7, .spad [(0, 1), (0xBFFFF, 2)]],
      let c := (landing [due d]).ctx 0 0
      c.due = [due d] ∧ (due d).tileWord = false) ∧
    ([(0, (1 : Byte)), (0xBFFFF, 2)].map (·.1)).Nodup := by decide +kernel

/-- running with loops around its bundle and what the bundle asks for at its end. -/
def ending (ls : List LoopSt) (c : Ctl) : State :=
  let s := running.modRegs 0 0 (fun g => { g with loops := ls })
  { s with issue := { s.issue with ctl := c } }

theorem test_meets_BundlesEnd :
    (let s := ending [] .next
     s.issue.k < s.cores.length ∧ s.issue.r < 2 ∧ s.issue.post = [] ∧ s.issue.park = none ∧ s.issue.dec = false ∧ s.ic.stepOne = false ∧
       s.issue.ctl = .next ∧ s.ic.regs.loops = [] ∧ s.issue.toks = [] ∧ s.issue.yld = false) ∧
    (let l : LoopSt := ⟨0, 0, 0, 0, 2, []⟩
     let s := ending [l, aLoop] .next
     s.ic.regs.loops = [l, aLoop] ∧ l.last = s.issue.pc ∧ 1 < l.left) ∧
    (let l : LoopSt := ⟨0, 0, 0, 0, 1, []⟩
     (ending [l] .next).ic.regs.loops = [l] ∧ l.last = (ending [l] .next).issue.pc ∧ l.left ≤ 1 ∧ aLoop.last ≠ (ending [aLoop] .next).issue.pc) ∧
    ((ending [] (.goto 6)).issue.ctl = .goto 6 ∧ (ending [] (.loop { aLoop with left := 2 })).issue.ctl = .loop { aLoop with left := 2 } ∧
      (ending [] (.loop { aLoop with left := 0 })).issue.ctl = .loop { aLoop with left := 0 } ∧ (ending [aLoop] .brk).issue.ctl = .brk ∧
      (ending [] .halt).issue.ctl = .halt ∧ ∀ q, q < 2 → ((ending [] .halt).ctx 0 q).landing = []) := by decide +kernel

theorem test_meets_StepKeepsSoundness :
    Memory.wf base.mem = true ∧ base.cores.length = 256 ∧ base.clusters.length = 16 ∧ base.dies.length = 2 ∧
      (∀ d ∈ base.dies, d.quads.length = 4 ∧ d.logs.length = 12) ∧ base.head.ports.length = 8 ∧ base.head.queues.length = 64 ∧
      base.head.pci.length = 2 ∧ nextHas (step base) (fun _ => true) = true := by decide +kernel

theorem test_meets_StepRunsTheDecodedInstruction_event :
    ({ base with agenda := [.event (.wakeRequest 0)] } : State).agenda = .event (.wakeRequest 0) :: [] := rfl

/-! ### Placement and digest -/

/-- The worked address of R71. -/
theorem test_hbmPlace : hbmPlace 0x3123456789 = ⟨1, 5, 2, 0x2468A89⟩ := by decide

/-- The digest of the empty message that FIPS 202's examples print, first byte lowest. -/
theorem test_sha3_empty : sha3x512 [] =
    0x26cd1d2886857501e3d3b6959d1900f558c53a2c40e9e3114cf9f5f13a12b215a6805c47c1dcd1e05958e24f1682c9976e755a18dc67b5c8c59a3aa2cc739fa6 := by decide +kernel

end Sys2Proof.Tests
end

section
/-!
PROOF. The words of the I slot: the bounds of their fields, the opcode that the encoder puts into each format (R212), and words that the
decoder refuses (R218, R262, R264).
-/

namespace Sys2Proof

/-! ### Opcode fields -/

theorem Pr.enc_lt (p : Pr) : p.enc < 16 := by
  have := p.n.isLt
  unfold Pr.enc
  split <;> omega

theorem SSrc.enc_lt (a : SSrc) : a.enc < 48 := by
  cases a with
  | reg n => have := n.isLt; simp only [SSrc.enc]; omega
  | latch u n =>
    have hn := n.isLt
    have hu : u.enc < 4 := by cases u <;> decide
    simp only [SSrc.enc]; omega

theorem SDst.enc_lt (d : SDst) : d.enc < 64 := by
  cases d with
  | reg n => have := n.isLt; simp only [SDst.enc]; omega
  | off => decide

theorem SOp.enc_lt (b : SOp) : b.enc < 128 := by
  cases b with
  | src a => have := a.enc_lt; simp only [SOp.enc]; omega
  | imm k => have := k.isLt; simp only [SOp.enc]; omega

theorem Cc.enc_lt (c : Cc) : c.enc < 8 := by cases c <;> decide

theorem irBits_lt (d : SDst) (a : SSrc) (b : SOp) : irBits d a b < 2 ^ 20 := by
  have := d.enc_lt; have := a.enc_lt; have := b.enc_lt
  unfold irBits
  omega

theorem ipBits_lt (pd : BitVec 3) (a b : Pr) : ipBits pd a b < 2 ^ 20 := by
  have := pd.isLt; have := a.enc_lt; have := b.enc_lt
  unfold ipBits
  omega

/-- Bits 19:0 of format IC (R212). -/
def icBits (pd : BitVec 3) (c : Cc) (a : SSrc) (b : SOp) : Nat := pd.toNat * 2 ^ 17 + c.enc * 2 ^ 14 + a.enc * 2 ^ 8 + b.enc * 2

theorem icBits_lt (pd : BitVec 3) (c : Cc) (a : SSrc) (b : SOp) : icBits pd c a b < 2 ^ 20 := by
  have := pd.isLt; have := c.enc_lt; have := a.enc_lt; have := b.enc_lt
  unfold icBits
  omega

/-- Bits 31:24 of a word of the C or I slot are its opcode (R211, R212). -/
theorem opcode_word32 {op f : Nat} (p : Pr) (hop : op < 256) (hf : f < 2 ^ 20) : fld (word32 op p f) 24 8 = op := by
  have := p.enc_lt
  unfold fld word32
  omega

/-- Bits 16:14 of a word of format IC are its condition code (R212, R266). -/
theorem cc_word32_icBits (op : Nat) (p : Pr) (pd : BitVec 3) (c : Cc) (a : SSrc) (b : SOp) :
    fld (word32 op p (icBits pd c a b)) 14 3 = c.enc := by
  have := c.enc_lt; have := a.enc_lt; have := b.enc_lt
  unfold fld word32 icBits
  omega

/-- The encoder gives an instruction one word. -/
theorem word_of_encodeSlot {i : Instr} {w v : Nat} {x y : Ext} (hi : encodeSlot i = some (v, y)) (h : encodeSlot i = some (w, x)) : w = v :=
  (Prod.mk.inj (Option.some.inj (h.symm.trans hi))).1

/-- The opcode of an instruction of format IR. -/
theorem opcode_ir {i : Instr} {op w : Nat} {p : Pr} {d : SDst} {a : SSrc} {b : SOp} {x : Ext}
    (hi : encodeSlot i = some (word32 op p (irBits d a b), Ext.none)) (h : encodeSlot i = some (w, x))
    (hop : op < 256 := by decide) : fld w 24 8 = op :=
  word_of_encodeSlot hi h ▸ opcode_word32 p hop (irBits_lt d a b)

/-- The opcode of an instruction of format IP. -/
theorem opcode_ip {i : Instr} {op w : Nat} {p : Pr} {pd : BitVec 3} {a b : Pr} {x : Ext}
    (hi : encodeSlot i = some (word32 op p (ipBits pd a b), Ext.none)) (h : encodeSlot i = some (w, x))
    (hop : op < 256 := by decide) : fld w 24 8 = op :=
  word_of_encodeSlot hi h ▸ opcode_word32 p hop (ipBits_lt pd a b)

/-- The opcode of an instruction of one operand. -/
theorem opcode_ir1 {i : Instr} {op w : Nat} {p : Pr} {d : SDst} {a : SSrc} {x : Ext}
    (hi : encodeSlot i = some (word32 op p (d.enc * 2 ^ 14 + a.enc * 2 ^ 8), Ext.none)) (h : encodeSlot i = some (w, x))
    (hop : op < 256 := by decide) : fld w 24 8 = op := by
  have := d.enc_lt; have := a.enc_lt
  exact word_of_encodeSlot hi h ▸ opcode_word32 p hop (by omega)

/-! ### Refused words -/

theorem decIR1_refuses {w : Nat} (h : fld w 1 7 ≠ 0) (mk : SDst → SSrc → Instr) (i : Instr) : decIR1 w Ext.none mk ≠ .ok i := by
  have hz : zero w 0 8 = .error .nonzero := if_neg (by unfold fld at *; omega)
  simp [decIR1, noExt, hz, bind, Except.bind]

theorem decIRS_refuses {w : Nat} (h : fld w 1 1 = 1) (mk : SDst → SSrc → SSrc → Instr) (i : Instr) : decIRS w Ext.none mk ≠ .ok i := by
  have hz : zero w 0 2 = .error .nonzero := if_neg (by unfold fld at *; omega)
  simp [decIRS, noExt, hz, bind, Except.bind]

/-- A word of CLZ, CTZ or POPC whose B field or BI is not zero is no instruction (R262). -/
theorem decodeSlot_refuses_counts {w : Nat} (hop : fld w 24 8 = 0x18 ∨ fld w 24 8 = 0x19 ∨ fld w 24 8 = 0x1A) (hb : fld w 1 7 ≠ 0)
    (i : Instr) : decodeSlot .i w Ext.none ≠ .ok i := by
  rcases hop with h | h | h
  all_goals
    simp only [decodeSlot, decI, h]
    exact decIR1_refuses hb _ i

/-- A word of EXTR or INS with BI = 1 is no instruction (R264). -/
theorem decodeSlot_refuses_fields {w : Nat} (hop : fld w 24 8 = 0x1D ∨ fld w 24 8 = 0x1E) (hb : fld w 1 1 = 1) (i : Instr) :
    decodeSlot .i w Ext.none ≠ .ok i := by
  rcases hop with h | h
  all_goals
    simp only [decodeSlot, decI, h]
    exact decIRS_refuses hb _ i

end Sys2Proof
end

section
/-!
PROOF. The course of the I slot (R253): what an enabled instruction of it lands, and what a result without a destination does.
-/

namespace Sys2Proof.Machine

/-! ### Landings of the I slot -/

section

variable {s : State} {p : Pr}

/-- An enabled I-slot operation lands its result after its latency. -/
theorem exec_iOp (h : s.Goes p 1) {i : Instr} {d : SDst} {n : Nat} {v : Word} (r : State → Word) (hi : exec i s = iOp p d n r s)
    (hv : r s = v) : exec i s = .next (s.iLand d v n) := by
  have hs : s.fixed (noReads s) = s := s.fixed_nil
  rw [hi, iOp, slotOp_goes h s.clean_nil rfl rfl, hs, hv]
  rfl

/-- An operation of two operands lands its function of them (R262). -/
theorem exec_iBin (h : s.Goes p 1) {i : Instr} {n : Nat} {d : SDst} {a : SSrc} {b : SOp} {v : Word} (f : Word → Word → Word)
    (hi : exec i s = iBin f n p d a b s) (hv : f (s.ss a) (s.so b) = v) : exec i s = .next (s.iLand d v n) :=
  exec_iOp h _ hi hv

/-- An operation of one operand lands its function of it (R262). -/
theorem exec_iUn (h : s.Goes p 1) {i : Instr} {n : Nat} {d : SDst} {a : SSrc} {v : Word} (f : Word → Word)
    (hi : exec i s = iUn f n p d a s) (hv : f (s.ss a) = v) : exec i s = .next (s.iLand d v n) :=
  exec_iOp h _ hi hv

theorem ofNat_b2n (c : Bool) : BitVec.ofNat 1024 (b2n c) = if c then 1 else 0 := by cases c <;> rfl

/-- A predicate operation lands 1 or 0 at T + 1 (R266, R267). -/
theorem exec_iPred (h : s.Goes p 1) {i : Instr} {pd : BitVec 3} {c : Bool} (r : State → Bool) (hi : exec i s = iPred p pd r s)
    (hc : r s = c) : exec i s = .next (s.land .i (.pred pd) (if c then 1 else 0) 1) := by
  have hs : s.fixed (noReads s) = s := s.fixed_nil
  rw [hi, iPred, slotOp_goes h s.clean_nil rfl rfl, hs, hc, ofNat_b2n]

end

/-- A result without a destination lands in the I ring and in no register (R205, R208). -/
theorem landOne_discarded (s : State) {k : Nat} (r : Nat) (v n : Word) (hk : k < s.cores.length) :
    ((landOne s k r { due := n, slot := .i, dst := .none, val := v.setWidth 1024, fl := 0#7, wait := none, tileWord := false,
                      err := none }).ctx k r).regs =
      { (s.ctx k r).regs with rings := { (s.ctx k r).regs.rings with i := (v :: (s.ctx k r).regs.rings.i).take 4 } } := by
  have hv : (v.setWidth 1024).setWidth 64 = v := by simp
  simp [landOne, landDst, LandDst.rings, Rings.push, ringPush, State.modRegs, State.ctx_modCtx_self s r _ hk, hv]

end Sys2Proof.Machine
end

section
/-!
PROOF. What the results of R262 to R264 are: each function of the I slot in terms of numbers, of the library's functions, or bit by bit.
-/

namespace Sys2Proof.Machine

/-! ### Products (R262) -/

/-- Bits 127:64 of a 128-bit word are those of the integer that it stands for. -/
theorem extract_hi_ofInt (z : Int) : (BitVec.ofInt 128 z).extractLsb' 64 64 = BitVec.ofInt 64 (z / 2 ^ 64) := by
  apply BitVec.eq_of_toNat_eq
  simp only [BitVec.extractLsb'_toNat, BitVec.toNat_ofInt, Nat.shiftRight_eq_div_pow]
  omega

theorem mulhS_eq (a b : Word) : mulhS a b = BitVec.ofInt 64 (a.toInt * b.toInt / 2 ^ 64) := by
  rw [mulhS, ← BitVec.ofInt_toInt (x := a.signExtend 128), ← BitVec.ofInt_toInt (x := b.signExtend 128), ← BitVec.ofInt_mul,
    extract_hi_ofInt, BitVec.toInt_signExtend_of_le (by decide), BitVec.toInt_signExtend_of_le (by decide)]

theorem mulhU_eq (a b : Word) : mulhU a b = BitVec.ofNat 64 (a.toNat * b.toNat / 2 ^ 64) := by
  have hab : a.toNat * b.toNat < 2 ^ 128 := by
    calc a.toNat * b.toNat < 2 ^ 64 * 2 ^ 64 := Nat.mul_lt_mul'' a.isLt b.isLt
      _ = 2 ^ 128 := by norm_num
  apply BitVec.eq_of_toNat_eq
  simp only [mulhU, BitVec.extractLsb'_toNat, BitVec.toNat_mul, BitVec.toNat_setWidth, BitVec.toNat_ofNat, Nat.shiftRight_eq_div_pow]
  rw [Nat.mod_eq_of_lt (a := a.toNat) (by omega), Nat.mod_eq_of_lt (a := b.toNat) (by omega), Nat.mod_eq_of_lt hab]

/-! ### Least and greatest (R262) -/

/-- A strict and a weak comparison choose alike where equal keys leave nothing to choose. -/
theorem ite_lt_eq_ite_le {α β : Type} [LinearOrder α] {x y : α} {c d : β} (h : x = y → c = d) :
    (if x < y then c else d) = if x ≤ y then c else d := by
  rcases lt_trichotomy x y with hl | he | hg
  · rw [if_pos hl, if_pos hl.le]
  · rw [if_neg he.not_lt, if_pos he.le, h he]
  · rw [if_neg hg.not_gt, if_neg hg.not_ge]

theorem minS_eq (a b : Word) : minS a b = if a.toInt ≤ b.toInt then a else b := by
  simpa [minS, BitVec.slt_eq_decide] using ite_lt_eq_ite_le (fun h => BitVec.toInt_inj.mp h)

theorem maxS_eq (a b : Word) : maxS a b = if a.toInt ≤ b.toInt then b else a := by
  simpa [maxS, BitVec.slt_eq_decide] using ite_lt_eq_ite_le (fun h => (BitVec.toInt_inj.mp h).symm)

theorem minU_eq (a b : Word) : minU a b = if a.toNat ≤ b.toNat then a else b := by
  simpa [minU, BitVec.ult] using ite_lt_eq_ite_le (fun h => BitVec.eq_of_toNat_eq h)

theorem maxU_eq (a b : Word) : maxU a b = if a.toNat ≤ b.toNat then b else a := by
  simpa [maxU, BitVec.ult] using ite_lt_eq_ite_le (fun h => (BitVec.eq_of_toNat_eq h).symm)

/-! ### Shifts (R262) -/

theorem sra64_eq (a b : Word) : sra64 a b = BitVec.ofInt 64 (a.toInt / 2 ^ (b.toNat % 64)) := by
  rw [sra64, BitVec.sshiftRight, Int.shiftRight_eq_div_pow]
  norm_cast

theorem rotl64_eq (a b : Word) : rotl64 a b = (a <<< (b.toNat % 64)) ||| (a >>> (64 - b.toNat % 64)) := by
  rw [rotl64, BitVec.rotateLeft_mod_eq_rotateLeft, BitVec.rotateLeft_def]

/-! ### Counts of bits (R262) -/

/-- The count down from bit n, in a word whose bits above n are zeros counted already. -/
theorem clzAuxRec_eq_leadZeros (a : Word) {n : Nat} (h : n < 64) : a.clzAuxRec n = BitVec.ofNat 64 (63 - n + leadZeros a (n + 1)) := by
  induction n with
  | zero =>
    rw [BitVec.clzAuxRec, leadZeros]
    split <;> rfl
  | succ n ih =>
    rw [BitVec.clzAuxRec, leadZeros]
    split
    · simp
    · rw [ih (by omega)]
      congr 1
      omega

theorem clz64_eq (a : Word) : clz64 a = a.clz := by
  rw [clz64, BitVec.clz, clzAuxRec_eq_leadZeros a (by decide)]
  simp

/-- Zeros counted down in the reversed word are zeros counted up. -/
theorem leadZeros_reverse (a : Word) {n : Nat} (h : n ≤ 64) : leadZeros a.reverse n = trailZeros a (64 - n) n := by
  induction n with
  | zero => rfl
  | succ n ih =>
    have hb : a.reverse.getLsbD n = a.getLsbD (64 - (n + 1)) := by
      rw [BitVec.getLsbD_reverse, BitVec.getMsbD, decide_eq_true (show n < 64 by omega), Bool.true_and]
      congr 1
      omega
    rw [leadZeros, trailZeros, hb, ih (by omega), show 64 - (n + 1) + 1 = 64 - n by omega]

theorem ctz64_eq (a : Word) : ctz64 a = a.ctz := by
  rw [BitVec.ctz, ← clz64_eq, clz64, leadZeros_reverse a le_rfl, ctz64]

theorem cpopNatRec_eq_popCount (a : Word) (n acc : Nat) : a.cpopNatRec n acc = acc + popCount a n := by
  induction n generalizing acc with
  | zero => rfl
  | succ n ih =>
    have hb : (a.getLsbD n).toNat = b2n (a.getLsbD n) := by cases a.getLsbD n <;> rfl
    rw [BitVec.cpopNatRec_succ, ih, popCount, hb, Nat.add_assoc]

theorem popc64_eq (a : Word) : popc64 a = a.cpop := by
  rw [popc64, BitVec.cpop, cpopNatRec_eq_popCount, Nat.zero_add]

/-! ### Carry-less products (R262) -/

/-- The sum without carry of f over the indices below n. -/
def xorSum (n : Nat) (f : Nat → Bool) : Bool := (List.range n).foldl (fun b i => b != f i) false

theorem xorSum_succ (n : Nat) (f : Nat → Bool) : xorSum (n + 1) f = (xorSum n f != f n) := by
  simp [xorSum, List.range_succ]

theorem xorSum_succ_front (n : Nat) (f : Nat → Bool) : xorSum (n + 1) f = (f 0 != xorSum n (fun i => f (i + 1))) := by
  induction n with
  | zero => simp [xorSum]
  | succ n ih => rw [xorSum_succ, ih, xorSum_succ, Bool.bne_assoc]

theorem xorSum_congr {n : Nat} {f g : Nat → Bool} (h : ∀ i, i < n → f i = g i) : xorSum n f = xorSum n g := by
  induction n with
  | zero => rfl
  | succ n ih => rw [xorSum_succ, xorSum_succ, ih (fun i hi => h i (by omega)), h n (by omega)]

/-- The order of the summands does not matter. -/
theorem xorSum_reflect (n : Nat) (f : Nat → Bool) : xorSum n (fun i => f (n - 1 - i)) = xorSum n f := by
  induction n with
  | zero => rfl
  | succ n ih =>
    have hc : xorSum n (fun i => f (n + 1 - 1 - (i + 1))) = xorSum n (fun i => f (n - 1 - i)) :=
      xorSum_congr (fun i _ => by congr 1; omega)
    rw [xorSum_succ_front, xorSum_succ, hc, ih]
    exact Bool.xor_comm _ _

/-- Summands that are zero can be left out at the end. -/
theorem xorSum_of_le {m n : Nat} {f : Nat → Bool} (hmn : m ≤ n) (h : ∀ i, m ≤ i → f i = false) : xorSum n f = xorSum m f := by
  induction n, hmn using Nat.le_induction with
  | base => rfl
  | succ n hn ih => rw [xorSum_succ, ih, h n hn, Bool.bne_false]

/-- Sums of one function whose summands vanish from both bounds on. -/
theorem xorSum_eq_of_vanish {m n : Nat} {f : Nat → Bool} (hm : ∀ i, m ≤ i → f i = false) (hn : ∀ i, n ≤ i → f i = false) :
    xorSum m f = xorSum n f := by
  rcases le_total m n with h | h
  · exact (xorSum_of_le h hm).symm
  · exact xorSum_of_le h hn

/-- Summand i of bit k of the carry-less product (R262). -/
def clTerm (x y : Word) (k i : Nat) : Bool := x.getLsbD i && decide (i ≤ k) && y.getLsbD (k - i)

theorem clBit_eq_xorSum (x y : Word) (k : Nat) : clBit x y k = xorSum 64 (clTerm x y k) := rfl

theorem clTerm_of_ge (x y : Word) (k : Nat) {i : Nat} (h : 64 ≤ i) : clTerm x y k i = false := by
  simp [clTerm, BitVec.getLsbD_of_ge x i h]

theorem clTerm_of_gt (x y : Word) {k i : Nat} (h : k + 1 ≤ i) : clTerm x y k i = false := by
  simp [clTerm, show ¬ i ≤ k by omega]

/-- The factors of a summand change places where the index is counted from the other end. -/
theorem clTerm_reflect (x y : Word) {k i : Nat} (h : i ≤ k) : clTerm x y k (k - i) = clTerm y x k i := by
  simp [clTerm, h, Nat.sub_sub_self h, Bool.and_comm]

/-- The carry-less product is commutative, bit by bit. -/
theorem clBit_comm (x y : Word) (k : Nat) : clBit x y k = clBit y x k := by
  calc clBit x y k = xorSum (k + 1) (clTerm x y k) := xorSum_eq_of_vanish (fun i => clTerm_of_ge x y k) (fun i => clTerm_of_gt x y)
    _ = xorSum (k + 1) (fun i => clTerm x y k (k - i)) := (xorSum_reflect (k + 1) (clTerm x y k)).symm
    _ = xorSum (k + 1) (clTerm y x k) := xorSum_congr (fun i hi => clTerm_reflect x y (by omega))
    _ = clBit y x k := xorSum_eq_of_vanish (fun i => clTerm_of_gt y x) (fun i => clTerm_of_ge y x k)

/-- Bit k of the product by the low n bits of y sums over the bits of y. -/
theorem clmulBits_getLsbD (x y : Word) (n : Nat) {k : Nat} (hk : k < 128) :
    (clmulBits (x.setWidth 128) (y.setWidth 128) n).getLsbD k = xorSum n (clTerm y x k) := by
  induction n with
  | zero => simp [clmulBits, xorSum]
  | succ n ih =>
    have ht : (if (y.setWidth 128).getLsbD n then x.setWidth 128 <<< n else 0#128).getLsbD k = clTerm y x k n := by
      by_cases hn : n ≤ k
      · by_cases hy : y.getLsbD n <;>
          simp [clTerm, hn, hy, hk, show n < 128 by omega, show ¬ k < n by omega]
      · by_cases hy : (y.setWidth 128).getLsbD n <;> simp [clTerm, hn, hy, show k < n by omega]
    rw [clmulBits, BitVec.getLsbD_xor, ih, ht, xorSum_succ, Bool.xor_comm]

/-- Bit k of the carry-less product (R262). -/
theorem clmul128_getLsbD (x y : Word) {k : Nat} (hk : k < 128) : (clmul128 x y).getLsbD k = clBit x y k := by
  rw [clmul128, clmulBits_getLsbD x y 64 hk, ← clBit_eq_xorSum, clBit_comm]

theorem clmulLo_getLsbD (x y : Word) {j : Nat} (hj : j < 64) : (clmulLo x y).getLsbD j = clBit x y j := by
  simp [clmulLo, hj, clmul128_getLsbD x y (show j < 128 by omega)]

theorem clmulHi_getLsbD (x y : Word) {j : Nat} (hj : j < 64) : (clmulHi x y).getLsbD j = clBit x y (64 + j) := by
  simp [clmulHi, hj, clmul128_getLsbD x y (show 64 + j < 128 by omega)]

/-! ### Quotients and remainders (R263) -/

theorem divS_eq (a : Word) {b : Word} (h : b ≠ 0#64) : divS a b = BitVec.ofInt 64 (a.toInt.tdiv b.toInt) := by
  rw [divS, if_neg h, ← BitVec.toInt_inj, BitVec.toInt_sdiv, BitVec.toInt_ofInt]

theorem divU_eq (a : Word) {b : Word} (h : b ≠ 0#64) : divU a b = BitVec.ofNat 64 (a.toNat / b.toNat) := by
  rw [divU, if_neg h, ← BitVec.toNat_udiv, BitVec.ofNat_toNat, BitVec.setWidth_eq]

theorem remS_eq (a : Word) {b : Word} (h : b ≠ 0#64) : remS a b = BitVec.ofInt 64 (a.toInt.tmod b.toInt) := by
  rw [remS, if_neg h, ← BitVec.toInt_srem, BitVec.ofInt_toInt]

theorem remU_eq (a : Word) {b : Word} (h : b ≠ 0#64) : remU a b = BitVec.ofNat 64 (a.toNat % b.toNat) := by
  rw [remU, if_neg h, ← BitVec.toNat_umod, BitVec.ofNat_toNat, BitVec.setWidth_eq]

/-! ### Fields (R264) -/

/-- The length of a field is cut at bit 63. -/
theorem lt_fieldSpec (b : Word) (j : Nat) : j < (fieldSpec b).2 ↔ j < bf b 13 8 + 1 ∧ bf b 5 0 + j < 64 := by
  simp only [fieldSpec]
  omega

/-- The bits of a word that a field specification names. -/
def fieldMask (b : Word) : Word := BitVec.ofNat 64 ((2 ^ (fieldSpec b).2 - 1) * 2 ^ bf b 5 0)

theorem fieldMask_getLsbD (b : Word) {j : Nat} (hj : j < 64) :
    (fieldMask b).getLsbD j = decide (bf b 5 0 ≤ j ∧ j < bf b 5 0 + (bf b 13 8 + 1)) := by
  have hc : bf b 5 0 ≤ j ∧ j - bf b 5 0 < (fieldSpec b).2 ↔ bf b 5 0 ≤ j ∧ j < bf b 5 0 + (bf b 13 8 + 1) := by
    rw [lt_fieldSpec]
    omega
  rw [fieldMask, BitVec.getLsbD_ofNat, Nat.testBit_mul_two_pow, Nat.testBit_two_pow_sub_one]
  simp only [hj, decide_true, Bool.true_and, ← Bool.decide_and, hc]

theorem extr64_eq (a b : Word) : extr64 a b = (a >>> bf b 5 0) &&& BitVec.ofNat 64 (2 ^ (fieldSpec b).2 - 1) := rfl

theorem ins64_eq (old a b : Word) : ins64 old a b = (old &&& ~~~fieldMask b) ||| ((a <<< bf b 5 0) &&& fieldMask b) := rfl

/-- The bits of EXTR (R264). -/
theorem extr64_getLsbD (a b : Word) {j : Nat} (hj : j < 64) :
    (extr64 a b).getLsbD j = (decide (j < bf b 13 8 + 1 ∧ bf b 5 0 + j < 64) && a.getLsbD (bf b 5 0 + j)) := by
  rw [extr64_eq, BitVec.getLsbD_and, BitVec.getLsbD_ushiftRight, BitVec.getLsbD_ofNat, Nat.testBit_two_pow_sub_one,
    decide_eq_decide.mpr (lt_fieldSpec b j), decide_eq_true hj, Bool.true_and, Bool.and_comm]

/-- The bits of INS (R264). -/
theorem ins64_getLsbD (old a b : Word) {j : Nat} (hj : j < 64) :
    (ins64 old a b).getLsbD j =
      if bf b 5 0 ≤ j ∧ j < bf b 5 0 + (bf b 13 8 + 1) then a.getLsbD (j - bf b 5 0) else old.getLsbD j := by
  rw [ins64_eq, BitVec.getLsbD_or, BitVec.getLsbD_and, BitVec.getLsbD_and, BitVec.getLsbD_not, BitVec.getLsbD_shiftLeft,
    fieldMask_getLsbD b hj]
  split_ifs with h
  · simp [h, hj]
  · simp [h, hj]

/-! ### Immediates (R210, R265) and conditions (R266) -/

/-- An immediate without an extension is its field, sign-extended (R210). -/
theorem immVal_none {w : Nat} (k : BitVec w) (hw : w ≤ 64) : immVal k.toNat w Ext.none = k.signExtend 64 := by
  simp [immVal, immRaw, Ext.none, hw]

theorem Cc.holds_eq (u v : Word) : Cc.holds .eq u v = decide (u = v) := beq_eq_decide u v
theorem Cc.holds_ne (u v : Word) : Cc.holds .ne u v = decide (u ≠ v) := by
  rw [Cc.holds, bne, beq_eq_decide, decide_not]
theorem Cc.holds_lt (u v : Word) : Cc.holds .lt u v = decide (u.toInt < v.toInt) := rfl
theorem Cc.holds_ge (u v : Word) : Cc.holds .ge u v = decide (v.toInt ≤ u.toInt) := by
  simp [Cc.holds, BitVec.slt_eq_decide, ← decide_not]
theorem Cc.holds_ltu (u v : Word) : Cc.holds .ltu u v = decide (u.toNat < v.toNat) := rfl
theorem Cc.holds_geu (u v : Word) : Cc.holds .geu u v = decide (v.toNat ≤ u.toNat) := by
  simp [Cc.holds, BitVec.ult, ← decide_not]

end Sys2Proof.Machine
end

section
/-!
PROOF. The statements on the integer instructions of the I slot: O11 to O14.
-/

namespace Sys2Proof.Machine

/-- Settles O11: each instruction is an operation of the I slot whose function is the one of the table. -/
theorem integerTable : Obligations.IntegerTable := by
  refine ⟨fun s p d a b h => ?_, fun p d a b w x => ?_, fun w hop hb => decodeSlot_refuses_counts hop hb, fun s k r v n hk => ?_⟩
  · exact ⟨
      exec_iBin h (· + ·) rfl rfl,
      exec_iBin h (· - ·) rfl rfl,
      exec_iBin h (· * ·) rfl rfl,
      exec_iBin h mulhS rfl (mulhS_eq _ _),
      exec_iBin h mulhU rfl (mulhU_eq _ _),
      exec_iBin h minS rfl (minS_eq _ _),
      exec_iBin h maxS rfl (maxS_eq _ _),
      exec_iBin h minU rfl (minU_eq _ _),
      exec_iBin h maxU rfl (maxU_eq _ _),
      exec_iBin h (· &&& ·) rfl rfl,
      exec_iBin h (· ||| ·) rfl rfl,
      exec_iBin h (· ^^^ ·) rfl rfl,
      exec_iBin h (fun x y => x &&& ~~~y) rfl rfl,
      exec_iBin h shl64 rfl rfl,
      exec_iBin h shr64 rfl rfl,
      exec_iBin h sra64 rfl (sra64_eq _ _),
      exec_iBin h rotl64 rfl (rotl64_eq _ _),
      exec_iUn h clz64 rfl (clz64_eq _),
      exec_iUn h ctz64 rfl (ctz64_eq _),
      exec_iUn h popc64 rfl (popc64_eq _),
      ⟨_, exec_iBin h clmulLo rfl rfl, fun _ => clmulLo_getLsbD _ _⟩,
      ⟨_, exec_iBin h clmulHi rfl rfl, fun _ => clmulHi_getLsbD _ _⟩⟩
  · exact ⟨opcode_ir rfl, opcode_ir rfl, opcode_ir rfl, opcode_ir rfl, opcode_ir rfl, opcode_ir rfl, opcode_ir rfl, opcode_ir rfl,
      opcode_ir rfl, opcode_ir rfl, opcode_ir rfl, opcode_ir rfl, opcode_ir rfl, opcode_ir rfl, opcode_ir rfl, opcode_ir rfl,
      opcode_ir rfl, opcode_ir1 rfl, opcode_ir1 rfl, opcode_ir1 rfl, opcode_ir rfl, opcode_ir rfl⟩
  · have hl := landOne_discarded s r v n hk
    exact ⟨(congrArg (fun g => g.s) hl).trans rfl, (congrArg (fun g => g.rings.i) hl).trans rfl⟩

/-- Settles O12: the quotients and remainders by their functions, and the boundary cases from the definition's own cases. -/
theorem divisionsComplete : Obligations.DivisionsComplete := by
  intro s p d a b h
  refine ⟨fun hy => ?_, fun hy => ?_, fun hx hy => ?_, fun w z => ?_⟩
  · exact ⟨exec_iBin h divS rfl (divS_eq _ hy), exec_iBin h divU rfl (divU_eq _ hy), exec_iBin h remS rfl (remS_eq _ hy),
      exec_iBin h remU rfl (remU_eq _ hy)⟩
  · exact ⟨exec_iBin h divS rfl (if_pos hy), exec_iBin h divU rfl (if_pos hy), exec_iBin h remS rfl (if_pos hy),
      exec_iBin h remU rfl (if_pos hy)⟩
  · exact ⟨exec_iBin h divS rfl (by rw [hx, hy]; decide), exec_iBin h remS rfl (by rw [hx, hy]; decide)⟩
  · exact ⟨opcode_ir rfl, opcode_ir rfl, opcode_ir rfl, opcode_ir rfl⟩

/-- Settles O13: each bit of an extraction and of an insertion, and the words that are refused. -/
theorem fieldsComplete : Obligations.FieldsComplete := by
  intro s p d a b h
  exact ⟨⟨_, exec_iOp h (fun t => extr64 (t.ss a) (t.ss b)) rfl rfl, fun _ => extr64_getLsbD _ _⟩,
    ⟨_, exec_iOp h (fun t => ins64 (dstOld d t) (t.ss a) (t.ss b)) rfl rfl, fun _ => ins64_getLsbD _ _ _⟩,
    fun w x => ⟨opcode_ir rfl, opcode_ir rfl⟩, fun w i hop hb => decodeSlot_refuses_fields hop hb i⟩

/-- Settles O14: the values of ADDI and LI, and the conditions, predicates and choices of R266 to R268. -/
theorem immediatesAndPredicatesComplete : Obligations.ImmediatesAndPredicatesComplete := by
  refine ⟨fun s p d a k m x h => ?_, fun s p d pd n cc a b x y h => ?_⟩
  · exact ⟨exec_iUn h (· + immVal k.toNat 8 x) rfl rfl, exec_iOp h (fun _ => immVal m.toNat 14 x) rfl rfl,
      immVal_none k (by decide), immVal_none m (by decide)⟩
  · refine ⟨exec_iPred h (fun t => Cc.holds cc (t.ss a) (t.so b)) rfl ?_, exec_iPred h (fun t => t.pr x && t.pr y) rfl rfl,
      exec_iPred h (fun t => t.pr x || t.pr y) rfl rfl, exec_iPred h (fun t => t.pr x != t.pr y) rfl rfl,
      exec_iOp h (fun t => if t.ic.regs.getP n then t.ss a else t.so b) rfl ?_, fun w z => ⟨fun hw => ?_, fun hw => ?_,
      opcode_ip rfl, opcode_ip rfl, opcode_ip rfl, fun _ hw => ?_⟩⟩
    · cases cc with
      | eq => exact Cc.holds_eq _ _
      | ne => exact Cc.holds_ne _ _
      | lt => exact Cc.holds_lt _ _
      | ge => exact Cc.holds_ge _ _
      | ltu => exact Cc.holds_ltu _ _
      | geu => exact Cc.holds_geu _ _
    · simp [Regs.getP]
    · exact word_of_encodeSlot rfl hw ▸ opcode_word32 p (by decide) (icBits_lt pd cc a b)
    · have hc : fld w 14 3 = cc.enc := word_of_encodeSlot rfl hw ▸ cc_word32_icBits 0x20 p pd cc a b
      rw [hc]
      cases cc <;> rfl
    · exact opcode_ir rfl hw (by have := n.isLt; omega)

end Sys2Proof.Machine
end

section
/-!
PROOF. What the formats' codes stand for (R233, R234): the codes that R303's table names, in a format with exponents of either sign.
-/

namespace Sys2Proof.Machine

/-! ### Formats of the special functions -/

/-- A format with infinities whose exponents reach bias above zero, as FP32, BF16 and FP16 have; 512 bounds the exponents that VEXP2 tells
apart. -/
structure Fmt.Ieee (f : Fmt) : Prop where
  hasInf : f.hasInf = true
  expRange : 2 ^ f.ebits = 2 * f.bias + 2
  bias_pos : 0 < f.bias
  bias_lt : f.bias < 512

theorem Fmt.ieee_f32 : Fmt.f32.Ieee := ⟨rfl, rfl, by decide, by decide⟩
theorem Fmt.ieee_bf16 : Fmt.bf16.Ieee := ⟨rfl, rfl, by decide, by decide⟩
theorem Fmt.ieee_f16 : Fmt.f16.Ieee := ⟨rfl, rfl, by decide, by decide⟩

section

variable {f : Fmt} {c : Nat}

theorem Fmt.signBit_pos (f : Fmt) : 0 < f.signBit := Nat.two_pow_pos _

theorem Fmt.infCode_lt_signBit (f : Fmt) : f.infCode < f.signBit := by
  rw [Fmt.infCode, Fmt.signBit, Nat.pow_add]
  have := Nat.two_pow_pos f.ebits
  exact Nat.mul_lt_mul_of_pos_right (by omega) (Nat.two_pow_pos _)

theorem Fmt.Ieee.infCode_eq (h : f.Ieee) : f.infCode = (2 * f.bias + 1) * 2 ^ f.fbits := by
  rw [Fmt.infCode, h.expRange]
  rfl

theorem Fmt.Ieee.infCode_pos (h : f.Ieee) : 0 < f.infCode := by
  rw [h.infCode_eq]
  positivity

theorem Fmt.Ieee.maxCode_eq (h : f.Ieee) : f.maxCode = f.infCode - 1 := by simp [Fmt.maxCode, h.hasInf]

/-! ### Powers of two -/

theorem pow2_num_pos (e : Int) : 0 < (pow2 e).1 := by
  unfold pow2
  split <;> positivity

theorem pow2_den_pos (e : Int) : 0 < (pow2 e).2 := by
  unfold pow2
  split <;> positivity

theorem pow2_ratio (e : Int) : ((pow2 e).1 : ℚ) / (pow2 e).2 = 2 ^ e := by
  unfold pow2
  split
  next h =>
    obtain ⟨k, rfl⟩ := Int.eq_ofNat_of_zero_le h
    simp
  next h =>
    obtain ⟨k, hk⟩ := Int.eq_ofNat_of_zero_le (show 0 ≤ -e by omega)
    obtain rfl : e = -(k : Int) := by omega
    simp

/-! ### Values of codes (R234) -/

theorem floatValue_of_mag_infCode (h : f.Ieee) (hm : c % f.signBit = f.infCode) :
    floatValue f c = .inf (decide (c / f.signBit % 2 = 1)) := by
  simp [floatValue, h.hasInf, hm]

theorem floatValue_nan (h : f.Ieee) (hm : f.infCode < c % f.signBit) : floatValue f c = .nan := by
  have hmax : f.maxCode < c % f.signBit := by rw [h.maxCode_eq]; omega
  simp [floatValue, hm.ne', hmax]

/-- A magnitude below the infinity's is finite: a zero exponent field has no leading one. -/
theorem floatValue_finite (h : f.Ieee) (hm : c % f.signBit < f.infCode) :
    floatValue f c = if c % f.signBit / 2 ^ f.fbits = 0
      then .dyadic (decide (c / f.signBit % 2 = 1)) (c % f.signBit % 2 ^ f.fbits) (1 - f.bias - f.fbits)
      else .dyadic (decide (c / f.signBit % 2 = 1)) (2 ^ f.fbits + c % f.signBit % 2 ^ f.fbits)
        ((c % f.signBit / 2 ^ f.fbits : Nat) - f.bias - f.fbits) := by
  have hmax : ¬ f.maxCode < c % f.signBit := by rw [h.maxCode_eq]; omega
  simp [floatValue, hm.ne, hmax]

theorem floatValue_of_mag_zero (h : f.Ieee) (hm : c % f.signBit = 0) :
    floatValue f c = .fin (decide (c / f.signBit % 2 = 1)) 0 (pow2 (1 - f.bias - f.fbits)).2 := by
  simp [floatValue_finite h (hm ▸ h.infCode_pos), hm, Num.dyadic]

theorem floatValue_infCode (h : f.Ieee) : floatValue f f.infCode = .inf false := by
  have hlt := f.infCode_lt_signBit
  simp [floatValue_of_mag_infCode h (Nat.mod_eq_of_lt hlt), Nat.div_eq_of_lt hlt]

theorem floatValue_minus_infCode (h : f.Ieee) : floatValue f (f.signBit + f.infCode) = .inf true := by
  have hlt := f.infCode_lt_signBit
  rw [floatValue_of_mag_infCode h (by simp [Nat.mod_eq_of_lt hlt]), Nat.add_div_left _ f.signBit_pos, Nat.div_eq_of_lt hlt]
  rfl

theorem floatValue_zero (h : f.Ieee) : floatValue f 0 = .fin false 0 (pow2 (1 - f.bias - f.fbits)).2 := by
  simp [floatValue_of_mag_zero h (Nat.zero_mod _)]

theorem floatValue_minus_zero (h : f.Ieee) : floatValue f f.signBit = .fin true 0 (pow2 (1 - f.bias - f.fbits)).2 := by
  simp [floatValue_of_mag_zero h (Nat.mod_self _), Nat.div_self f.signBit_pos]

/-- The codes above minus zero up to minus infinity are negative and not zero. -/
theorem floatValue_negative (h : f.Ieee) (hc : c < 2 * f.signBit) (hs : f.signBit < c) (hm : c % f.signBit ≤ f.infCode) :
    floatValue f c = .inf true ∨ ∃ n d, n ≠ 0 ∧ floatValue f c = .fin true n d := by
  have hmag : c % f.signBit = c - f.signBit := by
    rw [Nat.mod_eq_sub_mod hs.le, Nat.mod_eq_of_lt (by omega)]
  have hsign : c / f.signBit % 2 = 1 := by
    rw [Nat.div_eq_of_lt_le (k := 1) (by omega) (by omega)]
  obtain heq | hlt := hm.eq_or_lt
  · exact .inl (by simp [floatValue_of_mag_infCode h heq, hsign])
  · rw [floatValue_finite h hlt, hsign]
    split
    next he =>
      have hfrac := Nat.div_add_mod (c % f.signBit) (2 ^ f.fbits)
      rw [he] at hfrac
      exact .inr ⟨_, _, Nat.mul_ne_zero (by omega) (pow2_num_pos _).ne', rfl⟩
    next => exact .inr ⟨_, _, Nat.mul_ne_zero (by positivity) (pow2_num_pos _).ne', rfl⟩

theorem floatValue_den_pos (h : f.Ieee) {s : Bool} {n d : Nat} (hv : floatValue f c = .fin s n d) : 0 < d := by
  obtain hlt | heq | hgt := lt_trichotomy (c % f.signBit) f.infCode
  · rw [floatValue_finite h hlt] at hv
    split at hv <;> cases hv <;> exact pow2_den_pos _
  · simp [floatValue_of_mag_infCode h heq] at hv
  · simp [floatValue_nan h hgt] at hv

end

end Sys2Proof.Machine
end

section
/-!
PROOF. The rounding at the ends of a format's range (R242): the exponent that it takes, what lies beyond the largest finite value, and one.
-/

namespace Sys2Proof.Machine

/-! ### Exponents -/

/-- The difference of the two logarithms is the exponent or one above it. -/
theorem ratio_between_log2 {n d : Nat} (hn : 0 < n) (hd : 0 < d) :
    (2 : ℚ) ^ ((Nat.log2 n : Int) - Nat.log2 d - 1) ≤ n / d ∧ (n / d : ℚ) < 2 ^ ((Nat.log2 n : Int) - Nat.log2 d + 1) := by
  have hd' : (0 : ℚ) < d := by exact_mod_cast hd
  have hnlo : (2 : ℚ) ^ Nat.log2 n ≤ n := by exact_mod_cast Nat.log2_self_le hn.ne'
  have hnhi : (n : ℚ) < 2 ^ (Nat.log2 n + 1) := by exact_mod_cast Nat.lt_log2_self
  have hdlo : (2 : ℚ) ^ Nat.log2 d ≤ d := by exact_mod_cast Nat.log2_self_le hd.ne'
  have hdhi : (d : ℚ) < 2 ^ (Nat.log2 d + 1) := by exact_mod_cast Nat.lt_log2_self
  have two : (2 : ℚ) ≠ 0 := two_ne_zero
  constructor
  · calc (2 : ℚ) ^ ((Nat.log2 n : Int) - Nat.log2 d - 1)
        = 2 ^ Nat.log2 n / 2 ^ (Nat.log2 d + 1) := by
          rw [sub_sub, zpow_sub₀ two]; norm_cast
      _ ≤ n / d := div_le_div₀ (by positivity) hnlo hd' hdhi.le
  · calc (n / d : ℚ) < 2 ^ (Nat.log2 n + 1) / 2 ^ Nat.log2 d := div_lt_div₀ hnhi hdlo (by positivity) (by positivity)
      _ = 2 ^ ((Nat.log2 n : Int) - Nat.log2 d + 1) := by
          rw [sub_add_eq_add_sub, zpow_sub₀ two]; norm_cast

/-- The comparison of floorLog2 says on which side of 2^e the ratio lies. -/
theorem scaled_lt_iff {n d : Nat} (hd : 0 < d) (e : Int) :
    n * (pow2 (-e)).1 < d * (pow2 (-e)).2 ↔ (n / d : ℚ) < 2 ^ e := by
  have hd' : (0 : ℚ) < d := by exact_mod_cast hd
  have hp : (0 : ℚ) < (pow2 (-e)).1 := by exact_mod_cast pow2_num_pos _
  have he : (2 : ℚ) ^ e = (pow2 (-e)).2 / (pow2 (-e)).1 := by
    rw [← inv_div, pow2_ratio, zpow_neg, inv_inv]
  rw [he, div_lt_div_iff₀ hd' hp, mul_comm ((pow2 (-e)).2 : ℚ)]
  norm_cast

theorem zpow_floorLog2_le {n d : Nat} (hn : 0 < n) (hd : 0 < d) : (2 : ℚ) ^ floorLog2 n d ≤ n / d := by
  simp only [floorLog2]
  split
  next => exact (ratio_between_log2 hn hd).1
  next h => exact not_lt.mp (mt (scaled_lt_iff hd _).mpr h)

theorem lt_zpow_floorLog2 {n d : Nat} (hn : 0 < n) (hd : 0 < d) : (n / d : ℚ) < 2 ^ (floorLog2 n d + 1) := by
  simp only [floorLog2]
  split
  next h => simpa using (scaled_lt_iff hd _).mp h
  next => exact (ratio_between_log2 hn hd).2

theorem le_floorLog2 {n d : Nat} {k : Int} (hn : 0 < n) (hd : 0 < d) (hk : (2 : ℚ) ^ k ≤ n / d) : k ≤ floorLog2 n d := by
  have hlt : (2 : ℚ) ^ k < 2 ^ (floorLog2 n d + 1) := hk.trans_lt (lt_zpow_floorLog2 hn hd)
  have := (zpow_lt_zpow_iff_right₀ one_lt_two).mp hlt
  omega

section

variable {f : Fmt}

/-! ### Beyond the largest finite value -/

/-- The significand of a value whose exponent is e has its leading one. -/
theorem leading_one_le_quotient {n d : Nat} {e : Int} (hd : 0 < d) (he : (2 : ℚ) ^ e ≤ n / d) :
    2 ^ f.fbits ≤ n * (pow2 (f.fbits - e)).1 / (d * (pow2 (f.fbits - e)).2) := by
  have hd' : (0 : ℚ) < d := by exact_mod_cast hd
  have hp : (0 : ℚ) < (pow2 (f.fbits - e)).2 := by exact_mod_cast pow2_den_pos _
  rw [Nat.le_div_iff_mul_le (Nat.mul_pos hd (pow2_den_pos _))]
  have hq : (2 : ℚ) ^ f.fbits ≤ n * (pow2 (f.fbits - e)).1 / (d * (pow2 (f.fbits - e)).2) := by
    calc (2 : ℚ) ^ f.fbits = 2 ^ e * 2 ^ ((f.fbits : Int) - e) := by
          rw [← zpow_add₀ two_ne_zero]; simp
      _ ≤ n / d * 2 ^ ((f.fbits : Int) - e) := by gcongr
      _ = n * (pow2 (f.fbits - e)).1 / (d * (pow2 (f.fbits - e)).2) := by
          rw [← pow2_ratio, div_mul_div_comm]
  rw [le_div_iff₀ (by positivity)] at hq
  exact_mod_cast hq

/-- A magnitude of at least 2^(bias + 1) has no code below infinity's. -/
theorem infCode_le_roundMag (h : f.Ieee) (mode : Mode) (neg : Bool) {n d : Nat} (sticky : Bool) (hn : 0 < n) (hd : 0 < d)
    (hbig : (2 : ℚ) ^ (f.bias + 1 : Int) ≤ n / d) : f.infCode ≤ (roundMag f mode neg n d sticky).1 := by
  have he : (f.bias + 1 : Int) ≤ floorLog2 n d := le_floorLog2 hn hd hbig
  have hmax : max (floorLog2 n d) (1 - f.bias) = floorLog2 n d := max_eq_left (by omega)
  have hq := leading_one_le_quotient (f := f) hd (zpow_floorLog2_le hn hd)
  simp only [roundMag, hmax]
  calc f.infCode = 2 * f.bias * 2 ^ f.fbits + 2 ^ f.fbits := by rw [h.infCode_eq, Nat.add_one_mul]
    _ ≤ _ := Nat.add_le_add (Nat.mul_le_mul_right _ (by omega)) (hq.trans (by split <;> omega))

theorem roundFlags_overflow : roundFlags true false true false = flagOF ||| flagNX := by decide

/-- Nearest even gives infinity for what lies beyond the largest finite value, with the flags of an overflow (R242, R250). -/
theorem roundFloat_overflow (h : f.Ieee) {n d : Nat} (sticky : Bool) (hn : 0 < n) (hd : 0 < d)
    (hbig : (2 : ℚ) ^ (f.bias + 1 : Int) ≤ n / d) :
    roundFloat f .ne false (.fin false n d) sticky = (f.infCode, flagOF ||| flagNX) := by
  have hcode : f.maxCode < (roundMag f .ne false n d sticky).1 := by
    have := infCode_le_roundMag h .ne false sticky hn hd hbig
    have := h.infCode_pos
    rw [h.maxCode_eq]
    omega
  simp [roundFloat, hn.ne', hcode, overflowCode, h.hasInf, roundFlags_overflow]

/-- The same of m × 2^e with m at least 2^k. -/
theorem roundFloat_dyadic_overflow (h : f.Ieee) {m k : Nat} {e : Int} (sticky : Bool) (hm : 2 ^ k ≤ m) (he : (f.bias : Int) + 1 ≤ k + e) :
    roundFloat f .ne false (.dyadic false m e) sticky = (f.infCode, flagOF ||| flagNX) := by
  have hpos : 0 < m := (Nat.two_pow_pos k).trans_le hm
  refine roundFloat_overflow h sticky (Nat.mul_pos hpos (pow2_num_pos _)) (pow2_den_pos _) ?_
  calc (2 : ℚ) ^ (f.bias + 1 : Int) ≤ 2 ^ (k + e : Int) := zpow_le_zpow_right₀ one_le_two he
    _ = 2 ^ k * 2 ^ e := by rw [zpow_add₀ two_ne_zero, zpow_natCast]
    _ ≤ m * 2 ^ e := by
      gcongr
      exact_mod_cast hm
    _ = _ := by rw [← pow2_ratio, Nat.cast_mul, mul_div_assoc]

/-! ### One -/

theorem roundMag_one (h : f.Ieee) (s : Bool) : roundMag f .ne s 1 1 false = (f.bias * 2 ^ f.fbits, false) := by
  have hb := h.bias_pos
  have hlog : floorLog2 1 1 = 0 := by decide
  have hmax : max (0 : Int) (1 - f.bias) = 0 := max_eq_left (by omega)
  have hexp : (f.bias - 1) * 2 ^ f.fbits + 2 ^ f.fbits = f.bias * 2 ^ f.fbits := by
    rw [← Nat.add_one_mul, Nat.sub_add_cancel hb]
  simp [roundMag, hlog, hmax, pow2, roundUp, Nat.mod_one, hexp]

/-- One has a code, which is given without a flag. -/
theorem roundFloat_one (h : f.Ieee) (s : Bool) :
    roundFloat f .ne false (.fin s 1 1) false = ((if s then f.signBit else 0) + f.bias * 2 ^ f.fbits, 0) := by
  have hle : ¬ f.maxCode < f.bias * 2 ^ f.fbits := by
    rw [h.maxCode_eq, h.infCode_eq, Nat.add_one_mul, mul_assoc]
    have := Nat.two_pow_pos f.fbits
    omega
  simp [roundFloat, roundMag_one h, hle, roundFlags, flagIf]

end

end Sys2Proof.Machine
end

section
/-!
PROOF. VEXP2 beyond the largest finite result: the fixed-point exponential of a value that is not negative is at least one.
-/

namespace Sys2Proof.Machine

/-! ### Signs of fixed-point numbers -/

theorem fxOne_pos : 0 < fxOne := by unfold fxOne; positivity

theorem fxMul_nonneg {a b : Int} (ha : 0 ≤ a) (hb : 0 ≤ b) : 0 ≤ fxMul a b :=
  Int.ediv_nonneg (mul_nonneg ha hb) fxOne_pos.le

/-- The sum of a series whose terms are not negative is not below what was summed before. -/
theorem le_fxSeries {next : Nat → Int → Int} (hnext : ∀ k t, 0 ≤ t → 0 ≤ next k t) {t : Int} (ht : 0 ≤ t) (n k : Nat) (acc : Int) :
    acc ≤ fxSeries next n k t acc := by
  induction n generalizing k t acc with
  | zero => exact le_rfl
  | succ n ih => exact (le_add_of_nonneg_right ht).trans (ih (hnext k t ht) (k + 1) (acc + t))

/-- A series with a term is not below that term either. -/
theorem add_le_fxSeries {next : Nat → Int → Int} (hnext : ∀ k t, 0 ≤ t → 0 ≤ next k t) {t : Int} (ht : 0 ≤ t) (n k : Nat) (acc : Int) :
    acc + t ≤ fxSeries next (n + 1) k t acc :=
  le_fxSeries hnext (hnext k t ht) n (k + 1) (acc + t)

theorem le_fxAtanhAux {z2 p : Int} (hz : 0 ≤ z2) (hp : 0 ≤ p) (n k : Nat) (acc : Int) : acc ≤ fxAtanhAux z2 n k p acc := by
  induction n generalizing k p acc with
  | zero => exact le_rfl
  | succ n ih =>
    exact (le_add_of_nonneg_right (Int.ediv_nonneg hp (Int.natCast_nonneg _))).trans (ih (fxMul_nonneg hp hz) (k + 1) _)

theorem fxAtanh_nonneg {z : Int} (hz : 0 ≤ z) : 0 ≤ fxAtanh z := le_fxAtanhAux (fxMul_nonneg hz hz) hz 110 0 0

theorem fxLn2_nonneg : 0 ≤ fxLn2 :=
  mul_nonneg (by decide) (fxAtanh_nonneg (Int.ediv_nonneg fxOne_pos.le (by decide)))

theorem fxOf_nonneg (n d : Nat) : 0 ≤ fxOf false n d := Int.natCast_nonneg _

/-- The first term of the series of e^y is one, and no other lowers the sum. -/
theorem fxOne_le_fxExpSmall {y : Int} (hy : 0 ≤ y) : fxOne ≤ fxExpSmall y := by
  have hnext (k : Nat) (t : Int) (ht : 0 ≤ t) : 0 ≤ fxMul t y / (k + 1 : Nat) :=
    Int.ediv_nonneg (fxMul_nonneg ht hy) (Int.natCast_nonneg _)
  calc fxOne = 0 + fxOne := (zero_add _).symm
    _ ≤ fxExpSmall y := add_le_fxSeries hnext fxOne_pos.le 79 0 0

/-! ### Overflow of VEXP2 -/

variable {f : Fmt} {c : Nat}

theorem roundTrans_fxNum_overflow (h : f.Ieee) {v i : Int} (hv : fxOne ≤ v) (hi : (f.bias : Int) + 1 ≤ i) :
    roundTrans f (fxNum v i) = (f.infCode, flagOF ||| flagNX) := by
  have hneg : decide (v < 0) = false := decide_eq_false (not_lt.mpr (fxOne_pos.le.trans hv))
  have habs : 2 ^ fxP ≤ v.natAbs := by unfold fxOne at hv; omega
  rw [roundTrans, fxNum, hneg]
  exact roundFloat_dyadic_overflow h true habs (by omega)

/-- An exponent of bias + 1 or more overflows in each of VEXP2's ways to its result: a whole exponent, one above 512, and a fraction. -/
theorem spExp2_overflow (h : f.Ieee) {n d : Nat} (hv : floatValue f c = .fin false n d) (hbig : (f.bias + 1) * d ≤ n) :
    spExp2 f c = (f.infCode, flagOF ||| flagNX) := by
  have hd := floatValue_den_pos h hv
  have hq : f.bias + 1 ≤ n / d := (Nat.le_div_iff_mul_le hd).mpr hbig
  have hi : (f.bias : Int) + 1 ≤ (n : Int) / d := by exact_mod_cast hq
  have hb := h.bias_lt
  simp only [spExp2, hv, snum, Bool.false_eq_true, if_false]
  split
  next => exact roundFloat_dyadic_overflow (k := 0) h false le_rfl (by push_cast; omega)
  next =>
    split
    next => exact roundFloat_dyadic_overflow (k := 0) h true le_rfl (by omega)
    next =>
      rw [if_neg (by omega)]
      exact roundTrans_fxNum_overflow h (fxOne_le_fxExpSmall (fxMul_nonneg (fxOf_nonneg _ _) fxLn2_nonneg)) hi

end Sys2Proof.Machine
end

section
/-!
PROOF. The statement on the special functions' table: O31, row by row of R303.
-/

namespace Sys2Proof.Machine

section

variable {f : Fmt} {c : Nat}

theorem special_of_nan (md : Mode) (hv : floatValue f c = .nan) :
    spExp2 f c = (f.nanCode, 0) ∧ spLog2 f c = (f.nanCode, 0) ∧ spRcp f md c = (f.nanCode, 0) ∧ spRsq f c = (f.nanCode, 0) ∧
    spSqrt f md c = (f.nanCode, 0) ∧ spSin 0 f c = (f.nanCode, 0) ∧ spSin 1 f c = (f.nanCode, 0) ∧ spTanh f c = (f.nanCode, 0) ∧
    spSigm f c = (f.nanCode, 0) := by
  simp [spExp2, spLog2, spRcp, spRsq, spSqrt, spSin, spTanh, spSigm, hv]

/-- VLOG2, VRSQ and VSQRT have no value at a negative input. -/
theorem special_of_negative (md : Mode) (hv : floatValue f c = .inf true ∨ ∃ n d, n ≠ 0 ∧ floatValue f c = .fin true n d) :
    spLog2 f c = (f.nanCode, flagNV) ∧ spRsq f c = (f.nanCode, flagNV) ∧ spSqrt f md c = (f.nanCode, flagNV) := by
  obtain hv | ⟨n, d, hn, hv⟩ := hv
  · simp [spLog2, spRsq, spSqrt, hv]
  · simp [spLog2, spRsq, spSqrt, hv, hn]

theorem spSin_out_of_range (q : Int) (hv : (∃ s, floatValue f c = .inf s) ∨ ∃ s n d, floatValue f c = .fin s n d ∧ 65536 * d < n) :
    spSin q f c = (f.nanCode, flagRANGE) := by
  obtain ⟨s, hv⟩ | ⟨s, n, d, hv, hbig⟩ := hv
  · simp [spSin, hv]
  · simp [spSin, hv, hbig]

theorem spExp2_infinities (h : f.Ieee) : spExp2 f (f.signBit + f.infCode) = (0, 0) ∧ spExp2 f f.infCode = (f.infCode, 0) := by
  simp [spExp2, floatValue_minus_infCode h, floatValue_infCode h]

theorem spLog2_zeros_infinity (h : f.Ieee) :
    spLog2 f 0 = (f.signBit + f.infCode, flagDZ) ∧ spLog2 f f.signBit = (f.signBit + f.infCode, flagDZ) ∧
    spLog2 f f.infCode = (f.infCode, 0) := by
  simp [spLog2, floatValue_zero h, floatValue_minus_zero h, floatValue_infCode h]

theorem spRcp_zeros_infinities (h : f.Ieee) (md : Mode) :
    spRcp f md 0 = (f.infCode, flagDZ) ∧ spRcp f md f.signBit = (f.signBit + f.infCode, flagDZ) ∧ spRcp f md f.infCode = (0, 0) ∧
    spRcp f md (f.signBit + f.infCode) = (f.signBit, 0) := by
  simp [spRcp, floatValue_zero h, floatValue_minus_zero h, floatValue_infCode h, floatValue_minus_infCode h]

theorem spRsq_zeros (h : f.Ieee) :
    spRsq f 0 = (f.infCode, flagDZ) ∧ spRsq f f.signBit = (f.signBit + f.infCode, flagDZ) := by
  simp [spRsq, floatValue_zero h, floatValue_minus_zero h]

theorem spSqrt_zeros_infinity (h : f.Ieee) (md : Mode) :
    spSqrt f md 0 = (0, 0) ∧ spSqrt f md f.signBit = (f.signBit, 0) ∧ spSqrt f md f.infCode = (f.infCode, 0) := by
  simp [spSqrt, floatValue_zero h, floatValue_minus_zero h, floatValue_infCode h]

theorem spTanh_infinities (h : f.Ieee) :
    spTanh f f.infCode = (f.bias * 2 ^ f.fbits, 0) ∧
    spTanh f (f.signBit + f.infCode) = (f.signBit + f.bias * 2 ^ f.fbits, 0) := by
  simp [spTanh, floatValue_infCode h, floatValue_minus_infCode h, roundFloat_one h]

theorem spSigm_infinities (h : f.Ieee) :
    spSigm f (f.signBit + f.infCode) = (0, 0) ∧ spSigm f f.infCode = (f.bias * 2 ^ f.fbits, 0) := by
  simp [spSigm, floatValue_infCode h, floatValue_minus_infCode h, roundFloat_one h]

end

/-- Settles O31: the rows of R303's table, each from what its input's code stands for. -/
theorem specialInputsGiveTheTable : Obligations.SpecialInputsGiveTheTable := by
  intro g md c hg hc
  have h : g.Ieee := by
    obtain rfl | rfl | rfl := hg
    · exact Fmt.ieee_f32
    · exact Fmt.ieee_bf16
    · exact Fmt.ieee_f16
  have hneg (hs : g.signBit < c) (hm : c % g.signBit ≤ g.infCode) := special_of_negative md (floatValue_negative h hc hs hm)
  obtain ⟨hexpMinus, hexpInf⟩ := spExp2_infinities h
  obtain ⟨hlogZero, hlogMinus, hlogInf⟩ := spLog2_zeros_infinity h
  obtain ⟨hrsqZero, hrsqMinus⟩ := spRsq_zeros h
  obtain ⟨hsqrtZero, hsqrtMinus, hsqrtInf⟩ := spSqrt_zeros_infinity h md
  refine ⟨fun hm => special_of_nan md (floatValue_nan h hm),
    ⟨hexpMinus, hexpInf, fun n d hv hbig => spExp2_overflow h hv hbig⟩,
    ⟨hlogZero, hlogMinus, hlogInf, fun hs hm => let ⟨hlog, _, _⟩ := hneg hs hm; hlog⟩,
    spRcp_zeros_infinities h md,
    ⟨hrsqZero, hrsqMinus, fun hs hm => let ⟨_, hrsq, _⟩ := hneg hs hm; hrsq⟩,
    ⟨hsqrtZero, hsqrtMinus, hsqrtInf, fun hs hm => let ⟨_, _, hsqrt⟩ := hneg hs hm; hsqrt⟩,
    fun q _ => ⟨?_, ?_, ?_⟩,
    spTanh_infinities h,
    spSigm_infinities h⟩
  · exact spSin_out_of_range q (.inl ⟨_, floatValue_infCode h⟩)
  · exact spSin_out_of_range q (.inl ⟨_, floatValue_minus_infCode h⟩)
  · exact fun b n d hv hbig => spSin_out_of_range q (.inr ⟨b, n, d, hv, hbig⟩)

end Sys2Proof.Machine
end
